-- ==== Sys2Proof/Word.lean ====
section
/-! DEFINITION. The word types of the T9 and the plainest conversions between them (00 R5, R6; 01 R11). -/

namespace Sys2Proof

/-- A 64-bit register or doubleword. -/
abbrev Word := BitVec 64

/-- A byte. -/
abbrev Byte := BitVec 8

/-- A 512-bit vector register. -/
abbrev Vec := BitVec 512

/-- Bits `[lo + n - 1 : lo]` of `w`, as a number. -/
def bits (w lo n : Nat) : Nat := w / 2 ^ lo % 2 ^ n

/-- SignExt of the spec: the `w`-bit value `v` extended to 64 bits (04 R71). -/
def sext {w : Nat} (v : BitVec w) : Word := v.signExtend 64

/-- The `n` low bytes of `v`, the least significant first (00 R6). -/
def leBytes : Nat → Nat → List Byte
  | 0, _ => []
  | n + 1, v => BitVec.ofNat 8 v :: leBytes n (v / 256)

/-- The number whose bytes are `bs`, the least significant first (00 R6). -/
def leNat : List Byte → Nat
  | [] => 0
  | b :: bs => b.toNat + 256 * leNat bs

end Sys2Proof
end

