-- ==== Sys2Proof/Machine/Codes.lean ====
section
/-! DEFINITION. The names that encodings and packets are made of: element types, sizes, scopes, rounding modes,
format pairs (03 R55 to R64), identities of slots (01 R18), keys (25 R388, R389) and the packets that travel
between dies, devices and units (21 R335, R347; 25 R390). -/

namespace Sys2Proof

/-- `size` of LD, ST, LDG, STG (03 Table 3-4). -/
inductive Size where
  | b | h | w | d
  deriving DecidableEq, Repr

/-- `size` of FLD, FST; code 0 is unassigned (03 Table 3-4). -/
inductive FSize where
  | h | s | d
  deriving DecidableEq, Repr

/-- `size` of ATOM; code 3 is unassigned (03 Table 3-4). -/
inductive ASize where
  | w | d | q
  deriving DecidableEq, Repr

/-- Scopes (10 Table 10-3). -/
inductive Scope where
  | die | pkg | dom | sys
  deriving DecidableEq, Repr

/-- Rounding modes (01 Table 1-6). -/
inductive Rnd where
  | rne | rtz | rto | rsr
  deriving DecidableEq, Repr

/-- Integer element types (07 Table 7-1). -/
inductive IType where
  | b | h | w | d
  deriving DecidableEq, Repr

/-- Floating types: FP16, BF16, FP32, FP64 (03 Table 3-4). -/
inductive FType where
  | h | bf | s | d
  deriving DecidableEq, Repr

/-- Format codes of `vcvt` (03 R63). -/
inductive CFmt where
  | ib | ih | iw | id | h | bf | s | d
  deriving DecidableEq, Repr

/-- Tile formats in memory; code 3 is unassigned (03 R64). -/
inductive MType where
  | s | bf | h
  deriving DecidableEq, Repr

/-- Format pairs of `mma`; codes 13 to 31 are unassigned (03 Table 3-10). -/
inductive Pair where
  | m8m8 | e43e43 | e43e52 | e52e43 | e52e52 | i8i8 | e23e23 | e23e32 | e32e23 | e32e32 | e21e21 | bfbf | hh
  deriving DecidableEq, Repr

/-- Operations of atomics (03 R56, 10 R217). -/
inductive AtomOp where
  | add | and | or | xor | min | max | minu | maxu | swap | cas | faddS | fminS | fmaxS
  deriving DecidableEq, Repr

/-- A core of the module: [10:8] die, [7:4] cluster, [3:0] core, as id.core shows it (01 R18). -/
abbrev CoreId := BitVec 11

/-- A slot of a core: 0 to 3 for the task slots, 4 for the service slot (01 R18). -/
structure SlotId where
  core : CoreId
  slot : Nat
  deriving DecidableEq, Repr

/-- The die of a core. -/
def dieOf (c : CoreId) : Nat := c.toNat / 256

/-- The cluster of a core, within its die. -/
def clusterOf (c : CoreId) : Nat := c.toNat / 16 % 16

/-- The core's number within its cluster. -/
def coreNumOf (c : CoreId) : Nat := c.toNat % 16

/-- The key under which a granule is held, by what it is derived from (25 Table 25-1): two keys are the same key
exactly when their sources are (log 3). A granule of host memory is tied to the IOVA granule that it was written as (25 R389). -/
inductive KeyId where
  | clear
  | memory (source : BitVec 256)
  | chain (source : BitVec 256) (chainId : Word)
  | hosted (source : BitVec 256) (chainId : Option Word) (granule : Nat)
  deriving DecidableEq, Repr

/-- What the port key of one opening of a world is derived from (25 Table 25-1, R390): a packet opens at a port exactly when this is the open
world's. `epoch` is the handle's; of an anonymous world it is the boot nonce, and `opened` its WORLD_OPEN position. -/
structure PortKey where
  root : BitVec 256
  chainId : Word
  epoch : Word
  opened : Word
  deriving DecidableEq, Repr

/-- Where a packet is bound. -/
inductive Dest where
  /-- a byte of class 0 to 3 of this module (09 Table 9-6) -/
  | mem (cls addr : Nat)
  /-- a byte of a core's pool of this module -/
  | pool (core : CoreId) (off : Nat)
  /-- a device, this one included, by the space-10 or space-11 address that names it (09 R195, R197) -/
  | peer (addr : Word)
  /-- bytes of the device of the slot `src` by its own program address, of space 00 or 01 (18 R288) -/
  | issuer (addr : Word)
  /-- the tile task of the sender's capsule with this linear index (06 R127) -/
  | task (linear : Nat)
  /-- the slot that waits for this answer -/
  | reply (slot : SlotId)
  deriving DecidableEq, Repr

/-- What a packet carries. -/
inductive Cargo where
  /-- bytes to write, and whether they are poisoned -/
  | write (data : List Byte) (poison : Bool)
  /-- a request for this many bytes -/
  | read (len : Nat)
  /-- one read-modify-write (10 R217) -/
  | atomic (op : AtomOp) (sz : ASize) (cmp arg : Nat)
  /-- returning load or atomic data, and whether it is poisoned -/
  | data (bytes : List Byte) (poison : Bool)
  /-- the 64 bytes of a `send` -/
  | message (payload : Vec)
  /-- the setting of an event latch by `sev` -/
  | event
  /-- the flag of a counted release: the byte count and the value (21 R347) -/
  | flag (count : Nat) (value : Word)
  /-- a copy piece asked of a streamer of another device (18 R286): source, destinations as the issuer's program names them, bytes, command and
  byte index -/
  | piece (src : Word) (dsts : List Word) (len copy at0 : Nat)
  /-- bytes of a copy that a streamer has performed or sent off its die (18 R291): command, byte index, bytes, number of the destination -/
  | count (copy at0 len dst : Nat)
  deriving DecidableEq, Repr

/-- Where a packet stands (21 Table 21-1). -/
inductive Hop where
  /-- the cluster port's outbound combining buffer: it has not departed (10 R211) -/
  | combining
  | cluster | spine | package
  /-- a Skelser port -/
  | port (n : Nat)
  /-- the last switch above its target; the target may take it -/
  | target
  deriving DecidableEq, Repr

/-- A packet in flight (21 R336, R347; 25 R390). -/
structure Packet where
  cargo : Cargo
  /-- the slot whose instruction caused it -/
  src : SlotId
  /-- number of the tile task or activation there (01 R20) -/
  task : Nat := 0
  srcDev : BitVec 16
  /-- position of the capsule it belongs to -/
  capsule : Nat
  dest : Dest
  /-- key of the data at rest at a memory target -/
  key : KeyId
  /-- number of the request that an answer answers; of a store, one number for all its parts -/
  req : Nat
  /-- counted header word (21 Table 21-6), for counted packets -/
  header : Option Word
  hop : Hop
  /-- switches that stand between it and its lowest common switch, still to climb -/
  climb : Nat
  /-- the input port of the switch where it stands -/
  inPort : Nat
  /-- the die where it entered the fabric or was last deflected, 8 for the hub, and its cluster -/
  srcDie : Nat := 0
  srcCl : Nat := 0
  /-- the die where it entered the fabric, 8 for the hub -/
  home : Nat := 8
  /-- it has left that die for another (10 R213; 18 R291) -/
  away : Bool := false
  /-- the piece that a write to the host is metered as: its first byte and its bytes (25 R399) -/
  meter : Option (Nat × Nat) := none
  /-- class of the host or CXL memory for which its slot waits: 2 or 1 (10 R213) -/
  tier : Nat := 0
  /-- linear index of the tile task that a held write is of (20 Table 20-6) -/
  linear : Nat := 0
  /-- the device of the slot `src`, where that is not this one -/
  ofDev : Option (BitVec 16) := none
  /-- it has come from another device -/
  inbound : Bool := false
  /-- AGE when `born` (21 R336) -/
  age0 : Nat
  born : Nat
  portKey : PortKey
  /-- counter of its flow, and the flow within the module in which a port has sealed it (25 R390) -/
  seq : Nat
  flow : Option Nat := none
  /-- whether the sealed bytes and tag are as they were sealed -/
  intact : Bool
  /-- the time by which it is performed or dropped: the lifetime bounds of 10 R213 and 21 R336 -/
  due : Option Nat := none
  /-- a write of a copy: number of the command, first byte index, number of the destination (18 R299, R300) -/
  piece : Option (Nat × Nat × Nat) := none
  deriving DecidableEq, Repr

end Sys2Proof
end

