-- ==== Sys2Proof/Machine/Float.lean ====
section
/-! DEFINITION. Binary floating point on exact dyadic numbers: decoding, and one rounding (01 R27 to R32; 04 R95 to R103). -/

namespace Sys2Proof.Machine

/-- A binary interchange format: exponent bits and fraction bits (01 R27). -/
structure FFmt where
  ebits : Nat
  mbits : Nat
  deriving DecidableEq, Repr

def fp16 : FFmt := ⟨5, 10⟩
def bf16 : FFmt := ⟨8, 7⟩
def fp32 : FFmt := ⟨8, 23⟩
def fp64 : FFmt := ⟨11, 52⟩

/-- The format of a floating type code (03 Table 3-4). -/
def ftypeFmt : FType → FFmt
  | .h => fp16 | .bf => bf16 | .s => fp32 | .d => fp64

/-- Bits of a value of the format. -/
def fwidth (f : FFmt) : Nat := 1 + f.ebits + f.mbits

def fbias (f : FFmt) : Nat := 2 ^ (f.ebits - 1) - 1

/-- Encoding of +infinity. -/
def finf (f : FFmt) : Nat := (2 ^ f.ebits - 1) * 2 ^ f.mbits

/-- The canonical quiet NaN (01 R29). -/
def fnan (f : FFmt) : Nat := finf f + 2 ^ (f.mbits - 1)

/-- The sign bit's weight. -/
def fsign (f : FFmt) : Nat := 2 ^ (f.ebits + f.mbits)

/-- An exact value: (-1)^neg * m * 2^e, an infinity, or a NaN. -/
inductive FVal where
  | nan
  | inf (neg : Bool)
  | fin (neg : Bool) (m : Nat) (e : Int)
  deriving DecidableEq, Repr

/-- The value of an encoding; bits above the format are ignored (01 R12). -/
def fdecode (f : FFmt) (w : Nat) : FVal :=
  let neg := w / fsign f % 2 == 1
  let ex := w / 2 ^ f.mbits % 2 ^ f.ebits
  let fr := w % 2 ^ f.mbits
  if ex = 2 ^ f.ebits - 1 then (if fr = 0 then .inf neg else .nan)
  else if ex = 0 then .fin neg fr (1 - (fbias f : Int) - f.mbits)
  else .fin neg (2 ^ f.mbits + fr) ((ex : Int) - fbias f - f.mbits)

/-- Bits needed for `n`. -/
def bitLen (n : Nat) : Nat := if n = 0 then 0 else Nat.log2 n + 1

/-- `sig` with `sh` bits below it: `rem` and a mark that something non-zero lies below those; the significand after
rounding (01 Table 1-6). `draw` is the S of .rsr. -/
def roundSig (mode : Rnd) (draw sig sh rem : Nat) (sticky : Bool) : Nat :=
  let exact := rem == 0 && !sticky
  match mode with
  | .rtz => sig
  | .rto => if exact then sig else sig ||| 1
  | .rne =>
    if sh = 0 then sig
    else
      let half := 2 ^ (sh - 1)
      if rem > half ∨ (rem = half ∧ (sticky = true ∨ sig % 2 = 1)) then sig + 1 else sig
  | .rsr =>
    let d := if 16 ≤ sh then rem / 2 ^ (sh - 16) else rem * 2 ^ (16 - sh)
    if 2 ^ 16 ≤ d + draw then sig + 1 else sig

/-- The integer significand of |m 2^e| at quantum 2^q after rounding. -/
def roundAt (mode : Rnd) (draw m : Nat) (e q : Int) (sticky : Bool) : Nat :=
  if q ≤ e then m * 2 ^ (e - q).toNat
  else
    let sh := (q - e).toNat
    roundSig mode draw (m / 2 ^ sh) sh (m % 2 ^ sh) sticky

/-- Round of 01 R32 on a finite value whose magnitude is m 2^e, or a little above it where `sticky`. The range is judged after rounding to
the format's precision (DEDUCED, log 63). -/
def roundFin (f : FFmt) (mode : Rnd) (draw : Nat) (neg : Bool) (m : Nat) (e : Int) (sticky : Bool) : Nat :=
  let sgn := if neg then fsign f else 0
  if m = 0 then sgn
  else
    let emin : Int := 1 - (fbias f : Int)
    let q := max (e + bitLen m - 1) emin - f.mbits
    let sig := roundAt mode draw m e q sticky
    let enc := (q + f.mbits - emin).toNat * 2 ^ f.mbits + sig
    if enc < finf f then sgn + enc
    else
      match mode with
      | .rne | .rsr => sgn + finf f
      | .rtz | .rto => sgn + finf f - 1

/-- Round of 01 R32. -/
def fround (f : FFmt) (mode : Rnd) (draw : Nat) : FVal → Nat
  | .nan => fnan f
  | .inf neg => (if neg then fsign f else 0) + finf f
  | .fin neg m e => roundFin f mode draw neg m e false

/-- The exact sum; a zero sum of opposite signs is +0 (01 R29, R30). -/
def fplus : FVal → FVal → FVal
  | .nan, _ => .nan
  | _, .nan => .nan
  | .inf a, .inf b => if a = b then .inf a else .nan
  | .inf a, .fin _ _ _ => .inf a
  | .fin _ _ _, .inf b => .inf b
  | .fin na ma ea, .fin nb mb eb =>
    let e := min ea eb
    let a : Int := (ma : Int) * 2 ^ (ea - e).toNat
    let b : Int := (mb : Int) * 2 ^ (eb - e).toNat
    let v := (if na then -a else a) + (if nb then -b else b)
    if v = 0 then .fin (na && nb) 0 0 else .fin (decide (v < 0)) v.natAbs e

/-- The value with its sign inverted. -/
def fneg : FVal → FVal
  | .nan => .nan
  | .inf a => .inf (!a)
  | .fin n m e => .fin (!n) m e

/-- The exact product. -/
def ftimes : FVal → FVal → FVal
  | .nan, _ => .nan
  | _, .nan => .nan
  | .inf a, .inf b => .inf (a != b)
  | .inf a, .fin b m _ => if m = 0 then .nan else .inf (a != b)
  | .fin a m _, .inf b => if m = 0 then .nan else .inf (a != b)
  | .fin na ma ea, .fin nb mb eb => .fin (na != nb) (ma * mb) (ea + eb)

/-- A op B rounded once (04 R95): sum, difference, product. -/
def fadd2 (f : FFmt) (mode : Rnd) (draw a b : Nat) : Nat := fround f mode draw (fplus (fdecode f a) (fdecode f b))

def fsub2 (f : FFmt) (mode : Rnd) (draw a b : Nat) : Nat := fround f mode draw (fplus (fdecode f a) (fneg (fdecode f b)))

def fmul2 (f : FFmt) (mode : Rnd) (draw a b : Nat) : Nat := fround f mode draw (ftimes (fdecode f a) (fdecode f b))

/-- The quotient rounded once (04 R95; 01 R30). -/
def fdiv2 (f : FFmt) (mode : Rnd) (draw a b : Nat) : Nat :=
  match fdecode f a, fdecode f b with
  | .nan, _ => fnan f
  | _, .nan => fnan f
  | .inf _, .inf _ => fnan f
  | .inf na, .fin nb _ _ => fround f mode draw (.inf (na != nb))
  | .fin na _ _, .inf nb => fround f mode draw (.fin (na != nb) 0 0)
  | .fin na ma ea, .fin nb mb eb =>
    if mb = 0 then (if ma = 0 then fnan f else fround f mode draw (.inf (na != nb)))
    else
      let n := ma * 2 ^ 192
      roundFin f mode draw (na != nb) (n / mb) (ea - 192 - eb) (n % mb != 0)

/-- The integer square root, bit by bit from the top. -/
def isqrt (n : Nat) : Nat :=
  (List.range 160).foldr (fun i r => if (r + 2 ^ i) * (r + 2 ^ i) ≤ n then r + 2 ^ i else r) 0

/-- The square root rounded once (04 R95). -/
def fsqrt1 (f : FFmt) (mode : Rnd) (draw a : Nat) : Nat :=
  match fdecode f a with
  | .nan => fnan f
  | .inf neg => if neg then fnan f else finf f
  | .fin neg m e =>
    if m = 0 then (if neg then fsign f else 0)
    else if neg then fnan f
    else
      let odd := (e % 2).toNat
      let n := m * 2 ^ (192 + odd)
      let r := isqrt n
      roundFin f mode draw false r ((e - odd) / 2 - 96) (r * r != n)

/-- A B + C rounded once, with the signs of the product and of C (04 Table 4-7). -/
def ffma (f : FFmt) (mode : Rnd) (draw : Nat) (negP negC : Bool) (a b c : Nat) : Nat :=
  let p := ftimes (fdecode f a) (fdecode f b)
  let c := fdecode f c
  fround f mode draw (fplus (if negP then fneg p else p) (if negC then fneg c else c))

/-- A ≤ B on values that are no NaN, with -0 equal to +0. -/
def fleVal : FVal → FVal → Bool
  | .nan, _ => false
  | _, .nan => false
  | .inf a, .inf b => a || !b
  | .inf a, .fin _ _ _ => a
  | .fin _ _ _, .inf b => !b
  | .fin na ma ea, .fin nb mb eb =>
    let e := min ea eb
    let a : Int := (ma : Int) * 2 ^ (ea - e).toNat
    let b : Int := (mb : Int) * 2 ^ (eb - e).toNat
    decide ((if na then -a else a) ≤ (if nb then -b else b))

def isNaN (f : FFmt) (a : Nat) : Bool := fdecode f a == .nan

/-- The sign bit of an encoding. -/
def signBit (f : FFmt) (a : Nat) : Bool := a / fsign f % 2 == 1

/-- Compares (04 R97): a comparison with a NaN gives false. -/
def fle2 (f : FFmt) (a b : Nat) : Bool := fleVal (fdecode f a) (fdecode f b)

def feq2 (f : FFmt) (a b : Nat) : Bool := fle2 f a b && fle2 f b a

def flt2 (f : FFmt) (a b : Nat) : Bool := fle2 f a b && !fle2 f b a

/-- Minimum and maximum (01 R29): a NaN if either is one, and -0 below +0. -/
def fmin2 (f : FFmt) (a b : Nat) : Nat :=
  if isNaN f a || isNaN f b then fnan f
  else if flt2 f a b || (feq2 f a b && signBit f a) then a % 2 ^ fwidth f else b % 2 ^ fwidth f

def fmax2 (f : FFmt) (a b : Nat) : Nat :=
  if isNaN f a || isNaN f b then fnan f
  else if flt2 f b a || (feq2 f a b && !signBit f a) then a % 2 ^ fwidth f else b % 2 ^ fwidth f

/-- The magnitude of `a` with the sign `neg`; the canonical NaN where `a` is a NaN (04 R96). -/
def withSign (f : FFmt) (a : Nat) (neg : Bool) : Nat :=
  if isNaN f a then fnan f else a % fsign f + (if neg then fsign f else 0)

/-- fclass (04 Table 4-6): the number of the bit that is set. -/
def fclassBit (f : FFmt) (a : Nat) : Nat :=
  let neg := signBit f a
  let ex := a / 2 ^ f.mbits % 2 ^ f.ebits
  let fr := a % 2 ^ f.mbits
  if ex = 2 ^ f.ebits - 1 then
    if fr = 0 then (if neg then 0 else 7) else if fr / 2 ^ (f.mbits - 1) = 1 then 9 else 8
  else if ex = 0 then
    if fr = 0 then (if neg then 3 else 4) else (if neg then 2 else 5)
  else if neg then 1 else 6

/-- The value as a signed integer of `w` bits, saturated; a NaN gives 0 (04 R100; 07 Table 7-9). -/
def toInteger (f : FFmt) (w : Nat) (mode : Rnd) (draw a : Nat) : Int :=
  let hi : Int := 2 ^ (w - 1) - 1
  let lo : Int := -(2 ^ (w - 1))
  match fdecode f a with
  | .nan => 0
  | .inf neg => if neg then lo else hi
  | .fin neg m e =>
    let n : Int := roundAt mode draw m e 0 false
    max lo (min hi (if neg then -n else n))

/-- An integer rounded to a format (04 R101). -/
def ofInteger (f : FFmt) (mode : Rnd) (draw : Nat) (v : Int) : Nat :=
  roundFin f mode draw (decide (v < 0)) v.natAbs 0 false

end Sys2Proof.Machine
end

