-- ==== Sys2Proof/Config.lean ====
section
/-! DEFINITION. What is fixed for one machine, and the free values: constants without a body, of which nothing can be
proved but what holds for every value. -/

namespace Sys2Proof.Config

/-- cfg.netcap (01 Table 1-3). -/
def netcap : Word := 0x2040

/-- Ticks in one nanosecond; a core cycle at 2.7 GHz is ten ticks (log 4). -/
def nanosecond : Nat := 27

/-- Ticks in one cycle of the core clock at 2.7 GHz (00 R1; log 4). -/
def cycle : Nat := 10

/-- A store is visible on its die 1 us after its release (06 R134). -/
def visible : Nat := 1000 * nanosecond

/-- L_pkg, 2 us (10 R213). -/
def lifePkg : Nat := 2000 * nanosecond

/-- L_max, 40 us (10 R213). -/
def lifeMax : Nat := 40000 * nanosecond

/-- The device-unique secret, in fuses of the hub (25 R383; log 8). -/
opaque dus : BitVec 256

/-- The boot nonce that the random bit generator gives at the n-th reset (25 R390; log 8). -/
opaque bootNonce (n : Nat) : Word

/-- What a byte of memory that loses its contents at a reset reads as afterwards (09 R416; log 2). -/
opaque lostByte (n addr : Nat) : Byte

/-- Which of the values that a changed parcel of running code has held the n-th fetch of it gives (01 R419; log 8). -/
opaque fetchPick (n addr : Nat) : Nat

/-- What the hub hashes for a byte of host memory that it cannot read: the spec names no value (25 R393; log 8). -/
opaque unreadable (n addr : Nat) : Byte

/-- The effective address that a poison mark restored from the n-th park record reports: a park record holds the mark alone (20
Table 20-8; log 25). -/
opaque lostAddress (n mark : Nat) : Word

/-- SLH-DSA-SHA2-128f key generation: the public key of a seed (25 R383; log 8). -/
opaque slhPublic (seed : List Byte) : List Byte

/-- ML-KEM-1024: the encapsulation key of a seed d and z, and the shared secret that decapsulation under it gives (25 R383, R386; log 8). -/
opaque kemPublic (seed : List Byte) : List Byte

opaque kemDecaps (seed ciphertext : List Byte) : BitVec 256

/-- The certificate by which Maelfolet binds an identity key and an encapsulation key (25 R383; log 8). -/
opaque certify (identity kem : List Byte) : List Byte

/-- Verification of an SLH-DSA-SHA2-128f signature under a key (21 R339; log 8). -/
opaque rosterVerifies (key : BitVec 256) (message signature : List Byte) : Bool

/-- Byte `i` of the SLH-DSA-SHA2-128f signature under the key of a seed (25 R398; log 8). -/
opaque rootSignature (seed message : List Byte) (i : Nat) : Byte

/-- The SLH-DSA-SHA2-256s signature of a controller image verifies under Maelfolet's key (26 R410; log 8). -/
opaque imageVerifies (image : List Byte) : Bool

/-- The security version and the protocol range in an image's header (26 R410; log 8). -/
opaque imageVersion (image : List Byte) : BitVec 32

opaque imageRange (image : List Byte) : Nat × Nat

/-- The fused minimum version of a die, 8 for the hub (26 R410; log 8). -/
opaque fusedMinimum (target : Nat) : BitVec 32

/-- A controller image may be loaded on a die, 8 for the hub: it verifies, and its version is at least the fused minimum (26 R410). -/
def imageAccepted (target : Nat) (image : List Byte) : Bool := imageVerifies image && decide (fusedMinimum target ≤ imageVersion image)

/-- The images that the boot ROM of a controller finds, the first that it may load first (26 R410; log 8): 0 the hub, 1 + d die d. -/
opaque bootImages (n : Nat) : List (List Byte)

/-- The image that the boot ROM loads. -/
def bootImage (n : Nat) : Option (List Byte) := (bootImages n).find? (imageAccepted (if n = 0 then 8 else n - 1))

/-- Where the device certificate stands (26 Table 26-1, CERTADDR). -/
opaque certAddr : BitVec 39

/-- Controllers `a` and `b` share a mailbox (26 R411; log 8). -/
opaque sharesMailbox (a b : Nat) : Bool

end Sys2Proof.Config
end

