-- ==== Sys2Proof/Machine/Crypto.lean ====
section
/-! DEFINITION. The published algorithms that the spec names and does not print (00 R9): SHA-256 (FIPS 180-4), HMAC (FIPS 198-1)
and HKDF (RFC 5869), AES (FIPS 197), GCM and GMAC (SP 800-38D), key wrap (RFC 3394). Bytes are lists, first byte first. -/

namespace Sys2Proof.Machine

/-- A number as `n` bytes, most significant first. -/
def beBytes (n v : Nat) : List Byte := (leBytes n v).reverse

/-- The number whose bytes are `bs`, most significant first. -/
def beNat (bs : List Byte) : Nat := leNat bs.reverse

/-- A list in pieces of `n`; `fuel` bounds their number. -/
def piecesGo {α : Type} (n : Nat) : Nat → List α → List (List α)
  | 0, _ => []
  | fuel + 1, l => if l.isEmpty then [] else l.take n :: piecesGo n fuel (l.drop n)

def pieces {α : Type} (n : Nat) (l : List α) : List (List α) := piecesGo n l.length l

def xorBytes (a b : List Byte) : List Byte := List.zipWith (· ^^^ ·) a b

/-! ### SHA-256 -/

/-- The constants K. -/
def shaK : List (BitVec 32) :=
  [0x428a2f98, 0x71374491, 0xb5c0fbcf, 0xe9b5dba5, 0x3956c25b, 0x59f111f1, 0x923f82a4, 0xab1c5ed5] ++
  [0xd807aa98, 0x12835b01, 0x243185be, 0x550c7dc3, 0x72be5d74, 0x80deb1fe, 0x9bdc06a7, 0xc19bf174] ++
  [0xe49b69c1, 0xefbe4786, 0x0fc19dc6, 0x240ca1cc, 0x2de92c6f, 0x4a7484aa, 0x5cb0a9dc, 0x76f988da] ++
  [0x983e5152, 0xa831c66d, 0xb00327c8, 0xbf597fc7, 0xc6e00bf3, 0xd5a79147, 0x06ca6351, 0x14292967] ++
  [0x27b70a85, 0x2e1b2138, 0x4d2c6dfc, 0x53380d13, 0x650a7354, 0x766a0abb, 0x81c2c92e, 0x92722c85] ++
  [0xa2bfe8a1, 0xa81a664b, 0xc24b8b70, 0xc76c51a3, 0xd192e819, 0xd6990624, 0xf40e3585, 0x106aa070] ++
  [0x19a4c116, 0x1e376c08, 0x2748774c, 0x34b0bcb5, 0x391c0cb3, 0x4ed8aa4a, 0x5b9cca4f, 0x682e6ff3] ++
  [0x748f82ee, 0x78a5636f, 0x84c87814, 0x8cc70208, 0x90befffa, 0xa4506ceb, 0xbef9a3f7, 0xc67178f2]

/-- The initial hash value. -/
def shaInit : List (BitVec 32) :=
  [0x6a09e667, 0xbb67ae85, 0x3c6ef372, 0xa54ff53a, 0x510e527f, 0x9b05688c, 0x1f83d9ab, 0x5be0cd19]

def shaSmall (r1 r2 sh : Nat) (x : BitVec 32) : BitVec 32 := x.rotateRight r1 ^^^ x.rotateRight r2 ^^^ (x >>> sh)

def shaBig (r1 r2 r3 : Nat) (x : BitVec 32) : BitVec 32 := x.rotateRight r1 ^^^ x.rotateRight r2 ^^^ x.rotateRight r3

/-- The message schedule, the last sixteen words first: the words of the rounds, in order. -/
def shaSchedule : Nat → List (BitVec 32) → List (BitVec 32)
  | 0, w => w
  | n + 1, w =>
    let at0 : Nat → BitVec 32 := fun i => w.getD (w.length - i) 0
    shaSchedule n (w ++ [shaSmall 17 19 10 (at0 2) + at0 7 + shaSmall 7 18 3 (at0 15) + at0 16])

/-- One round on the eight working variables. -/
def shaRound (v : List (BitVec 32)) (kw : BitVec 32) : List (BitVec 32) :=
  match v with
  | [a, b, c, d, e, f, g, h] =>
    let t1 := h + shaBig 6 11 25 e + ((e &&& f) ^^^ (~~~e &&& g)) + kw
    let t2 := shaBig 2 13 22 a + ((a &&& b) ^^^ (a &&& c) ^^^ (b &&& c))
    [t1 + t2, a, b, c, d + t1, e, f, g]
  | v => v

/-- One block. -/
def shaBlock (hv : List (BitVec 32)) (block : List Byte) : List (BitVec 32) :=
  let w := shaSchedule 48 ((pieces 4 block).map fun b => BitVec.ofNat 32 (beNat b))
  List.zipWith (· + ·) hv ((List.zipWith (· + ·) shaK w).foldl shaRound hv)

/-- SHA-256 of a message: 32 bytes. -/
def sha256 (m : List Byte) : List Byte :=
  let pad := (119 - m.length % 64) % 64
  let padded := m ++ [0x80] ++ List.replicate pad 0 ++ beBytes 8 (8 * m.length)
  ((pieces 64 padded).foldl shaBlock shaInit).flatMap fun w => beBytes 4 w.toNat

/-- A digest of 32 bytes as a number, first byte most significant. -/
def digest256 (m : List Byte) : BitVec 256 := BitVec.ofNat 256 (beNat (sha256 m))

/-- HMAC-SHA-256. -/
def hmac (key m : List Byte) : List Byte :=
  let k := if 64 < key.length then sha256 key else key
  let k := k ++ List.replicate (64 - k.length) 0
  sha256 (k.map (· ^^^ 0x5c) ++ sha256 (k.map (· ^^^ 0x36) ++ m))

/-- HKDF-Expand: blocks T(1), T(2), ... -/
def hkdfBlocks (prk info : List Byte) : Nat → Nat → List Byte → List Byte
  | 0, _, _ => []
  | n + 1, i, prev =>
    let t := hmac prk (prev ++ info ++ [BitVec.ofNat 8 i])
    t ++ hkdfBlocks prk info n (i + 1) t

/-- HKDF-SHA-256. -/
def hkdf (salt ikm info : List Byte) (len : Nat) : List Byte :=
  (hkdfBlocks (hmac salt ikm) info (len / 32 + 1) 1 []).take len

/-! ### AES -/

/-- Multiplication by x in GF(2^8). -/
def xtime (b : Byte) : Byte := if b.getLsbD 7 then (b <<< 1) ^^^ 0x1b else b <<< 1

/-- Multiplication in GF(2^8). -/
def gfMul (a b : Byte) : Byte :=
  (((List.range 8).foldl (fun (p : Byte × Byte) i => (if a.getLsbD i then p.1 ^^^ p.2 else p.1, xtime p.2)) (0, b))).1

/-- The inverse in GF(2^8): the 254th power. -/
def gfInv (a : Byte) : Byte :=
  let a2 := gfMul a a
  let a3 := gfMul a2 a
  let a12 := gfMul (gfMul a3 a3) (gfMul a3 a3)
  let a15 := gfMul a12 a3
  let a30 := gfMul a15 a15
  let a60 := gfMul a30 a30
  let a120 := gfMul a60 a60
  let a240 := gfMul a120 a120
  gfMul a240 (gfMul a12 a2)

/-- The S-box. -/
def sbox (a : Byte) : Byte :=
  let b := gfInv a
  b ^^^ b.rotateLeft 1 ^^^ b.rotateLeft 2 ^^^ b.rotateLeft 3 ^^^ b.rotateLeft 4 ^^^ 0x63

/-- The inverse S-box. -/
def sboxInv (a : Byte) : Byte := gfInv (a.rotateLeft 1 ^^^ a.rotateLeft 3 ^^^ a.rotateLeft 6 ^^^ 0x05)

/-- The round constant number i, from 1. -/
def rcon (i : Nat) : Byte := (List.range (i - 1)).foldl (fun b _ => xtime b) 1

/-- Key expansion to `n` more words; `nk` words of key. -/
def aesExpand (nk : Nat) : Nat → List (List Byte) → List (List Byte)
  | 0, w => w
  | n + 1, w =>
    let i := w.length
    let prev := w.getLastD []
    let t := if i % nk = 0 then xorBytes ((prev.drop 1 ++ prev.take 1).map sbox) [rcon (i / nk), 0, 0, 0]
             else if 6 < nk ∧ i % nk = 4 then prev.map sbox else prev
    aesExpand nk n (w ++ [xorBytes (w.getD (i - nk) []) t])

/-- The round keys. -/
def aesKeys (key : List Byte) : List (List Byte) :=
  let nk := key.length / 4
  pieces 16 ((aesExpand nk (4 * (nk + 7) - nk) (pieces 4 key)).flatten)

/-- ShiftRows on a state held column by column. -/
def shiftRows (st : List Byte) : List Byte := (List.range 16).map fun i => st.getD ((i + 4 * (i % 4)) % 16) 0

def shiftRowsInv (st : List Byte) : List Byte := (List.range 16).map fun i => st.getD ((i + 16 - 4 * (i % 4)) % 16) 0

/-- One column times a circulant matrix with the row `c`. -/
def mixColumn (c col : List Byte) : List Byte :=
  (List.range 4).map fun i => (List.range 4).foldl (fun a j => a ^^^ gfMul (c.getD ((j + 4 - i) % 4) 0) (col.getD (j) 0)) 0

def mixColumns (c st : List Byte) : List Byte := (pieces 4 st).flatMap (mixColumn c)

/-- AES encryption of a block under its round keys. -/
def aesWith (ks : List (List Byte)) (block : List Byte) : List Byte :=
  match ks with
  | k0 :: rest =>
    let st := rest.dropLast.foldl (fun st k => xorBytes (mixColumns [2, 3, 1, 1] (shiftRows (st.map sbox))) k) (xorBytes block k0)
    xorBytes (shiftRows (st.map sbox)) (rest.getLastD [])
  | [] => block

/-- AES encryption of a block. -/
def aesEncrypt (key block : List Byte) : List Byte := aesWith (aesKeys key) block

/-- AES decryption of a block. -/
def aesDecrypt (key block : List Byte) : List Byte :=
  match (aesKeys key).reverse with
  | kn :: rest =>
    let st := rest.dropLast.foldl (fun st k => mixColumns [14, 11, 13, 9] (xorBytes ((shiftRowsInv st).map sboxInv) k))
      (xorBytes block kn)
    xorBytes ((shiftRowsInv st).map sboxInv) (rest.getLastD [])
  | [] => block

/-! ### GCM -/

/-- Multiplication in the field of GHASH; bit 0 of the standard is the most significant bit of the number. -/
def ghashMul (x y : BitVec 128) : BitVec 128 :=
  ((List.range 128).foldl (fun (p : BitVec 128 × BitVec 128) i =>
    (if x.getLsbD (127 - i) then p.1 ^^^ p.2 else p.1,
     if p.2.getLsbD 0 then (p.2 >>> 1) ^^^ (0xE1 <<< 120) else p.2 >>> 1)) (0, y)).1

/-- GHASH over whole blocks. -/
def ghash (h : BitVec 128) (bs : List Byte) : BitVec 128 :=
  (pieces 16 bs).foldl (fun y b => ghashMul (y ^^^ BitVec.ofNat 128 (beNat b)) h) 0

/-- Zero bytes up to a whole block. -/
def padBlock (bs : List Byte) : List Byte := bs ++ List.replicate ((16 - bs.length % 16) % 16) 0

/-- The first counter block of an IV (SP 800-38D, 7.1 step 2). -/
def gcmJ0 (h : BitVec 128) (iv : List Byte) : BitVec 128 :=
  if iv.length = 12 then BitVec.ofNat 128 (beNat iv * 2 ^ 32 + 1)
  else ghash h (padBlock iv ++ List.replicate 8 0 ++ beBytes 8 (8 * iv.length))

/-- The counter block with its low 32 bits raised by `n`. -/
def gcmCtr (j : BitVec 128) (n : Nat) : BitVec 128 :=
  BitVec.ofNat 128 (j.toNat / 2 ^ 32 * 2 ^ 32 + (j.toNat + n) % 2 ^ 32)

/-- Counter-mode encryption and decryption from counter block `j` + 1. -/
def gcmCrypt (ks : List (List Byte)) (j : BitVec 128) (m : List Byte) : List Byte :=
  (pieces 16 m).zipIdx.flatMap fun p => xorBytes p.1 (aesWith ks (beBytes 16 (gcmCtr j (p.2 + 1)).toNat))

/-- The tag over additional data and ciphertext. -/
def gcmTag (ks : List (List Byte)) (h j : BitVec 128) (aad ct : List Byte) : List Byte :=
  xorBytes (aesWith ks (beBytes 16 j.toNat))
    (beBytes 16 (ghash h (padBlock aad ++ padBlock ct ++ beBytes 8 (8 * aad.length) ++ beBytes 8 (8 * ct.length))).toNat)

/-- AES-GCM sealing: ciphertext and tag. -/
def gcmSeal (key iv aad m : List Byte) : List Byte × List Byte :=
  let ks := aesKeys key
  let h := BitVec.ofNat 128 (beNat (aesWith ks (List.replicate 16 0)))
  let j := gcmJ0 h iv
  let ct := gcmCrypt ks j m
  (ct, gcmTag ks h j aad ct)

/-- AES-GCM opening: the plaintext, if the tag verifies. -/
def gcmOpen (key iv aad ct tag : List Byte) : Option (List Byte) :=
  let ks := aesKeys key
  let h := BitVec.ofNat 128 (beNat (aesWith ks (List.replicate 16 0)))
  let j := gcmJ0 h iv
  if gcmTag ks h j aad ct = tag then some (gcmCrypt ks j ct) else none

/-- GMAC: the tag over additional data alone. -/
def gmac (key iv aad : List Byte) : List Byte := (gcmSeal key iv aad []).2

/-! ### Key wrap (RFC 3394) -/

/-- One step of unwrapping: A and the blocks R, at counter t on block i. -/
def kwStep (key : List Byte) (a : List Byte) (r : List (List Byte)) (t i : Nat) : List Byte × List (List Byte) :=
  let b := aesDecrypt key (xorBytes a (beBytes 8 t) ++ r.getD (i) [])
  (b.take 8, r.set i (b.drop 8))

/-- Unwrapping: the key data, if the integrity value is right. -/
def kwUnwrap (key wrapped : List Byte) : Option (List Byte) :=
  match pieces 8 wrapped with
  | a :: r =>
    let n := r.length
    let steps := (List.range (6 * n)).reverse
    let (a, r) := steps.foldl (fun (p : List Byte × List (List Byte)) t => kwStep key p.1 p.2 (t + 1) (t % n)) (a, r)
    if a = List.replicate 8 0xA6 then some r.flatten else none
  | [] => none

end Sys2Proof.Machine
end

