-- ==== Sys2Proof/Machine/Keys.lean ====
section
/-! DEFINITION. Keys and the cipher of data at rest (25 Table 25-1, R383, R388, R389): what is derived from the device-unique secret and from
the keys of a handle, and XTS-AES-256 (IEEE 1619) over granules. -/

namespace Sys2Proof.Machine

/-- The bytes of an ASCII text. -/
def asciiBytes (t : String) : List Byte := t.toList.map fun c => BitVec.ofNat 8 c.toNat

/-! ### What the device-unique secret gives (25 R383) -/

def dusBytes : List Byte := beBytes 32 Config.dus.toNat

def identitySeed : List Byte := hkdf [] dusBytes (asciiBytes "T9 identity") 48

def kemSeed : List Byte := hkdf [] dusBytes (asciiBytes "T9 kem") 64

/-- The identity public key, and its SHA-256: the identity digest. -/
def identityKey : List Byte := Config.slhPublic identitySeed

def identityDigest : BitVec 256 := digest256 identityKey

/-- The device certificate: it binds the two public keys. -/
def certificate : List Byte := Config.certify identityKey (Config.kemPublic kemSeed)

/-- The key under which a handle's payload is wrapped (25 R386). -/
def kekOf (device ciphertext : List Byte) : List Byte :=
  hkdf device (beBytes 32 (Config.kemDecaps kemSeed ciphertext).toNat) (asciiBytes "T9 wrap") 32

/-! ### Keys of worlds (25 R388) -/

/-- The 64 bytes of a key of data at rest. -/
def keyBytes : KeyId → List Byte
  | .clear => hkdf [] dusBytes (asciiBytes "T9 clear") 64
  | .memory k => hkdf [] (beBytes 32 k.toNat) (asciiBytes "T9 memory") 64
  | .chain k id => hkdf (leBytes 8 id.toNat) (beBytes 32 k.toNat) (asciiBytes "T9 chain") 64
  | .hosted k none _ => hkdf [] (beBytes 32 k.toNat) (asciiBytes "T9 memory") 64
  | .hosted k (some id) _ => hkdf (leBytes 8 id.toNat) (beBytes 32 k.toNat) (asciiBytes "T9 chain") 64

/-- The 32 bytes of a port key. -/
def portKeyBytes (k : PortKey) : List Byte :=
  let opening := if k.chainId = 0 then leBytes 8 k.epoch.toNat ++ leBytes 8 k.opened.toNat else leBytes 8 k.epoch.toNat
  hkdf (leBytes 8 k.chainId.toNat ++ opening) (beBytes 32 k.root.toNat) (asciiBytes "T9 port") 32

/-- The key of an access to host memory at an IOVA: what leaves the hub under a selector or as an I extent is tied to its target address, and
what leaves under selector 0 is plaintext (25 R389). -/
def hostKey (key : KeyId) (iova : Nat) : KeyId :=
  match key with
  | .clear => .clear
  | .memory k => .hosted k none (iova / 64)
  | .chain k id => .hosted k (some id) (iova / 64)
  | .hosted k id _ => .hosted k id (iova / 64)

/-! ### XTS-AES-256 (25 R389) -/

/-- A tweak block times alpha. -/
def xtsDouble (t : Nat) : Nat := if t < 2 ^ 127 then 2 * t else (2 * t - 2 ^ 128) ^^^ 0x87

/-- The mask of block `j` of the granule with a tweak. -/
def xtsMask (key : List Byte) (tweak j : Nat) : List Byte :=
  leBytes 16 ((List.range j).foldl (fun t _ => xtsDouble t) (leNat (aesEncrypt (key.drop 32) (leBytes 16 tweak))))

/-- Block `j` of a granule through AES, one way or the other, between two masks. -/
def xtsBlock (aes : List Byte → List Byte → List Byte) (key : List Byte) (tweak j : Nat) (block : List Byte) : List Byte :=
  let m := xtsMask key tweak j
  xorBytes (aes (key.take 32) (xorBytes block m)) m

/-- The tweak of granule `g` of memory, in which the class and the address stand as memory numbers them. -/
def granuleTweak (key : KeyId) (g : Nat) : Nat :=
  match key with
  | .hosted _ _ i => 2 * 2 ^ 60 + 64 * i
  | _ => 64 * g

/-- Host memory holds what was sent under selector 0 as it is. -/
def plainGranule (key : KeyId) (g : Nat) : Bool := key == .clear && decide (2 * 2 ^ 60 ≤ 64 * g) && decide (64 * g < 3 * 2 ^ 60)

def sealBlock (key : KeyId) (g j : Nat) (block : List Byte) : List Byte :=
  if plainGranule key g then block else xtsBlock aesEncrypt (keyBytes key) (granuleTweak key g) j block

def openBlock (key : KeyId) (g j : Nat) (block : List Byte) : List Byte :=
  if plainGranule key g then block else xtsBlock aesDecrypt (keyBytes key) (granuleTweak key g) j block

/-- What block `j` of granule `g`, written under one key as `block`, reads as under another. -/
def crossBlock (held asked : KeyId) (g j : Nat) (block : List Byte) : List Byte := openBlock asked g j (sealBlock held g j block)

/-- What 64 bytes written at granule `g` read as, under the same key, where their ciphertext stands at granule `h`. -/
def movedGranule (key : KeyId) (g h : Nat) (bytes : List Byte) : List Byte :=
  (List.range 4).flatMap fun j => openBlock key h j (sealBlock key g j ((bytes.drop (16 * j)).take 16))

end Sys2Proof.Machine
end

