-- ==== Sys2Proof/Machine/SMap.lean ====
section
/-! DEFINITION. Sparse data by number: a list of (key, value) pairs with keys strictly rising and no value equal to the
default, so that equal maps are equal lists. Registers, tiles, memory, poison marks and slots are held so. -/

namespace Sys2Proof.Machine

/-- A sparse map from numbers; what an unlisted number reads as is given at each use. -/
abbrev SMap (α : Type) := List (Nat × α)

/-- The entry of `k`, or `d`. -/
def sget {α : Type} (d : α) : SMap α → Nat → α
  | [], _ => d
  | (j, v) :: t, k => if k = j then v else sget d t k

/-- The map without entries for `k`. -/
def serase {α : Type} : SMap α → Nat → SMap α
  | [], _ => []
  | (j, v) :: t, k => if k = j then serase t k else (j, v) :: serase t k

/-- The map with `v` listed at `k`. -/
def sput {α : Type} : SMap α → Nat → α → SMap α
  | [], k, v => [(k, v)]
  | (j, w) :: t, k, v =>
    if k = j then (k, v) :: t else if k < j then (k, v) :: (j, w) :: t else (j, w) :: sput t k v

/-- The map in which `k` reads `v`: the default is not listed. -/
def sset {α : Type} [DecidableEq α] (d : α) (m : SMap α) (k : Nat) (v : α) : SMap α :=
  if v = d then serase m k else sput m k v

/-- The entry of `k`, if there is one. -/
def sfind {α : Type} : SMap α → Nat → Option α
  | [], _ => none
  | (j, v) :: t, k => if k = j then some v else sfind t k

/-- Every key is at least `lo`, keys rise strictly, and no value is the default. -/
def swfFrom {α : Type} [DecidableEq α] (d : α) : Nat → SMap α → Bool
  | _, [] => true
  | lo, (j, v) :: t => decide (lo ≤ j) && decide (v ≠ d) && swfFrom d (j + 1) t

/-- The canonical form of a sparse map. -/
def swf {α : Type} [DecidableEq α] (d : α) (m : SMap α) : Bool := swfFrom d 0 m

end Sys2Proof.Machine
end

