-- ==== Sys2Proof/Machine/SlotTypes.lean ====
section
/-! DEFINITION. The state of one slot and of one core (01 Table 1-1 to R20; 04; 06; 10; 16; 18; 20; 21). -/

namespace Sys2Proof.Machine

/-- An active hardware loop with its counter (01 R14, 04 R86). -/
structure Loop where
  start : Word
  stop : Word
  cnt : Word
  deriving DecidableEq, Repr

/-- A call record (04 R84). -/
structure CallRec where
  ret : Word
  k : Nat
  deriving DecidableEq, Repr

/-- Where an access is performed (11 R223). -/
inductive Place where
  /-- memory of class 0 to 3 under a key (09 Table 9-6) -/
  | mem (cls addr : Nat) (key : KeyId)
  /-- a core's pool -/
  | pool (core : CoreId) (off : Nat)
  /-- a peer device, or this device by its own number (09 R197) -/
  | peer (addr : Word)
  deriving DecidableEq, Repr

/-- A group of the live-in mask holds its first-overwritten values here (20 R315). -/
structure Saved where
  x : SMap (Word × Option Word) := []
  f : SMap Word := []
  v : SMap Vec := []
  m : SMap Word := []
  deriving DecidableEq, Repr

/-- The open region's checkpoint (20 R314 to R316, Table 20-2). -/
structure Region where
  entry : Word
  mask : BitVec 11
  /-- it opened at a tile task's start or at an overflow activation's -/
  first : Bool
  w : Nat
  calls : Nat
  counter : Word
  outer : Option Loop
  inner : Option Loop
  group : Option Nat
  trCause : Word
  trPc : Word
  trValue : Word
  saved : Saved := {}
  deriving DecidableEq, Repr

/-- The copy geometry registers (18 Table 18-2). -/
structure Geometry where
  xlen : Nat := 64
  ycnt : Nat := 1
  zcnt : Nat := 1
  sstride : BitVec 48 := 0
  spstride : BitVec 48 := 0
  dstride : BitVec 48 := 0
  dpstride : BitVec 48 := 0
  decstream : BitVec 32 := 0
  decseq : Word := 0
  deriving DecidableEq, Repr

/-- States of a channel (18 Table 18-4). -/
inductive ChState where
  | complete | active | faulted | sub
  deriving DecidableEq, Repr

/-- Copy commands (18 R287; the codes of 20 Table 20-9). -/
inductive CopyForm where
  | cp | mc | dec | subscr
  deriving DecidableEq, Repr

/-- Channel fault causes (18 Table 18-7). -/
inductive ChCause where
  | extent | rights | ats | range | tagfail | replay | lost | group | peer
  deriving DecidableEq, Repr

/-- The descriptor of a subscription and where it stands (18 R303, R304, Table 18-9). -/
structure Sub where
  srcBase : Word
  srcStep : Word
  dstBase : Word
  dstStep : Word
  tiles : Nat
  slots : Nat
  slotSize : Nat
  /-- bytes of one tile -/
  box : Nat
  /-- pool offset of the ring -/
  ring : Nat
  /-- tiles given back by `srel` -/
  released : Nat := 0
  /-- the racker has taken it up -/
  started : Bool := false
  /-- bytes counted of each tile, loaded and stored -/
  loaded : SMap Nat := []
  stored : SMap Nat := []
  /-- the tile task has exited: nothing more is loaded -/
  closing : Bool := false
  deriving DecidableEq, Repr

/-- The fault record of a channel (18 R301). -/
structure ChFault where
  cause : ChCause
  form : CopyForm
  dst : Word
  src : Word
  geom : Geometry
  /-- number of the faulting command -/
  copy : Nat
  /-- the command is no longer in flight: the offset is final -/
  offset : Nat
  deriving DecidableEq, Repr

/-- A copy channel (18 R290, Table 18-4). -/
structure Channel where
  base : Nat := 0
  length : Nat := 0
  ev : Bool := false
  expected : Nat := 0
  arrived : Nat := 0
  /-- bytes of the range that a counted copy has written, as intervals of offsets from the base -/
  written : SMap Nat := []
  state : ChState := .complete
  fault : Option ChFault := none
  sub : Option Sub := none
  deriving DecidableEq, Repr

/-- A release group (21 R340). -/
structure Group where
  /-- device and die; no die under a window key (21 R341) -/
  bind : Option (Nat × Option Nat) := none
  bytes : Nat := 0
  seq : Nat := 0
  /-- time of the last flag of each sequence number -/
  last : SMap Nat := []
  deriving DecidableEq, Repr

/-- What precedes a release store in program order (10 R215): numbers below `mark` were given before it issued, and these copies and
matrix commands had not finished; the departures and the incomplete host and CXL writes among what precedes it. -/
structure Before where
  mark : Nat := 0
  copies : List Nat := []
  cmds : List Nat := []
  departDie : Option Nat := none
  departDev : Option Nat := none
  outHost : Nat := 0
  outCxl : Nat := 0
  deriving DecidableEq, Repr

/-- An entry of the store buffer (04 R94, 10 R215): bytes of this core's pool, or a write released from the hold area whose
performer is elsewhere on the die (11 R225). -/
structure BufStore where
  bytes : SMap Byte
  /-- a whole granule whose poison mark the store clears (07 R150) -/
  whole : Bool := false
  rel : Option Scope := none
  before : Before := {}
  /-- the write as it is performed, where it is not one of this core's pool -/
  out : Option Packet := none
  /-- number of the packet by which it is being performed, where it goes through the hub (09 R197) -/
  sent : Option Nat := none
  /-- the last part of its store (10 Table 10-8) -/
  last : Bool := true
  /-- when it entered the buffer (06 R134) -/
  since : Nat := 0
  deriving DecidableEq, Repr

/-- A write in the hold area (20 R319). -/
inductive Held where
  /-- a store: its place, its bytes, and the scope of a release store -/
  | store (place : Place) (ea : Word) (data : List Byte) (rel : Option Scope) (group : Option Nat)
  | send (linear : Word) (payload : Vec)
  | sev (linear : Word)
  /-- a counted release: its group, the flag's place, the value (21 R344) -/
  | rel (group : Nat) (place : Place) (value : Word)
  /-- the posting of a counted copy: group, number of the copy, bytes (18 R299) -/
  | posting (group copy bytes : Nat)
  deriving DecidableEq, Repr

/-- What returning data does to the registers (10 R210, R217). -/
inductive Land where
  /-- sign-extended load of w bytes -/
  | load (w : Nat)
  /-- atomic result; fp: zero-extended .w -/
  | atom (sz : ASize) (fp : Bool)
  deriving DecidableEq, Repr

/-- A load or atomic whose data has not returned (10 R209, R221). -/
structure Pending where
  req : Nat
  /-- the parts whose data is still out: number and position; and the bytes that have come (10 R212) -/
  parts : List (Nat × Nat) := []
  got : SMap Byte := []
  bad : Bool := false
  /-- key of the destination register, unless a later instruction has written it -/
  dst : Option Nat
  dst2 : Option Nat := none
  /-- registers that were an input of the open region when a later write took them: the data is their saved value (10 R219; 20 R317) -/
  old : Option Nat := none
  old2 : Option Nat := none
  ea : Word
  land : Land
  /-- later accesses wait for it: those that its scope reaches (10 R214), or all of them (10 R219) -/
  blocks : Bool
  reach : Scope := .sys
  /-- bytes that the slot's own writes supply, by position (10 R211) -/
  own : SMap Byte := []
  /-- number of the region that issued it -/
  region : Nat := 0
  /-- when the request left the device, for a peer -/
  left : Option Nat := none
  deriving DecidableEq, Repr

/-- A plain load that has been performed before its instruction issues (11 R226; log 74): its address, the bytes it has read, and whether its
performer is on the die. -/
structure EarlyLoad where
  addr : Word
  bytes : List Byte
  near : Bool
  deriving DecidableEq, Repr

/-- An entry of the event queue (07 Table 7-12). -/
structure EvEntry where
  kind : Nat
  bytes : Nat
  ch : Nat
  deriving DecidableEq, Repr

/-- What a slot does (06 R121, R123, R132; 04 R109). -/
inductive Run where
  | unbound
  | running
  /-- asleep in a `wfe` that has retired: it goes on when its latch is set (06 R132) -/
  | asleep
  /-- stalled at `gang n` (06 R123) -/
  | atGang (n : Nat)
  /-- the tile task has ended and the slot is not yet free (04 R109) -/
  | exited
  | faulted
  /-- stopped by parking or a halt, and whether it was asleep (20 R327, R328) -/
  | stopped (asleep : Bool)
  deriving DecidableEq, Repr

/-- Engine commands with what they captured at issue (16 R261, R264; 17). -/
inductive MCmd where
  | mma (tile : Nat) (xa xb : Nat) (astride bstride : Nat) (scales : Word) (pair : Pair)
  | mclr (tile : Nat)
  | mld (tile : Nat) (xa cstride : Nat) (ty : MType)
  | mst (tile : Nat) (xa cstride : Nat) (ty : MType) (rnd : Rnd) (counter : Word)
  deriving DecidableEq, Repr

/-- A command in a slot's engine queue or in the engine. -/
structure MEntry where
  id : Nat
  slot : Nat
  cmd : MCmd
  issued : Nat
  started : Nat := 0
  /-- a byte that it reads or writes has become poisoned since its checks (16 R269) -/
  struck : Bool := false
  /-- the operand rows, once read: 48-byte or memory rows as numbers, and whether a byte was poisoned (17 R276) -/
  rows : Option (List Nat × Bool) := none
  deriving DecidableEq, Repr

/-- A piece in flight (18 R286, R299, R301). -/
structure Served where
  len : Nat
  /-- its source is of another device: it can be lost -/
  remote : Bool := false
  /-- when its request left the device -/
  left : Option Nat := none
  /-- its streamer has read it and sent its bytes -/
  read : Bool := false
  /-- bytes counted in all destinations, and bytes that will never be -/
  got : Nat := 0
  gone : Nat := 0
  deriving DecidableEq, Repr

/-- A copy command, queued or in flight (18 R287). -/
structure Copy where
  id : Nat
  slot : Nat
  form : CopyForm
  ch : Nat
  dst : Word
  src : Word
  geom : Geometry
  group : Option Nat := none
  /-- its posting is still in the hold area (18 R299) -/
  posted : Bool := false
  /-- number of the region that issued it (20 R328 step 4) -/
  region : Nat := 0
  /-- the group's sequence and binding when the posting left (21 R344) -/
  seq : Nat := 0
  bind : Option (Nat × Option Nat) := none
  /-- the byte index of the next piece; of a subscription's storer half, counted from its own first (18 R299, R304) -/
  next : Nat := 0
  nextStore : Nat := 0
  /-- the pieces in flight by first byte index -/
  served : SMap Served := []
  /-- byte indices counted, as intervals; those of destination j of `cp.mc` behind j boxes -/
  counted : SMap Nat := []
  /-- bytes of it are bound for another die, or come from one; the same of devices (11 R231) -/
  farDie : Bool := false
  farDev : Bool := false
  /-- it has faulted, or its channel has counted it: no further piece is sent (18 R301) -/
  dead : Bool := false
  /-- the word that a `cp.dec` has read, with its plaintext, if the tag verified, and whether its source was poisoned (18 R302) -/
  opened : Option (Nat × Option (List Byte) × Bool) := none
  deriving DecidableEq, Repr

/-- One slot. -/
structure Slot where
  x : SMap Word := []
  xPoison : SMap Word := []
  f : SMap Word := []
  v : SMap Vec := []
  m : SMap Word := []
  /-- word 256 n + 16 i + j is element (i, j) of tile n -/
  tiles : SMap (BitVec 32) := []
  busyTiles : SMap Bool := []
  poisonTiles : SMap Bool := []
  pc : Word := 0
  wbase : Nat := 0
  calls : List CallRec := []
  /-- the columns that hold spilled locations: entry number, (tile, column) (01 R16) -/
  spill : List (Nat × Nat) := []
  outer : Option Loop := none
  inner : Option Loop := none
  trCause : Word := 0
  trPc : Word := 0
  trValue : Word := 0
  tile : Nat × Nat × Nat := (0, 0, 0)
  ext : Nat × Nat × Nat := (0, 0, 0)
  gangPos : Nat := 0
  gangSize : Nat := 1
  capPos : Word := 0
  worldPos : Word := 0
  part : BitVec 64 := 0
  /-- the die's cycle count when the tile task started -/
  startTime : Nat := 0
  /-- when it was bound, and the core-us charged to its ring since (08 R183) -/
  boundAt : Nat := 0
  charged : Nat := 0
  retired : Word := 0
  latchBit : Bool := false
  evq : List EvEntry := []
  evLost : Bool := false
  inbox : List Vec := []
  run : Run := .unbound
  capsule : Option Nat := none
  linear : Nat := 0
  /-- number of the tile task or activation: it tells what a slot's occupants cause apart (01 R20) -/
  task : Nat := 0
  partBase : Nat := 0
  region : Region := { entry := 0, mask := 1, first := true, w := 0, calls := 0, counter := 0, outer := none, inner := none,
                       group := none, trCause := 0, trPc := 0, trValue := 0 }
  regionNo : Nat := 0
  hold : List Held := []
  /-- the instruction in hand has closed the region, and waits for the hold area to empty or for what else it needs (20 R319, R323) -/
  closing : Bool := false
  storeBuf : List BufStore := []
  pending : List Pending := []
  /-- loads performed before their instructions (log 74) -/
  early : List EarlyLoad := []
  /-- the release condition of the instruction in hand has been met (10 R213) -/
  condMet : Option Scope := none
  /-- the release condition that the instruction in hand waits for -/
  wantRel : Option Scope := none
  /-- the first part of the load in hand, and whether a byte was poisoned (04 R94; 10 R212) -/
  half : Option (List Byte × Bool) := none
  /-- when the last write left for another die, and for another device -/
  departDie : Option Nat := none
  departDev : Option Nat := none
  /-- host and CXL writes not yet complete (10 R213) -/
  outHost : Nat := 0
  outCxl : Nat := 0
  groups : SMap Group := []
  group : Option Nat := none
  draws : Word := 0
  astride : Nat := 48
  bstride : Nat := 48
  cstride : Nat := 64
  geom : Geometry := {}
  chans : SMap Channel := []
  /-- the channels as if the open region had issued no command (20 R328 step 4) -/
  shadow : SMap Channel := []
  mxQueue : List MEntry := []
  /-- the cycle in which a command left the queue last: its entry is room from the next on (16 R261) -/
  mxFreed : Option Nat := none
  cpQueue : List Copy := []
  /-- service slot: the task slot it serves, and the number of the tile task there (06 R130) -/
  serves : Option (Nat × Nat) := none
  deriving DecidableEq, Repr

/-- An entry of the range table (09 Table 9-4). -/
structure RangeEntry where
  base : Nat
  length : Nat
  cls : Nat
  target : Nat
  rights : BitVec 8
  keysel : BitVec 16
  /-- the key that the selector names (25 R388) -/
  key : KeyId
  deriving DecidableEq, Repr

/-- An entry of the range-lock table (16 R267): pool offsets lo to hi - 1. -/
structure Lock where
  cmd : Nat
  slot : Nat
  lo : Nat
  hi : Nat
  result : Bool
  deriving DecidableEq, Repr

/-- A staged message: its target slot, and the number of the tile task it is for (06 R129). -/
structure Staged where
  slot : Nat
  task : Nat := 0
  payload : Vec
  deriving DecidableEq, Repr

/-- One core. -/
structure Core where
  /-- one range table for each capsule placed on the core (09 R198) -/
  ranges : SMap (List RangeEntry) := []
  locks : List Lock := []
  mxRun : List MEntry := []
  mxLast : Nat := 3
  mxNext : Nat := 0
  copies : List Copy := []
  cpLast : Nat := 3
  staged : List Staged := []
  /-- the die cycle whose issue it has made or passed (06 R121) -/
  issuedAt : Option Nat := none
  deriving DecidableEq, Repr

end Sys2Proof.Machine
end

