-- ==== Sys2Proof/Machine/HubTypes.lean ====
section
/-! DEFINITION. The state of one die, of the hub, of the ports and of the cellar engines (08; 09 R203; 20 R326 to R333; 21 R337 to
R350; 23; 25; 26). -/

namespace Sys2Proof.Machine

/-- What the outside world, or a unit's own choice, supplies to a step that is no instruction (log 5). Each such step
reads the fields that its meaning names. -/
structure EventArg where
  ring : Nat := 0
  cap : Nat := 0
  slot : SlotId := ⟨0, 0⟩
  core : CoreId := 0
  pools : List Nat := []
  homes : List SlotId := []
  pkt : Nat := 0
  pkts : List Nat := []
  packet : Option Packet := none
  page : Option Nat := none
  canRead : Bool := false
  canWrite : Bool := false
  flag : Bool := false
  addr : Nat := 0
  len : Nat := 0
  data : List Byte := []
  copy : Nat := 0
  at0 : Nat := 0
  link : Nat := 0
  port : Nat := 0
  die : Nat := 0
  slice : Nat := 0
  offset : Nat := 0
  value : Nat := 0
  stream : Nat := 0
  key : BitVec 256 := 0
  op : AtomOp := .add
  sz : ASize := .d
  cmp : Nat := 0
  operand : Nat := 0
  /-- the first of State.deferred is tried again -/
  again : Bool := false
  deriving DecidableEq, Repr

/-! ### Dies -/

/-- An entry of an arrival table (21 R348). -/
structure Arrival where
  /-- the counted header word with FLAG cleared (21 Table 21-6; 23 Table 23-5b) -/
  key : Word
  arrived : Nat
  /-- the flag and the time of its arrival -/
  flag : Option (Packet × Nat)
  created : Nat
  /-- T_wait in microseconds when the entry was created (26 R408) -/
  wait : Nat
  deriving DecidableEq, Repr

/-- One die (26 Table 26-1, R411, R414). -/
structure Die where
  stray : Word := 0
  softerr : Word := 0
  lifetime : Word := 0
  cipher : Word := 0
  overcount : Word := 0
  timeout : Word := 0
  tablefull : Word := 0
  orphan : Word := 0
  /-- junction temperature in 0.1 degrees, and power in W -/
  temp : Nat := 0
  power : Nat := 0
  /-- the clock in steps of 168.75 MHz: 16 is 2.7 GHz -/
  clock : Nat := 16
  /-- the clock that the controllers ask for -/
  wanted : Nat := 16
  throttled : Bool := false
  /-- core-clock cycles counted up to the time `since`, from which on the clock is that (log 4): a change waits for the end of its cycle -/
  cycles : Nat := 0
  since : Nat := 0
  arrivals : List Arrival := []
  /-- a firmware update drains it; it stays out after a failed negotiation (26 R411) -/
  draining : Bool := false
  out : Bool := false
  deriving DecidableEq, Repr

/-! ### Capsules -/

/-- An extent entry of a record (08 Table 8-3). -/
structure Extent where
  base : Nat
  length : Nat
  cls : Nat
  target : Nat
  rights : BitVec 32
  keysel : Nat
  resv : Nat
  deriving DecidableEq, Repr

/-- A capsule record (08 Table 8-1). -/
structure Record where
  magic : Nat
  version : Nat
  flags : BitVec 16
  owner : Word
  keyHandle : Word
  seqWord : Word
  seqExp : Word
  code : Word
  entry : Nat
  trapEntry : Nat
  overflow : Nat
  nExt : Nat
  nSucc : Nat
  digest : BitVec 256
  tiles : Nat × Nat × Nat
  tileDims : Nat × Nat × Nat
  tensor : Nat × Nat × Nat
  threads : Nat
  gang : Nat
  priority : Nat
  policy : Nat
  part : Word
  args : List Byte
  /-- successor record address and dependence-counter address of the four slots -/
  succs : List (Word × Word)
  park : Nat
  faultq : Nat
  measure : BitVec 32
  chain : Word
  nonce : List Byte
  tag : List Byte
  extents : List Extent
  /-- the bytes that the seal covers, and all bytes of header and extent entries -/
  sealed : List Byte
  bytes : List Byte
  deriving DecidableEq, Repr

/-- The payload of a key handle (25 Table 25-3). -/
structure Payload where
  sealKey : BitVec 256
  rootKey : BitVec 256
  rate : Nat
  burst : Nat
  epoch : Word
  memKeys : List (BitVec 256)
  deriving DecidableEq, Repr

/-- A fault of a tile task or of an overflow activation (20 R326, R327). -/
structure FaultRec where
  code : BitVec 16
  linear : Nat
  pc : Word
  value : Word
  deriving DecidableEq, Repr

/-- Where an accepted capsule stands (08 Table 8-7). -/
inductive CapStatus where
  | queued | running | completing | faulting | parking
  deriving DecidableEq, Repr

/-- An accepted capsule (08 R174, R183). -/
structure Capsule where
  info : Record
  payload : Payload
  /-- the ring it came from: 0 to 63 host rings, 64 to 79 chain rings; and its cookie (08 R418) -/
  source : Nat
  cookie : Word
  /-- cache digest of its key handle, and first 16 bytes of the SHA-256 of its record as a little-endian number -/
  handle : BitVec 256
  recDigest : Nat
  /-- number of its world -/
  world : Nat
  /-- journal position of its acceptance -/
  pos : Word
  /-- the code verdict is still out (08 R170) -/
  verdict : Bool := false
  status : CapStatus := .queued
  /-- effective priority, and since when it waits (08 R183) -/
  priority : Nat := 0
  accepted : Nat := 0
  /-- first placement group not placed, and the time of the latest placement -/
  next : Nat := 0
  placed : Nat := 0
  /-- its faults, the first first -/
  faults : List FaultRec := []
  /-- slot records and messages of a park record that still have to be placed (20 R333) -/
  resume : List (List Byte) := []
  /-- the park extent has been looked at (20 R332) -/
  checked : Bool := false
  /-- messages captured while it parks: core, linear index, payload; those carried over from an earlier record are of no core (20 R329) -/
  captured : List (Option CoreId × Nat × Vec) := []
  /-- when its last slot stopped (20 R328) -/
  stopped : Option Nat := none
  /-- bytes of its park or fault record for which tokens have been taken, and the record's number among the requests that wait (25 R399) -/
  paid : Nat := 0
  waitNo : Option Nat := none
  /-- bytes of extents in host memory that the hub has read so far to hash them, by extent; of its code under 64 (08 R170; 25 R393) -/
  gathered : SMap (List Byte) := []
  deriving DecidableEq, Repr

/-- An entry of the code cache of a world (08 R170). -/
structure CodeEntry where
  target : Nat
  length : Nat
  digest : BitVec 256
  deriving DecidableEq, Repr

/-- What a receiver keeps of one flow: the counters seen within the window (25 R390). -/
structure Flow where
  next : Nat
  seen : List Nat
  deriving DecidableEq, Repr

/-- What a sender keeps of one flow: the next counter, and when the packets of the last L_max left (25 R390). -/
structure SentFlow where
  next : Nat := 0
  times : List Nat := []
  deriving DecidableEq, Repr

/-- Entries of a host ring, those below number `upTo`, that waited while a world closed: its tag, chain and EPOCH (25 R392). -/
structure Late where
  ring : Nat
  upTo : Nat
  tag : BitVec 256
  chain : Word
  epoch : Word
  deriving DecidableEq, Repr

/-- An open world (08 R178; 25 R393, R397, R399). -/
structure World where
  tag : BitVec 256
  chain : Word
  epoch : Word
  rootKey : BitVec 256
  openPos : Word
  /-- capsules accepted and not gone, and entries on the chain rings -/
  live : Nat := 0
  measure : BitVec 256 := 0
  completed : Nat := 0
  /-- STATUS of its receipt -/
  ends : BitVec 16 := 0
  guarded : Bool := false
  rate : Nat := 0
  burst : Nat := 0
  tokens : Nat := 0
  /-- when tokens were last gained -/
  ticked : Nat := 0
  /-- packets, debug reads, compare-and-swaps of `cp.dec`, records and the zeroing that wait at the hub, in issue order, by number -/
  waiting : List Nat := []
  /-- pieces of which a part has taken the tokens of all: slot, command, first byte, bytes still to leave -/
  paid : List (SlotId × Nat × Nat × Nat) := []
  code : List CodeEntry := []
  /-- cache digests of the key handles that it uses (25 R387) -/
  handles : List (BitVec 256) := []
  /-- S extents to zero: class, target, length, key -/
  scrub : List (Nat × Nat × Nat × KeyId) := []
  /-- the number under which the zeros wait for tokens (25 R399) -/
  scrubNo : Option Nat := none
  /-- slots that its capsules used: slot, pool offset and bytes of the partition -/
  used : List (SlotId × Nat × Nat) := []
  /-- counters of the flows it receives and sends through the ports, and of those within the module (25 R390) -/
  received : SMap Flow := []
  sent : SMap SentFlow := []
  innerSeen : SMap Flow := []
  innerSent : SMap SentFlow := []
  deriving DecidableEq, Repr

/-! ### The hub -/

/-- An entry of the roster (21 Table 21-2). -/
structure RosterEntry where
  device : Nat
  enabled : Bool
  digest : BitVec 32
  deriving DecidableEq, Repr

/-- A translation of a host page, or the host's refusal of one (09 R203). -/
structure Translation where
  page : Option Nat
  canRead : Bool
  canWrite : Bool
  deriving DecidableEq, Repr

/-- A host submission ring (26 Table 26-1). -/
structure Ring where
  base : Nat := 0
  log : Nat := 4
  on : Bool := false
  deriving DecidableEq, Repr

/-- An entry of an internal chain ring (08 R176). -/
structure ChainEntry where
  /-- the record's address in target form, and the key that it is read under -/
  target : Nat
  key : KeyId
  /-- number of the world it belongs to -/
  world : Nat
  deriving DecidableEq, Repr

/-- An unwrapped key handle in the handle cache (25 R387). -/
structure Handle where
  digest : BitVec 256
  payload : Payload
  deriving DecidableEq, Repr

/-- What a journal entry says beside its position, time and link (25 Table 25-4). -/
structure Event where
  code : Nat
  source : Nat
  detail : Nat := 0
  cookie : Nat := 0
  /-- the 16 bytes of DIGEST as a little-endian number -/
  digest : Nat := 0
  /-- of a WORLD_CLOSE that is held: the world, whose receipt is issued when the entry is written (25 R397) -/
  receipt : Option World := none
  deriving DecidableEq, Repr

/-- A CXL port (26 Table 26-1). -/
structure CxlPort where
  on : Bool := false
  capacity : Nat := 0
  up : Bool := false
  failed : Bool := false
  /-- what the expander reports, in GiB -/
  reports : Nat := 0
  deriving DecidableEq, Repr

/-- A controller image in force (25 R384; 26 R410). -/
structure Image where
  digest : BitVec 256
  protoMin : Nat
  protoMax : Nat
  deriving DecidableEq, Repr

/-- A firmware update in progress (26 R411). -/
structure Update where
  target : Nat
  image : Image
  deriving DecidableEq, Repr

/-- A Skelser port (26 Table 26-1). -/
structure Port where
  drop : BitVec 48 := 0
  oneLane : Bool := false
  down : Bool := false
  deriving DecidableEq, Repr

/-- A link: 0 to 7 to a die, 8 + p Skelser port p, 104 the host link, 105 + p CXL port p (21 R337). -/
structure Link where
  down : Bool := false
  oneLane : Bool := false
  /-- number of the next flit to send -/
  next : Nat := 0
  /-- number of the flit that the receiver waits for -/
  expect : Nat := 0
  /-- it has returned a negative acknowledgement and discards flits -/
  nak : Bool := false
  deriving DecidableEq, Repr

/-- The hub. -/
structure Hub where
  rosterVersion : Word := 0
  roster : List RosterEntry := []
  /-- translations by IOVA page (09 R203), the least recently used first in `atcOrder` -/
  atc : SMap Translation := []
  atcOrder : List Nat := []
  /-- T_wait in microseconds (21 Table 21-8) -/
  twait : Nat := 100
  powerLim : Nat := 3600
  spool : Nat := 0
  physmap : Nat := 2 ^ 32 - 1
  /-- cores that are fused off: CAPMAP lists every other one (26 R413) -/
  absent : List CoreId := []
  fmkey : Option (BitVec 256) := none
  /-- the value written to FWUPDATE last, and the update in progress -/
  fwReg : Word := 0
  update : Option Update := none
  /-- images that replaced those of boot, by controller: 0 the hub, 1 + d die d -/
  images : SMap Image := []
  cxl : SMap CxlPort := []
  cfgrej : Bool := false
  withheld : Bool := false
  run : Bool := false
  modPower : Nat := 0
  modTemp : Nat := 0
  /-- when a register's read was last journalled as withheld, by offset (25 R400) -/
  withheldAt : SMap Nat := []
  bootNonce : Word := 0
  ideKeys : SMap (BitVec 256) := []
  /-- rings, the turn among the 80, rings whose scan goes on (08 R181, R182, R417) -/
  rings : SMap Ring := []
  turn : Nat := 0
  scanning : SMap Bool := []
  chains : SMap (List ChainEntry) := []
  /-- accepted capsules by number, and the next number -/
  capsules : SMap Capsule := []
  capNo : Nat := 0
  /-- deficits of the rings in core-us, and the ring that placed last (08 R183): after reset ring 0 comes first (DESIGN CHOICE, log 70) -/
  deficits : SMap Int := []
  lastPlaced : Nat := 79
  /-- slots reserved for a cohort, and slots freed for the capsule that parked others (08 R184, R186) -/
  cohort : Option (Nat × List SlotId) := none
  freed : List (SlotId × Nat) := []
  worlds : SMap World := []
  worldNo : Nat := 0
  /-- ring entries that waited while a world closed (25 R392) -/
  late : List Late := []
  handles : List Handle := []
  /-- the journal (25 R395, R396) -/
  jbase : Nat := 0
  jlog : Nat := 10
  jhead : Nat := 0
  jconsumed : Nat := 0
  jlast : List Byte := []
  jqueue : List Event := []
  jlost : Nat := 0
  /-- receipts and roots (25 R397, R398) -/
  rcptBase : Nat := 0
  rcptLog : Nat := 8
  rcptHead : Nat := 0
  rootAddr : Nat := 0
  batch : List (List Byte) := []
  batchNo : Nat := 0
  /-- when the first entry not covered by a root was written -/
  uncovered : Option Nat := none
  ports : SMap Port := []
  links : SMap Link := []
  deriving DecidableEq, Repr

/-! ### Cellars (23) -/

/-- A block region: class, address and key (23 R360). -/
structure Block where
  cls : Nat
  addr : Nat
  key : KeyId
  deriving DecidableEq, Repr

/-- A binding (23 R359, R361, Table 23-1). -/
structure Binding where
  rule : Nat
  norm : Bool
  twin : Bool
  rsr : Bool
  slabs : Nat
  fmt : Nat
  beta1 : Nat
  beta2 : Nat
  eps : Nat
  decay : Nat
  omb1 : Nat
  omb2 : Nat
  /-- destination and stride of each subscriber; the places of the norm area and of the command area -/
  subs : List (Word × Nat)
  norms : Option Block
  command : Option Block
  blocks : List Block
  deriving DecidableEq, Repr

/-- A snapshot: of a gradient, or of a command (23 R365, R371). -/
inductive Job where
  | gradient (block : Nat) (value : Word) (header values : List Byte) (poison : Bool)
  | command (op factor : Nat) (step : Word)
  deriving DecidableEq, Repr

/-- A doorbell event of which the engine has taken no snapshot yet: of a block with the value written, or of the command
area with what it held (23 R365, R371). -/
inductive Bell where
  | block (block : Nat) (value : Word)
  | command (op factor : Nat) (step : Word)
  deriving DecidableEq, Repr

/-- A return or a partial sum that waits to depart (23 R372). -/
structure Return where
  /-- number of the return, one for all its subscribers, and the subscriber; none for a partial sum -/
  no : Nat
  sub : Option Nat
  block : Nat
  dst : Word
  seq : Nat
  data : List Byte
  value : Word
  deriving DecidableEq, Repr

/-- The cellar engine of a slice (23 R361 to R372). -/
structure Engine where
  /-- number of the capsule whose binding it serves -/
  cap : Option Nat := none
  /-- doorbell events whose snapshot has not been taken -/
  bells : List Bell := []
  jobs : List Job := []
  clip : Option (Word × Nat) := none
  promoted : Bool := false
  normSeq : Nat := 0
  /-- staged snapshots by block: header, values, poison (23 R370) -/
  staged : SMap (List Byte × List Byte × Bool) := []
  /-- the first block that the command in hand has still to look at (23 R371) -/
  cursor : Nat := 0
  returns : List Return := []
  /-- when each sequence was used last under its key; at binding for the others -/
  used : SMap Nat := []
  bound : Nat := 0
  deriving DecidableEq, Repr

/-! ### What has left the module -/

inductive Sent where
  /-- a packet to another device -/
  | packet (p : Packet)
  /-- the completion of a host read -/
  | completion (addr : Nat) (bytes : List Byte)
  /-- an Unsupported Request completion -/
  | unsupported (addr : Nat)
  /-- the value of a register that the host read -/
  | register (offset value : Nat)
  /-- bytes returned by the debug path -/
  | debug (bytes : List Byte)
  /-- an invalidation completion (09 R204) -/
  | invalidated (page : Nat)
  deriving DecidableEq, Repr

end Sys2Proof.Machine
end

