-- ==== Sys2Proof/Syntax.lean ====
section
/-! DEFINITION. The instructions and steps of the T9: one constructor for each row of spec/opcode_table.json. Rows with
an encoding carry its operand fields (03 R52 to R67); the compact rows are constructors of their own (03 R67). Rows without
an encoding are the machine's other indivisible steps (95_what_each_step_holds.md); what the outside world or a unit's
own choice supplies to one of them stands in State.arg (log 5). Constructors with fields stand first: Lean's code generator
takes no more than 245 of them. -/

namespace Sys2Proof

inductive Instr where
  /-- ADD (R72) -/
  | add (d a b : BitVec 5)
  /-- SUB (R72) -/
  | sub (d a b : BitVec 5)
  /-- AND (R72) -/
  | and (d a b : BitVec 5)
  /-- OR (R72) -/
  | or (d a b : BitVec 5)
  /-- XOR (R72) -/
  | xor (d a b : BitVec 5)
  /-- ANDN (R72) -/
  | andn (d a b : BitVec 5)
  /-- ORN (R72) -/
  | orn (d a b : BitVec 5)
  /-- XNOR (R72) -/
  | xnor (d a b : BitVec 5)
  /-- SLL (R72) -/
  | sll (d a b : BitVec 5)
  /-- SRL (R72) -/
  | srl (d a b : BitVec 5)
  /-- SRA (R72) -/
  | sra (d a b : BitVec 5)
  /-- ROL (R72) -/
  | rol (d a b : BitVec 5)
  /-- ROR (R72) -/
  | ror (d a b : BitVec 5)
  /-- SLT (R72) -/
  | slt (d a b : BitVec 5)
  /-- SLTU (R72) -/
  | sltu (d a b : BitVec 5)
  /-- SEQ (R72) -/
  | seq (d a b : BitVec 5)
  /-- MIN (R72) -/
  | min (d a b : BitVec 5)
  /-- MAX (R72) -/
  | max (d a b : BitVec 5)
  /-- MINU (R72) -/
  | minu (d a b : BitVec 5)
  /-- MAXU (R72) -/
  | maxu (d a b : BitVec 5)
  /-- CSEL (R72) -/
  | csel (d a b c : BitVec 5)
  /-- MUL (R72) -/
  | mul (d a b : BitVec 5)
  /-- MULH (R72) -/
  | mulh (d a b : BitVec 5)
  /-- MULHU (R72) -/
  | mulhu (d a b : BitVec 5)
  /-- DIV (R73) -/
  | div (d a b : BitVec 5)
  /-- DIVU (R73) -/
  | divu (d a b : BitVec 5)
  /-- REM (R73) -/
  | rem (d a b : BitVec 5)
  /-- REMU (R73) -/
  | remu (d a b : BitVec 5)
  /-- CLZ (R74) -/
  | clz (d a : BitVec 5)
  /-- CTZ (R74) -/
  | ctz (d a : BitVec 5)
  /-- POPC (R74) -/
  | popc (d a : BitVec 5)
  /-- SEXT_B (R74) -/
  | sextB (d a : BitVec 5)
  /-- SEXT_H (R74) -/
  | sextH (d a : BitVec 5)
  /-- SEXT_W (R74) -/
  | sextW (d a : BitVec 5)
  /-- ZEXT_W (R74) -/
  | zextW (d a : BitVec 5)
  /-- BREV (R74) -/
  | brev (d a : BitVec 5)
  /-- ABS (R74) -/
  | abs (d a : BitVec 5)
  /-- ADDSL (R75) -/
  | addsl (d a b n : BitVec 5)
  /-- ADDI (R76) -/
  | addi (d a : BitVec 5) (imm : BitVec 15)
  /-- ANDI (R76) -/
  | andi (d a : BitVec 5) (imm : BitVec 15)
  /-- ORI (R76) -/
  | ori (d a : BitVec 5) (imm : BitVec 15)
  /-- XORI (R76) -/
  | xori (d a : BitVec 5) (imm : BitVec 15)
  /-- SLTI (R76) -/
  | slti (d a : BitVec 5) (imm : BitVec 15)
  /-- SLTIU (R76) -/
  | sltiu (d a : BitVec 5) (imm : BitVec 15)
  /-- SLLI (R77) -/
  | slli (d a : BitVec 5) (n : BitVec 6)
  /-- SRLI (R77) -/
  | srli (d a : BitVec 5) (n : BitVec 6)
  /-- SRAI (R77) -/
  | srai (d a : BitVec 5) (n : BitVec 6)
  /-- ROLI (R77) -/
  | roli (d a : BitVec 5) (n : BitVec 6)
  /-- RORI (R77) -/
  | rori (d a : BitVec 5) (n : BitVec 6)
  /-- LIH (R78) -/
  | lih (d : BitVec 5) (imm : BitVec 20)
  /-- LIA (R78) -/
  | lia (d : BitVec 5) (imm : BitVec 20)
  /-- B_EQ (R79) -/
  | bEq (a b : BitVec 5) (off : BitVec 12)
  /-- B_NE (R79) -/
  | bNe (a b : BitVec 5) (off : BitVec 12)
  /-- B_LT (R79) -/
  | bLt (a b : BitVec 5) (off : BitVec 12)
  /-- B_GE (R79) -/
  | bGe (a b : BitVec 5) (off : BitVec 12)
  /-- B_LTU (R79) -/
  | bLtu (a b : BitVec 5) (off : BitVec 12)
  /-- B_GEU (R79) -/
  | bGeu (a b : BitVec 5) (off : BitVec 12)
  /-- J (R80) -/
  | j (off : BitVec 25)
  /-- CALL (R83) -/
  | call (off : BitVec 20) (k : BitVec 5)
  /-- JR (R81) -/
  | jr (a : BitVec 5)
  /-- CALLR (R83) -/
  | callr (a k : BitVec 5)
  /-- LOOP (R86) -/
  | loop (a : BitVec 5) (len : BitVec 11)
  /-- LOOPI (R86) -/
  | loopi (count : BitVec 12) (len : BitVec 11)
  /-- LD (R90) -/
  | ld (d a : BitVec 5) (imm : BitVec 13) (sz : Size)
  /-- ST (R90) -/
  | st (d a : BitVec 5) (imm : BitVec 13) (sz : Size)
  /-- FLD (R90) -/
  | fld (d a : BitVec 5) (imm : BitVec 13) (sz : FSize)
  /-- FST (R90) -/
  | fst (d a : BitVec 5) (imm : BitVec 13) (sz : FSize)
  /-- FADD (R95) -/
  | fadd (d a b : BitVec 5) (ty : FType) (rnd : Rnd)
  /-- FSUB (R95) -/
  | fsub (d a b : BitVec 5) (ty : FType) (rnd : Rnd)
  /-- FMUL (R95) -/
  | fmul (d a b : BitVec 5) (ty : FType) (rnd : Rnd)
  /-- FDIV (R95) -/
  | fdiv (d a b : BitVec 5) (ty : FType) (rnd : Rnd)
  /-- FSQRT (R95) -/
  | fsqrt (d a : BitVec 5) (ty : FType) (rnd : Rnd)
  /-- FMIN (R96) -/
  | fmin (d a b : BitVec 5) (ty : FType)
  /-- FMAX (R96) -/
  | fmax (d a b : BitVec 5) (ty : FType)
  /-- FSGNJ (R96) -/
  | fsgnj (d a b : BitVec 5) (ty : FType)
  /-- FSGNJN (R96) -/
  | fsgnjn (d a b : BitVec 5) (ty : FType)
  /-- FSGNJX (R96) -/
  | fsgnjx (d a b : BitVec 5) (ty : FType)
  /-- FEQ (R97) -/
  | feq (d a b : BitVec 5) (ty : FType)
  /-- FLT (R97) -/
  | flt (d a b : BitVec 5) (ty : FType)
  /-- FLE (R97) -/
  | fle (d a b : BitVec 5) (ty : FType)
  /-- FCLASS (R98) -/
  | fclass (d a : BitVec 5) (ty : FType)
  /-- FCVT (R99) -/
  | fcvt (d a : BitVec 5) (src ty : FType) (rnd : Rnd)
  /-- FCVT_I (R100) -/
  | fcvtI (d a : BitVec 5) (ty : FType) (rnd : Rnd)
  /-- FCVT_FROM_I (R101) -/
  | fcvtFromI (d a : BitVec 5) (ty : FType) (rnd : Rnd)
  /-- FMV_X (R102) -/
  | fmvX (d a : BitVec 5) (ty : FType)
  /-- FMV_F (R102) -/
  | fmvF (d a : BitVec 5) (ty : FType)
  /-- FMADD (R103) -/
  | fmadd (d a b c : BitVec 5) (ty : FType) (rnd : Rnd)
  /-- FMSUB (R103) -/
  | fmsub (d a b c : BitVec 5) (ty : FType) (rnd : Rnd)
  /-- FNMADD (R103) -/
  | fnmadd (d a b c : BitVec 5) (ty : FType) (rnd : Rnd)
  /-- FNMSUB (R103) -/
  | fnmsub (d a b c : BitVec 5) (ty : FType) (rnd : Rnd)
  /-- FGETX (R104) -/
  | fgetx (d a b : BitVec 5)
  /-- FPUTX (R104) -/
  | fputx (d a b : BitVec 5)
  /-- XGETX (R104) -/
  | xgetx (d a b : BitVec 5)
  /-- XPUTX (R104) -/
  | xputx (d a b : BitVec 5)
  /-- GETS (R105) -/
  | gets (d : BitVec 5) (n : BitVec 12)
  /-- PUTS (R105) -/
  | puts (a : BitVec 5) (n : BitVec 12)
  /-- TRAP (R107) -/
  | trap (imm : BitVec 15)
  /-- BRK (R107) -/
  | brk (imm : BitVec 15)
  /-- TEXIT (R109) -/
  | texit (imm : BitVec 15)
  /-- SEV (R158) -/
  | sev (a : BitVec 5)
  /-- POPEV (R159) -/
  | popev (d : BitVec 5)
  /-- REGION (R322) -/
  | region (msk : BitVec 11)
  /-- GANG (R123) -/
  | gang (n : BitVec 15)
  /-- FENCE (R216) -/
  | fence (scope : Scope)
  /-- PROBE (R220) -/
  | probe (d a : BitVec 5)
  /-- SEND (R154) -/
  | send (a b : BitVec 5)
  /-- RECV (R155) -/
  | recv (d : BitVec 5)
  /-- GRP (R343) -/
  | grp (grp : BitVec 5)
  /-- REL (R344) -/
  | rel (a b : BitVec 5)
  /-- GRPQ (R345) -/
  | grpq (d grp : BitVec 5)
  /-- LD_G (R210) -/
  | ldG (d a : BitVec 5) (imm : BitVec 9) (sz : Size)
  /-- LD_ACQ (R214) -/
  | ldAcq (d a : BitVec 5) (imm : BitVec 9) (sz : Size) (scope : Scope)
  /-- ST_G (R210) -/
  | stG (d a : BitVec 5) (imm : BitVec 9) (sz : Size)
  /-- ST_REL (R215) -/
  | stRel (d a : BitVec 5) (imm : BitVec 9) (sz : Size) (scope : Scope)
  /-- ATOM_ADD (R217) -/
  | atomAdd (d a b : BitVec 5) (ar : Bool) (sz : ASize) (scope : Scope)
  /-- ATOM_AND (R217) -/
  | atomAnd (d a b : BitVec 5) (ar : Bool) (sz : ASize) (scope : Scope)
  /-- ATOM_OR (R217) -/
  | atomOr (d a b : BitVec 5) (ar : Bool) (sz : ASize) (scope : Scope)
  /-- ATOM_XOR (R217) -/
  | atomXor (d a b : BitVec 5) (ar : Bool) (sz : ASize) (scope : Scope)
  /-- ATOM_MIN (R217) -/
  | atomMin (d a b : BitVec 5) (ar : Bool) (sz : ASize) (scope : Scope)
  /-- ATOM_MAX (R217) -/
  | atomMax (d a b : BitVec 5) (ar : Bool) (sz : ASize) (scope : Scope)
  /-- ATOM_MINU (R217) -/
  | atomMinu (d a b : BitVec 5) (ar : Bool) (sz : ASize) (scope : Scope)
  /-- ATOM_MAXU (R217) -/
  | atomMaxu (d a b : BitVec 5) (ar : Bool) (sz : ASize) (scope : Scope)
  /-- ATOM_SWAP (R217) -/
  | atomSwap (d a b : BitVec 5) (ar : Bool) (sz : ASize) (scope : Scope)
  /-- ATOM_CAS (R217) -/
  | atomCas (d a b : BitVec 5) (ar : Bool) (sz : ASize) (scope : Scope)
  /-- ATOM_FADD_S (R217) -/
  | atomFaddS (d a b : BitVec 5) (ar : Bool) (scope : Scope)
  /-- ATOM_FMIN_S (R217) -/
  | atomFminS (d a b : BitVec 5) (ar : Bool) (scope : Scope)
  /-- ATOM_FMAX_S (R217) -/
  | atomFmaxS (d a b : BitVec 5) (ar : Bool) (scope : Scope)
  /-- WAIT (R221) -/
  | wait (ld st cp mx : BitVec 4)
  /-- VADD (R140) -/
  | vadd (d a b : BitVec 5) (ty : IType) (mask : BitVec 3)
  /-- VSUB (R140) -/
  | vsub (d a b : BitVec 5) (ty : IType) (mask : BitVec 3)
  /-- VMUL (R140) -/
  | vmul (d a b : BitVec 5) (ty : IType) (mask : BitVec 3)
  /-- VMULH (R140) -/
  | vmulh (d a b : BitVec 5) (ty : IType) (mask : BitVec 3)
  /-- VMULHU (R140) -/
  | vmulhu (d a b : BitVec 5) (ty : IType) (mask : BitVec 3)
  /-- VMIN (R140) -/
  | vmin (d a b : BitVec 5) (ty : IType) (mask : BitVec 3)
  /-- VMAX (R140) -/
  | vmax (d a b : BitVec 5) (ty : IType) (mask : BitVec 3)
  /-- VMINU (R140) -/
  | vminu (d a b : BitVec 5) (ty : IType) (mask : BitVec 3)
  /-- VMAXU (R140) -/
  | vmaxu (d a b : BitVec 5) (ty : IType) (mask : BitVec 3)
  /-- VAND (R140) -/
  | vand (d a b : BitVec 5) (ty : IType) (mask : BitVec 3)
  /-- VOR (R140) -/
  | vor (d a b : BitVec 5) (ty : IType) (mask : BitVec 3)
  /-- VXOR (R140) -/
  | vxor (d a b : BitVec 5) (ty : IType) (mask : BitVec 3)
  /-- VSLL (R140) -/
  | vsll (d a b : BitVec 5) (ty : IType) (mask : BitVec 3)
  /-- VSRL (R140) -/
  | vsrl (d a b : BitVec 5) (ty : IType) (mask : BitVec 3)
  /-- VSRA (R140) -/
  | vsra (d a b : BitVec 5) (ty : IType) (mask : BitVec 3)
  /-- VADDS (R140) -/
  | vadds (d a b : BitVec 5) (ty : IType) (mask : BitVec 3)
  /-- VSUBS (R140) -/
  | vsubs (d a b : BitVec 5) (ty : IType) (mask : BitVec 3)
  /-- VABS (R140) -/
  | vabs (d a : BitVec 5) (ty : IType) (mask : BitVec 3)
  /-- VNEG (R140) -/
  | vneg (d a : BitVec 5) (ty : IType) (mask : BitVec 3)
  /-- VDUP (R140) -/
  | vdup (d a : BitVec 5) (ty : IType) (mask : BitVec 3)
  /-- VFADD (R141) -/
  | vfadd (d a b : BitVec 5) (ty : FType) (mask : BitVec 3)
  /-- VFSUB (R141) -/
  | vfsub (d a b : BitVec 5) (ty : FType) (mask : BitVec 3)
  /-- VFMUL (R141) -/
  | vfmul (d a b : BitVec 5) (ty : FType) (mask : BitVec 3)
  /-- VFDIV (R141) -/
  | vfdiv (d a b : BitVec 5) (ty : FType) (mask : BitVec 3)
  /-- VFSQRT (R141) -/
  | vfsqrt (d a : BitVec 5) (ty : FType) (mask : BitVec 3)
  /-- VFMIN (R141) -/
  | vfmin (d a b : BitVec 5) (ty : FType) (mask : BitVec 3)
  /-- VFMAX (R141) -/
  | vfmax (d a b : BitVec 5) (ty : FType) (mask : BitVec 3)
  /-- VFABS (R141) -/
  | vfabs (d a : BitVec 5) (ty : FType) (mask : BitVec 3)
  /-- VFNEG (R141) -/
  | vfneg (d a : BitVec 5) (ty : FType) (mask : BitVec 3)
  /-- VFDUP (R141) -/
  | vfdup (d a : BitVec 5) (ty : FType) (mask : BitVec 3)
  /-- VFMADD (R142) -/
  | vfmadd (d a b : BitVec 5) (ty : FType) (mask : BitVec 3)
  /-- VFMSUB (R142) -/
  | vfmsub (d a b : BitVec 5) (ty : FType) (mask : BitVec 3)
  /-- VFNMADD (R142) -/
  | vfnmadd (d a b : BitVec 5) (ty : FType) (mask : BitVec 3)
  /-- VFNMSUB (R142) -/
  | vfnmsub (d a b : BitVec 5) (ty : FType) (mask : BitVec 3)
  /-- VCEQ (R143) -/
  | vceq (d : BitVec 3) (a b : BitVec 5) (ty : IType) (mask : BitVec 3)
  /-- VCNE (R143) -/
  | vcne (d : BitVec 3) (a b : BitVec 5) (ty : IType) (mask : BitVec 3)
  /-- VCLT (R143) -/
  | vclt (d : BitVec 3) (a b : BitVec 5) (ty : IType) (mask : BitVec 3)
  /-- VCLE (R143) -/
  | vcle (d : BitVec 3) (a b : BitVec 5) (ty : IType) (mask : BitVec 3)
  /-- VCLTU (R143) -/
  | vcltu (d : BitVec 3) (a b : BitVec 5) (ty : IType) (mask : BitVec 3)
  /-- VCLEU (R143) -/
  | vcleu (d : BitVec 3) (a b : BitVec 5) (ty : IType) (mask : BitVec 3)
  /-- VFCEQ (R143) -/
  | vfceq (d : BitVec 3) (a b : BitVec 5) (ty : FType) (mask : BitVec 3)
  /-- VFCLT (R143) -/
  | vfclt (d : BitVec 3) (a b : BitVec 5) (ty : FType) (mask : BitVec 3)
  /-- VFCLE (R143) -/
  | vfcle (d : BitVec 3) (a b : BitVec 5) (ty : FType) (mask : BitVec 3)
  /-- VSEL (R145) -/
  | vsel (d a b : BitVec 5) (ty : IType) (mask : BitVec 3)
  /-- VPERM (R145) -/
  | vperm (d a b : BitVec 5) (ty : IType) (mask : BitVec 3)
  /-- VSLUP (R145) -/
  | vslup (d a b : BitVec 5) (ty : IType) (mask : BitVec 3)
  /-- VSLDN (R145) -/
  | vsldn (d a b : BitVec 5) (ty : IType) (mask : BitVec 3)
  /-- VRSUM (R146) -/
  | vrsum (d a : BitVec 5) (ty : IType) (mask : BitVec 3)
  /-- VRMIN (R146) -/
  | vrmin (d a : BitVec 5) (ty : IType) (mask : BitVec 3)
  /-- VRMAX (R146) -/
  | vrmax (d a : BitVec 5) (ty : IType) (mask : BitVec 3)
  /-- VFRSUM (R146) -/
  | vfrsum (d a : BitVec 5) (ty : FType) (mask : BitVec 3)
  /-- VFRMIN (R146) -/
  | vfrmin (d a : BitVec 5) (ty : FType) (mask : BitVec 3)
  /-- VFRMAX (R146) -/
  | vfrmax (d a : BitVec 5) (ty : FType) (mask : BitVec 3)
  /-- VEXT (R145) -/
  | vext (d a b : BitVec 5) (ty : IType)
  /-- VINS (R145) -/
  | vins (d a b : BitVec 5) (ty : IType)
  /-- VCVT (R147) -/
  | vcvt (d a : BitVec 5) (src dst : CFmt) (rnd : Rnd) (mask : BitVec 3)
  /-- MAND (R144) -/
  | mand (d a b : BitVec 3)
  /-- MOR (R144) -/
  | mor (d a b : BitVec 3)
  /-- MXOR (R144) -/
  | mxor (d a b : BitVec 3)
  /-- MANDN (R144) -/
  | mandn (d a b : BitVec 3)
  /-- MNOT (R144) -/
  | mnot (d a : BitVec 3)
  /-- MPOPC (R144) -/
  | mpopc (d : BitVec 5) (a : BitVec 3)
  /-- MFIRST (R144) -/
  | mfirst (d : BitVec 5) (a : BitVec 3)
  /-- MFROMX (R144) -/
  | mfromx (d : BitVec 3) (a : BitVec 5)
  /-- MTOX (R144) -/
  | mtox (d : BitVec 5) (a : BitVec 3)
  /-- VLD (R149) -/
  | vld (d a : BitVec 5) (off : BitVec 7) (mask : BitVec 3)
  /-- VST (R149) -/
  | vst (d a : BitVec 5) (off : BitVec 7) (mask : BitVec 3)
  /-- VGATHER (R151) -/
  | vgather (d a b : BitVec 5) (ty : IType) (mask : BitVec 3)
  /-- VSCATTER (R151) -/
  | vscatter (d a b : BitVec 5) (ty : IType) (mask : BitVec 3)
  /-- MMA_LO (R275) -/
  | mmaLo (a b f n : BitVec 5) (pair : Pair)
  /-- MMA_HI (R275) -/
  | mmaHi (a b f n : BitVec 5) (pair : Pair)
  /-- MCLR (R277) -/
  | mclr (n : BitVec 6)
  /-- MLD (R278) -/
  | mld (n : BitVec 6) (a : BitVec 5) (ty : MType)
  /-- MST (R279) -/
  | mst (n : BitVec 6) (a : BitVec 5) (ty : MType) (rnd : Rnd)
  /-- MCFG (R264) -/
  | mcfg (a n : BitVec 5)
  /-- VPACK_M8 (R282) -/
  | vpackM8 (d a b : BitVec 5) (rnd : Rnd)
  /-- VPACK_E43 (R282) -/
  | vpackE43 (d a b : BitVec 5) (rnd : Rnd)
  /-- VPACK_E52 (R282) -/
  | vpackE52 (d a b : BitVec 5) (rnd : Rnd)
  /-- VPACK_E23 (R282) -/
  | vpackE23 (d a b : BitVec 5) (rnd : Rnd)
  /-- VPACK_E32 (R282) -/
  | vpackE32 (d a b : BitVec 5) (rnd : Rnd)
  /-- VPACK_E21 (R282) -/
  | vpackE21 (d a b : BitVec 5) (rnd : Rnd)
  /-- VPACK_I8 (R282) -/
  | vpackI8 (d a b : BitVec 5) (rnd : Rnd)
  /-- CP (R297) -/
  | cp (a b : BitVec 5) (ch : BitVec 4)
  /-- CP_MC (R300) -/
  | cpMc (a b : BitVec 5) (ch : BitVec 4)
  /-- CP_DEC (R302) -/
  | cpDec (a b : BitVec 5) (ch : BitVec 4)
  /-- SUBSCR (R303) -/
  | subscr (a b : BitVec 5) (ch : BitVec 4)
  /-- SREL (R305) -/
  | srel (a : BitVec 5) (ch : BitVec 4)
  /-- CHINIT (R293) -/
  | chinit (a b : BitVec 5) (ch : BitVec 4)
  /-- CHQ (R294) -/
  | chq (d : BitVec 5) (ch : BitVec 4)
  /-- CPCFG (R289) -/
  | cpcfg (a n : BitVec 5)
  /-- WAITC (R295) -/
  | waitc (ch : BitVec 4)
  /-- ADD_C_X0 (R67) -/
  | addCX0 (d s : BitVec 5)
  /-- ADD_C (R67) -/
  | addC (d s : BitVec 5)
  /-- SUB_C (R67) -/
  | subC (d s : BitVec 5)
  /-- AND_C (R67) -/
  | andC (d s : BitVec 5)
  /-- OR_C (R67) -/
  | orC (d s : BitVec 5)
  /-- XOR_C (R67) -/
  | xorC (d s : BitVec 5)
  /-- ADDI_C (R67) -/
  | addiC (d imm : BitVec 5)
  /-- ADDI_C_X0 (R67) -/
  | addiCX0 (d imm : BitVec 5)
  /-- SLLI_C (R67) -/
  | slliC (d n : BitVec 5)
  /-- SRLI_C (R67) -/
  | srliC (d n : BitVec 5)
  /-- SRAI_C (R67) -/
  | sraiC (d n : BitVec 5)
  /-- LD_D_C (R67) -/
  | ldDC (d s : BitVec 5)
  /-- ST_D_C (R67) -/
  | stDC (d s : BitVec 5)
  /-- LD_W_C (R67) -/
  | ldWC (d s : BitVec 5)
  /-- ST_W_C (R67) -/
  | stWC (d s : BitVec 5)
  /-- JR_C (R67) -/
  | jrC (s : BitVec 5)
  /-- FADD_S_C (R67) -/
  | faddSC (d s : BitVec 5)
  /-- FMUL_S_C (R67) -/
  | fmulSC (d s : BitVec 5)
  /-- ILLEGAL_INSTRUCTION (R68) -/
  | illegalInstruction (word : BitVec 32)
  /-- FETCH_FAULT (R22) -/
  | fetchFault (rights : Bool) (addr : Word)
  /-- RET (R85) -/
  | ret
  /-- NOP (R106) -/
  | nop
  /-- TRET (R108) -/
  | tret
  /-- WFE (R132) -/
  | wfe
  /-- COMMIT (R323) -/
  | commit
  /-- ABORT (R324) -/
  | abort
  /-- SPLIT (R125) -/
  | split
  /-- NOP_C (R67) -/
  | nopC
  /-- RET_C (R67) -/
  | retC
  /-- TEXIT_C (R67) -/
  | texitC
  /-- WFE_C (R67) -/
  | wfeC
  /-- DEVICE_RESET (R346) -/
  | deviceReset
  /-- DOORBELL (R407) -/
  | doorbell
  /-- RING_RESET (R407) -/
  | ringReset
  /-- CAPSULE_ACCEPTANCE (R171) -/
  | capsuleAcceptance
  /-- CODE_VERDICT (R170) -/
  | codeVerdict
  /-- PLACE_GROUP (R183) -/
  | placeGroup
  /-- PRIORITY_AGING (R183) -/
  | priorityAging
  /-- DEFICIT_CHARGE (R183) -/
  | deficitCharge
  /-- COHORT_RESERVATION (R184) -/
  | cohortReservation
  /-- PARK_CAPSULE (R328) -/
  | parkCapsule
  /-- PARK_CAPTURE_END (R328) -/
  | parkCaptureEnd
  /-- RESUME_CAPSULE (R333) -/
  | resumeCapsule
  /-- CAPSULE_COMPLETION (R173) -/
  | capsuleCompletion
  /-- CAPSULE_FAULT (R327) -/
  | capsuleFault
  /-- MESSAGE_ARRIVAL (R127) -/
  | messageArrival
  /-- OVERFLOW_ACTIVATION (R130) -/
  | overflowActivation
  /-- SEV_ARRIVAL (R158) -/
  | sevArrival
  /-- REMOTE_ACCESS_ARRIVAL (R197) -/
  | remoteAccessArrival
  /-- ACCESS_RESPONSE (R209) -/
  | accessResponse
  /-- RESPONSE_TIMEOUT (R209) -/
  | responseTimeout
  /-- ATS_TRANSLATION_COMPLETE (R203) -/
  | atsTranslationComplete
  /-- ATS_INVALIDATION (R204) -/
  | atsInvalidation
  /-- HOST_MEMORY_ACCESS (R404) -/
  | hostMemoryAccess
  /-- HELD_WRITE_DEPART (R319) -/
  | heldWriteDepart
  /-- REL_FLAG_DEPART (R344) -/
  | relFlagDepart
  /-- ENGINE_COMMAND_START (R268) -/
  | engineCommandStart
  /-- ENGINE_COMMAND_RETIRE (R269) -/
  | engineCommandRetire
  /-- COPY_COMMAND_ACCEPT (R287) -/
  | copyCommandAccept
  /-- COPY_PIECE_SERVE (R286) -/
  | copyPieceServe
  /-- DEC_COPY (R302) -/
  | decCopy
  /-- CHANNEL_COUNT (R291) -/
  | channelCount
  /-- COPY_PIECE_LOST (R301) -/
  | copyPieceLost
  /-- SUBSCRIPTION_START (R306) -/
  | subscriptionStart
  /-- SWITCH_FORWARD (R336) -/
  | switchForward
  /-- LINK_FLIT_RECEIVE (R337) -/
  | linkFlitReceive
  /-- FLIT_REPLAY (R337) -/
  | flitReplay
  /-- LINK_DOWN (R337) -/
  | linkDown
  /-- LANE_LOSS (R413) -/
  | laneLoss
  /-- PORT_PACKET_RECEIVE (R390) -/
  | portPacketReceive
  /-- COUNTED_PACKET_ARRIVAL (R348) -/
  | countedPacketArrival
  /-- ARRIVAL_TIMEOUT (R348) -/
  | arrivalTimeout
  /-- ARRIVAL_ORPHAN (R348) -/
  | arrivalOrphan
  /-- ROSTER_INSTALL (R339) -/
  | rosterInstall
  /-- FMKEY_WRITE (R408) -/
  | fmkeyWrite
  /-- CELLAR_DOORBELL (R365) -/
  | cellarDoorbell
  /-- CELLAR_STEP (R367) -/
  | cellarStep
  /-- CELLAR_PACKET_DEPART (R372) -/
  | cellarPacketDepart
  /-- CLIP (R371) -/
  | clip
  /-- PROMOTE (R371) -/
  | promote
  /-- ROOT_SIGN (R398) -/
  | rootSign
  /-- EGRESS_TOKEN_TICK (R399) -/
  | egressTokenTick
  /-- HOST_READ_WITHHELD (R400) -/
  | hostReadWithheld
  /-- JCONSUMED_WRITE (R396) -/
  | jconsumedWrite
  /-- FIRMWARE_UPDATE (R411) -/
  | firmwareUpdate
  /-- FIRMWARE_RESTART (R411) -/
  | firmwareRestart
  /-- CXL_PORT_CONFIG (R406) -/
  | cxlPortConfig
  /-- REGISTER_WRITE (R405) -/
  | registerWrite
  /-- DEBUG_READ (R409) -/
  | debugRead
  /-- POWER_LIMIT_CONTROL (R414) -/
  | powerLimitControl
  /-- THERMAL_THROTTLE (R414) -/
  | thermalThrottle
  /-- THERMAL_SHUTDOWN (R414) -/
  | thermalShutdown
  /-- TDISP_STATE_CHANGE (R401) -/
  | tdispStateChange
  /-- EXPANDER_FAILURE (R202) -/
  | expanderFailure
  /-- STORE_BUFFER_PERFORM (R94) -/
  | storeBufferPerform
  /-- RELEASE_CONDITION_MET (R213) -/
  | releaseConditionMet
  /-- SOFT_ERROR (R269) -/
  | softError
  /-- LINK_RETRAIN_COMPLETE (R337) -/
  | linkRetrainComplete
  /-- CXL_LINK_STATE (R405) -/
  | cxlLinkState
  /-- HOST_ATOMICOP (R181) -/
  | hostAtomicop
  /-- IDE_KEY_PROGRAMMING (R401) -/
  | ideKeyProgramming
  /-- THERMAL_THROTTLE_END (R414) -/
  | thermalThrottleEnd
  deriving DecidableEq, Repr

end Sys2Proof
end

