-- ==== Sys2Proof/Machine/State.lean ====
section
/-! DEFINITION. The state of one module, the reasons a step can stop, and the state after reset. -/

namespace Sys2Proof.Machine

/-- Memory of the module: the bytes of classes 0 to 3 and of the pools under one numbering (Ops.memKey, Ops.poolKey), the
poisoned 64-byte granules, and the key under which each granule is held (09 R188, R195; 10 R209; 25 R389). -/
structure Memory where
  cells : List Host.Cell := []
  poison : SMap Bool := []
  keys : SMap KeyId := []
  /-- code that running capsules have fetched from: capsule, first byte and number of bytes, and the key that it is fetched under; and, by half the
  address, the values that its parcels held before writes that software must not make, with the capsule that watched and its key, the latest first (01 R419) -/
  watch : List (Nat × Nat × Nat × KeyId) := []
  past : SMap (List (Nat × KeyId × BitVec 16)) := []
  deriving DecidableEq, Repr

/-- A move of the schedule: a step that is no instruction with what is supplied to it, or an issue on a core (log 5). -/
inductive Move where
  | event (i : Instr) (arg : EventArg)
  | issue (core : CoreId)
  deriving DecidableEq, Repr

/-- The module. -/
structure State where
  /-- the slot in hand -/
  cur : SlotId := ⟨0, 0⟩
  slot : Slot := {}
  /-- the other slots, by number 5 core + slot; an unlisted one stands at its reset record -/
  others : SMap Slot := []
  /-- the gang's members as they stood when the instruction in hand issued, leader first (log 5) -/
  latch : List (SlotId × Slot) := []
  cores : SMap Core := []
  dies : SMap Die := []
  mem : Memory := {}
  net : SMap Packet := []
  hub : Hub := {}
  /-- bindings by capsule number, and the cellar engines by global slice number -/
  bindings : SMap Binding := []
  engines : SMap Engine := []
  outbox : List Sent := []
  /-- accesses from outside that wait, in the order in which they came (11 R228; 23 R365; 25 R399) -/
  deferred : List (Instr × EventArg) := []
  /-- moves to come; with none the schedule is that of log 5 -/
  agenda : List Move := []
  /-- what is supplied to the step in hand -/
  arg : EventArg := {}
  /-- time in ticks, and additional time of the steps to come (log 4) -/
  now : Nat := 0
  dwell : List Nat := []
  /-- number of the next packet, request, command or free value (log 8) -/
  fresh : Nat := 0
  /-- how many resets and how many fetches there have been (log 8) -/
  resets : Nat := 0
  fetches : Nat := 0
  powered : Bool := true
  /-- whether the coming loads of own-die bytes are performed after their issue, as a packet (11 R226; log 13) -/
  late : List Bool := []
  /-- the instruction in hand could not go on (log 12) -/
  stalled : Bool := false
  deriving DecidableEq, Repr

/-- Why the machine stops. -/
inductive Fault where
  /-- The module has no power after a thermal shutdown (26 R414). Raised by step. Safe: nothing runs. -/
  | poweredOff
  deriving DecidableEq, Repr

/-- Why an instruction has no meaning. -/
inductive Refusal where
  /-- The instruction has no meaning yet. Raised by exec. Safe. -/
  | notModelled (mnemonic : String)
  deriving DecidableEq, Repr

/-- The module right after reset. -/
def State.reset : State := {}

end Sys2Proof.Machine
end

