-- ==== Sys2Proof/Machine/Ops.lean ====
section
/-! DEFINITION. The operations that meanings share: slots, registers, memory, translation, traps, retirement. -/

namespace Sys2Proof.Machine

/-- What a meaning answers. -/
abbrev Out := Host.Outcome State Fault Refusal

/-! ### Slots -/

/-- The number under which a slot is listed. -/
def slotNo (i : SlotId) : Nat := 5 * i.core.toNat + i.slot

/-- The record of a slot. -/
def getSlot (s : State) (i : SlotId) : Slot := if i = s.cur then s.slot else sget {} s.others (slotNo i)

/-- The state with another record for a slot. -/
def setSlot (s : State) (i : SlotId) (l : Slot) : State :=
  if i = s.cur then { s with slot := l } else { s with others := sset {} s.others (slotNo i) l }

/-- The state with slot `i` in hand. -/
def focus (s : State) (i : SlotId) : State :=
  if i = s.cur then s
  else { s with cur := i, slot := getSlot s i
                others := sset {} (sset {} s.others (slotNo i) {}) (slotNo s.cur) s.slot }

/-- The slot in hand changed by `f`. -/
def onSlot (s : State) (f : Slot → Slot) : State := { s with slot := f s.slot }

/-- A slot changed by `f`. -/
def modSlot (s : State) (i : SlotId) (f : Slot → Slot) : State := setSlot s i (f (getSlot s i))

def coreOf (s : State) (c : CoreId) : Core := sget {} s.cores c.toNat

def setCore (s : State) (c : CoreId) (k : Core) : State := { s with cores := sset {} s.cores c.toNat k }

def modCore (s : State) (c : CoreId) (f : Core → Core) : State := setCore s c (f (coreOf s c))

def dieAt (s : State) (d : Nat) : Die := sget {} s.dies d

def modDie (s : State) (d : Nat) (f : Die → Die) : State := { s with dies := sset {} s.dies d (f (dieAt s d)) }

/-- Cycles of the core clock that a die has counted: its clock is `clock` sixteenths of 2.7 GHz (26 R414; log 4). -/
def dieCycles (s : State) (d : Nat) : Nat :=
  let x := dieAt s d
  if s.now < x.since then x.cycles - 1 else x.cycles + (s.now - x.since) * x.clock / (16 * Config.cycle)

/-- When the next cycle of a die begins (06 R121; log 4). -/
def nextCycle (s : State) (d : Nat) : Nat :=
  let x := dieAt s d
  let c := max 1 x.clock
  if s.now < x.since then x.since else x.since + ((dieCycles s d + 1 - x.cycles) * (16 * Config.cycle) + c - 1) / c

/-- One more stray on a die (06 R128; 26 R405). -/
def stray (s : State) (d : Nat) : State := modDie s d fun x => { x with stray := x.stray + 1 }

/-- The capsule of number `n`. -/
def capAt (s : State) (n : Nat) : Option Capsule := sfind s.hub.capsules n

/-- A capsule changed by `f`. -/
def modCap (s : State) (n : Nat) (f : Capsule → Capsule) : State :=
  match capAt s n with
  | some c => { s with hub := { s.hub with capsules := sput s.hub.capsules n (f c) } }
  | none => s

def worldAt (s : State) (n : Nat) : Option World := sfind s.hub.worlds n

def modWorld (s : State) (n : Nat) (f : World → World) : State :=
  match worldAt s n with
  | some w => { s with hub := { s.hub with worlds := sput s.hub.worlds n (f w) } }
  | none => s

/-- The capsule of the slot in hand. -/
def capOf (s : State) : Option Capsule := s.slot.capsule.bind (capAt s)

/-- The next number from the counter of fresh numbers. -/
def bump (s : State) : State := { s with fresh := s.fresh + 1 }

/-! ### Registers (01 R11, R12, R15) -/

/-- Where an x register is kept: x1 to x7 under their number, location L of the window stack under L + 8. -/
def xKey (l : Slot) (n : BitVec 5) : Nat := if n.toNat < 8 then n.toNat else n.toNat + l.wbase

/-- X(n) (04 R71). -/
def xval (l : Slot) (n : BitVec 5) : Word := if n = 0 then 0 else sget 0 l.x (xKey l n)

def fval (l : Slot) (n : BitVec 5) : Word := sget 0 l.f n.toNat

def vval (l : Slot) (n : BitVec 5) : Vec := sget 0 l.v n.toNat

/-- m0 is wired to all ones. -/
def mval (l : Slot) (n : BitVec 3) : Word := if n = 0 then BitVec.allOnes 64 else sget 0 l.m n.toNat

/-- The bit of the live-in mask that covers the x register or location kept under `k` (20 Table 20-1). -/
def xGroup (r : Region) (k : Nat) : Option Nat :=
  if k < 8 then some 0
  else if r.w + 8 ≤ k ∧ k < r.w + 32 then some (1 + (k - 8 - r.w) / 8) else none

/-- The first write to a register of a masked group keeps its old value and mark (20 R315). -/
def saveX (l : Slot) (k : Nat) : Slot :=
  match xGroup l.region k with
  | some g =>
    if l.region.mask.getLsbD g && (sfind l.region.saved.x k).isNone then
      { l with region := { l.region with saved := { l.region.saved with
          x := sput l.region.saved.x k (sget 0 l.x k, sfind l.xPoison k) } } }
    else l
  | none => l

def saveF (l : Slot) (n : Nat) : Slot :=
  if l.region.mask.getLsbD (4 + n / 16) && (sfind l.region.saved.f n).isNone then
    { l with region := { l.region with saved := { l.region.saved with f := sput l.region.saved.f n (sget 0 l.f n) } } }
  else l

def saveM (l : Slot) (n : Nat) : Slot :=
  if l.region.mask.getLsbD 6 && (sfind l.region.saved.m n).isNone then
    { l with region := { l.region with saved := { l.region.saved with m := sput l.region.saved.m n (sget 0 l.m n) } } }
  else l

def saveV (l : Slot) (n : Nat) : Slot :=
  if l.region.mask.getLsbD (7 + n / 8) && (sfind l.region.saved.v n).isNone then
    { l with region := { l.region with saved := { l.region.saved with v := sput l.region.saved.v n (sget 0 l.v n) } } }
  else l

/-- Data that returns later no longer lands in the register kept under `k`: it has been written since. Where an earlier region issued
the access and the open one has saved the register, the data is its saved value (10 R219; 20 R317). -/
def supersede (l : Slot) (k : Nat) : List Pending :=
  let input : Pending → Bool := fun p => p.region != l.regionNo && (sfind l.region.saved.x k).isSome
  l.pending.map fun p => { p with dst := if p.dst = some k then none else p.dst
                                  dst2 := if p.dst2 = some k then none else p.dst2
                                  old := if p.dst = some k ∧ input p = true then some k else p.old
                                  old2 := if p.dst2 = some k ∧ input p = true then some k else p.old2 }

/-- The register kept under `k` takes a value and a poison mark (10 R209: a write clears the mark). -/
def putX (l : Slot) (k : Nat) (v : Word) (mark : Option Word) : Slot :=
  let l := saveX l k
  { l with x := sset 0 l.x k v
           xPoison := match mark with | some ea => sput l.xPoison k ea | none => serase l.xPoison k
           pending := supersede l k }

/-- xn := v; a write to x0 is discarded (01 R11). -/
def setX (l : Slot) (n : BitVec 5) (v : Word) : Slot := if n = 0 then l else putX l (xKey l n) v none

def setF (l : Slot) (n : BitVec 5) (v : Word) : Slot :=
  let l := saveF l n.toNat
  { l with f := sset 0 l.f n.toNat v }

def setV (l : Slot) (n : BitVec 5) (v : Vec) : Slot :=
  let l := saveV l n.toNat
  { l with v := sset 0 l.v n.toNat v }

/-- A write to m0 is discarded (01 R11). -/
def setM (l : Slot) (n : BitVec 3) (v : Word) : Slot :=
  if n = 0 then l
  else
    let l := saveM l n.toNat
    { l with m := sset 0 l.m n.toNat v }

/-! ### Spans: sets of numbers as disjoint intervals -/

/-- The set with the numbers lo to hi - 1 added. -/
def spanAdd : List (Nat × Nat) → Nat → Nat → List (Nat × Nat)
  | [], lo, hi => if lo < hi then [(lo, hi)] else []
  | (a, b) :: t, lo, hi =>
    if hi < a then (if lo < hi then (lo, hi) :: (a, b) :: t else (a, b) :: t)
    else if b < lo then (a, b) :: spanAdd t lo hi
    else spanAdd t (min a lo) (max b hi)

/-- `n` is in the set. -/
def spanHas (m : List (Nat × Nat)) (n : Nat) : Bool := m.any fun p => p.1 ≤ n && n < p.2

/-- How many numbers are in the set. -/
def spanSize (m : List (Nat × Nat)) : Nat := m.foldl (fun k p => k + (p.2 - p.1)) 0

/-- Two ranges of bytes share a byte. -/
def overlaps (a n b m : Nat) : Bool := a < b + m && b < a + n

/-! ### Memory -/

/-- Where a byte of class 0 to 3 is kept. -/
def memKey (cls addr : Nat) : Nat := cls * 2 ^ 60 + addr % 2 ^ 60

/-- Where a byte of a pool is kept. -/
def poolKey (c : CoreId) (off : Nat) : Nat := 8 * 2 ^ 60 + c.toNat * 2 ^ 19 + off % 2 ^ 19

/-- No cipher stands before a pool (25 R389). -/
def plainAt (k : Nat) : Bool := 8 * 2 ^ 60 ≤ k

/-- What a byte that nothing has written reads as (09 R416 leaves it open; log 2). -/
def unwritten : Byte := 0

/-- The byte as it was written. -/
def Memory.raw (m : Memory) (k : Nat) : Byte := sget unwritten m.cells k

/-- `n` bytes as they were written. -/
def Memory.raws (m : Memory) : Nat → Nat → List Byte
  | 0, _ => []
  | n + 1, k => m.raw k :: Memory.raws m n (k + 1)

/-- The key under which the granule of `k` is held (25 R389). -/
def Memory.keyAt (m : Memory) (k : Nat) : KeyId := sget .clear m.keys (k / 64)

/-- A byte read under a key (25 R389). -/
def Memory.byte (m : Memory) (k : Nat) (key : KeyId) : Byte :=
  if plainAt k || m.keyAt k = key then m.raw k
  else (crossBlock (m.keyAt k) key (k / 64) (k % 64 / 16) (m.raws 16 (k / 16 * 16))).getD (k % 16) 0

/-- `n` bytes read under a key. -/
def Memory.read (m : Memory) (key : KeyId) : Nat → Nat → List Byte
  | 0, _ => []
  | n + 1, k => m.byte k key :: Memory.read m key n (k + 1)

/-- A granule that is held under another key, read under `key` (25 R389). -/
def Memory.rekeyed (m : Memory) (g : Nat) (key : KeyId) : List Byte :=
  (List.range 4).flatMap fun j => crossBlock (m.keyAt (64 * g)) key g j (m.raws 16 (64 * g + 16 * j))

/-- The granule of `k` is marked poisoned (10 R209). -/
def Memory.poisoned (m : Memory) (k : Nat) : Bool := sget false m.poison (k / 64)

/-- Some byte of the range lies in a poisoned granule. -/
def Memory.anyPoison (m : Memory) (k n : Nat) : Bool :=
  n != 0 && (List.range ((k + n - 1) / 64 - k / 64 + 1)).any fun i => sget false m.poison (k / 64 + i)

/-- Bytes put at `k` onwards. -/
def putBytes : SMap Byte → Nat → List Byte → SMap Byte
  | c, _, [] => c
  | c, k, b :: t => putBytes (sset unwritten c k b) (k + 1) t

/-- The key under which watched code is fetched at `k`: that of its granule, for host memory (25 R389). -/
def watchKey (w : Nat × Nat × Nat × KeyId) (k : Nat) : KeyId :=
  match w.2.2.2 with
  | .hosted a b g => .hosted a b (g + (k - w.2.1) / 64)
  | key => key

/-- Values of parcels of running code that a write of `n` bytes at `k` takes away, as each capsule whose code it is fetches them (01 R419). A
write under another key changes all of each cipher block of 16 bytes that it meets (25 R389). -/
def Memory.notePast (m : Memory) (k n : Nat) : SMap (List (Nat × KeyId × BitVec 16)) :=
  let lo := k / 16 * 16
  let hi := ((k + n - 1) / 16 + 1) * 16
  let ws := m.watch.filter fun w => overlaps lo (hi - lo) w.2.1 w.2.2.1
  if ws.isEmpty then m.past
  else
    (List.range ((hi - lo) / 2)).foldl (fun p i =>
      let q := lo / 2 + i
      let seen := (ws.filter fun w => overlaps (2 * q) 2 w.2.1 w.2.2.1).map fun w =>
        (w.1, watchKey w (2 * q), BitVec.ofNat 16 (leNat (m.read (watchKey w (2 * q)) 2 (2 * q))))
      sset [] p q (seen ++ sget [] p q)) m.past

/-- A write of bytes of one granule (10 R209): at a slice or at the hub a part of a poisoned granule is dropped; in a
pool it is performed and the mark stays; a whole granule loses its mark. Poisoned data marks the granule. -/
def Memory.writeOne (m : Memory) (k : Nat) (data : List Byte) (key : KeyId) (poison : Bool) : Memory :=
  let g := k / 64
  let whole := data.length == 64
  let bad := sget false m.poison g
  let pool := decide (8 * 2 ^ 60 ≤ k)
  if bad && !whole && !pool then m
  else
    let base := if whole || plainAt k || m.keyAt k = key then m.cells
                else putBytes m.cells (64 * g) (m.rekeyed g key)
    { m with
      cells := putBytes base k data
      poison := sset false m.poison g (poison || (bad && !whole))
      keys := if plainAt k then m.keys else sset .clear m.keys g key
      past := m.notePast k data.length }

/-- A write, granule by granule; `fuel` bounds the number of granules. -/
def Memory.writeGo : Nat → Memory → Nat → List Byte → KeyId → Bool → Memory
  | 0, m, _, _, _, _ => m
  | fuel + 1, m, k, data, key, poison =>
    if data.isEmpty then m
    else
      let c := 64 - k % 64
      Memory.writeGo fuel (m.writeOne k (data.take c) key poison) (k + c) (data.drop c) key poison

/-- A write of any size (10 R209: each granule is judged on its own). -/
def Memory.write (m : Memory) (k : Nat) (data : List Byte) (key : KeyId) (poison : Bool) : Memory :=
  Memory.writeGo (data.length / 64 + 2) m k data key poison

/-- Bytes at given keys of a pool, one by one; the mark of each granule stays. -/
def Memory.pokes (m : Memory) : List (Nat × Byte) → Memory
  | [] => m
  | (k, b) :: t => Memory.pokes { m with cells := sset unwritten m.cells k b } t

/-- The granule of `k` loses its mark. -/
def Memory.clearPoison (m : Memory) (k : Nat) : Memory := { m with poison := serase m.poison (k / 64) }

/-- The canonical form of memory. -/
abbrev Memory.wf (m : Memory) : Prop :=
  swf unwritten m.cells = true ∧ swf false m.poison = true ∧ swf KeyId.clear m.keys = true ∧ swf [] m.past = true

/-! ### Traps (01 R24, R25) -/

/-- Trap causes (01 Table 1-5). -/
inductive Cause where
  | illegal | brk | trapi | misalign | extent | rights | peer | regidx | window | range | copyfault | holdfull | gang
  | engine | group | ats | poison | loop | special
  deriving DecidableEq, Repr

/-- The code of a cause (01 Table 1-5). -/
def causeCode : Cause → Nat
  | .illegal => 0x01 | .brk => 0x02 | .trapi => 0x03 | .misalign => 0x04 | .extent => 0x05 | .rights => 0x06
  | .peer => 0x07 | .regidx => 0x08 | .window => 0x09 | .range => 0x0A | .copyfault => 0x0B | .holdfull => 0x0C
  | .gang => 0x0D | .engine => 0x0E | .group => 0x0F | .ats => 0x10 | .poison => 0x11 | .loop => 0x12 | .special => 0x13

/-- tr.cause.ACTIVE. -/
def trapActive (l : Slot) : Bool := l.trCause.getLsbD 31

/-- The window address at which traps are handled, if the capsule names one. -/
def trapEntryOf (s : State) : Option Word :=
  match capOf s with
  | some c => if c.info.trapEntry = 0xFFFFFFFF then none else some (c.info.code + BitVec.ofNat 64 c.info.trapEntry)
  | none => none

/-- Registers of a discarded region take their saved values and marks (20 R316). -/
def restoreRegion (l : Slot) : Slot :=
  let r := l.region
  let keepX : SMap Word := if r.first then l.x.filter fun p => (xGroup r p.1).elim false fun g => r.mask.getLsbD g else l.x
  let keepP := if r.first then l.xPoison.filter fun p => (xGroup r p.1).elim false fun g => r.mask.getLsbD g else l.xPoison
  let keepF := if r.first then l.f.filter fun p => r.mask.getLsbD (4 + p.1 / 16) else l.f
  let keepV := if r.first then l.v.filter fun p => r.mask.getLsbD (7 + p.1 / 8) else l.v
  let keepM := if r.first then l.m.filter fun _ => r.mask.getLsbD 6 else l.m
  { l with
    x := r.saved.x.foldl (fun m p => sset 0 m p.1 p.2.1) keepX
    xPoison := r.saved.x.foldl (fun m p => match p.2.2 with | some ea => sput m p.1 ea | none => serase m p.1) keepP
    f := r.saved.f.foldl (fun m p => sset 0 m p.1 p.2) keepF
    v := r.saved.v.foldl (fun m p => sset 0 m p.1 p.2) keepV
    m := r.saved.m.foldl (fun m p => sset 0 m p.1 p.2) keepM
    pc := r.entry
    wbase := r.w
    calls := l.calls.drop (l.calls.length - r.calls)
    outer := r.outer
    inner := r.inner
    draws := r.counter
    group := r.group
    trCause := r.trCause
    trPc := r.trPc
    trValue := r.trValue
    region := { r with saved := {} }
    half := none
    pending := l.pending.map fun p =>
      if p.region = l.regionNo then { p with dst := none, dst2 := none }
      else { p with dst := p.old.or p.dst, dst2 := p.old2.or p.dst2, old := none, old2 := none } }

/-- An entry goes into the event queue, or its loss is noted; the latch is set in either case (06 R131, R133). -/
def pushEvent (l : Slot) (e : EvEntry) : Slot :=
  if l.evq.length < 8 then { l with evq := l.evq ++ [e], latchBit := true } else { l with evLost := true, latchBit := true }

/-- Channel `ch` of a slot loses `n` posted bytes of a cancelled copy (20 R324); a change to COMPLETE is posted (18 R296). -/
def chanCancel (l : Slot) (ch n : Nat) : Slot :=
  let c := sget {} l.chans ch
  let e := c.expected - n
  let full := c.state = .active ∧ c.arrived = e
  let l := { l with chans := sset {} l.chans ch { c with expected := e, state := if full then .complete else c.state } }
  if full ∧ c.ev = true then pushEvent l ⟨0, c.arrived, ch⟩ else l

/-- The copies whose posting the hold area drops, with their posted bytes. -/
def droppedCopies (h : List Held) : List (Nat × Nat) :=
  h.filterMap fun e => match e with | .posting _ c n => some (c, n) | _ => none

/-- `abort` without the region that opens after it (20 R324). -/
def dropHeld (s : State) : State :=
  let gone := droppedCopies s.slot.hold
  let k := coreOf s s.cur.core
  let cancel : Slot → Nat × Nat → Slot := fun l g =>
    match (k.copies ++ l.cpQueue).find? fun c => c.id == g.1 with
    | some c => chanCancel l c.ch g.2
    | none => l
  let live : Copy → Bool := fun c => gone.all fun g => g.1 != c.id
  let s := onSlot s fun l =>
    let l := gone.foldl cancel l
    { l with hold := [], closing := false, cpQueue := l.cpQueue.filter live }
  if gone.isEmpty then s else modCore s s.cur.core fun k => { k with copies := k.copies.filter live }

/-- A capsule takes note of a fault (20 R326, R327); CAPSULE_FAULT handles it. -/
def noteFault (s : State) (cap : Option Nat) (f : FaultRec) : State :=
  cap.elim s fun n => modCap s n fun c => { c with faults := c.faults ++ [f] }

/-- The slot waits at `gang` (06 R123). -/
def atAnyGang (l : Slot) : Bool :=
  match l.run with
  | .atGang _ => true
  | _ => false

/-- The slots that stall at `gang n` with the slot in hand among their intended members (06 R123). -/
def gangWaiters (s : State) : List SlotId :=
  (List.range 16).filterMap fun i =>
    let c : CoreId := BitVec.ofNat 11 (s.cur.core.toNat / 16 * 16 + i)
    let id : SlotId := ⟨c, s.cur.slot⟩
    if id = s.cur then none
    else
      match (getSlot s id).run with
      | .atGang n => if c.toNat / n = s.cur.core.toNat / n ∧ (getSlot s id).capsule = s.slot.capsule then some id else none
      | _ => none

/-- What an overflow activation leaves behind in its slot: stores that are not performed yet, and accesses whose data lands nowhere
(04 R94; 11 R225). -/
def leftOver (l : Slot) : Slot :=
  { storeBuf := l.storeBuf, departDie := l.departDie, departDev := l.departDev, outHost := l.outHost, outCxl := l.outCxl
    pending := l.pending.map fun p => { p with dst := none, dst2 := none, old := none, old2 := none } }

/-- The overflow activation in hand ends; the slot is free for the next (06 R130). -/
def endActivation (s : State) : State := onSlot s leftOver

/-- Subscriptions of a slot send nothing more (18 R306). -/
def closeSubs (l : Slot) : Slot :=
  { l with chans := l.chans.map fun p => (p.1, { p.2 with sub := p.2.sub.map fun u => { u with closing := true } }) }

/-- Messages staged for a tile task of a core, by slot and number, are dropped as strays (06 R128, R130). -/
def dropStaged (s : State) (c : CoreId) (t : Nat × Nat) : State :=
  let mine : Staged → Bool := fun m => (m.slot, m.task) == t
  let gone := ((coreOf s c).staged.filter mine).length
  let s := modCore s c fun k => { k with staged := k.staged.filter fun m => !mine m }
  modDie s (dieOf c) fun d => { d with stray := d.stray + BitVec.ofNat 64 gone }

/-- The activation in hand ends in a fault of the target's capsule (06 R130; 20 Table 20-6). -/
def failActivation (s : State) (code : BitVec 16) : State :=
  let s := dropHeld s
  let s := noteFault s s.slot.capsule ⟨code, 0xFFFFFFFF, s.slot.trPc, s.slot.trValue⟩
  endActivation (dropStaged s s.cur.core (s.slot.serves.getD (0, 0)))

/-- EndTileTask(FAULT) of the slot in hand (01 R24; 20 R327): its held writes are dropped, its region's inputs restored; its
subscriptions send nothing more (18 R306). -/
def endFault (s : State) (code : BitVec 16) : State :=
  let s := noteFault s s.slot.capsule ⟨code, s.slot.linear, s.slot.trPc, s.slot.trValue⟩
  onSlot (dropHeld s) fun l => { closeSubs (restoreRegion l) with run := .faulted, gangPos := 0, gangSize := 1 }

/-- TakeTrap for the slot in hand, without the slots that wait for it at `gang` (01 R24). -/
def takeTrapHere (c : Cause) (value : Word) (s : State) : State :=
  if s.cur.slot = 4 then
    failActivation (onSlot s fun l => { l with trPc := l.pc, trValue := value }) (BitVec.ofNat 16 (0x8300 + causeCode c))
  else if trapActive s.slot then endFault s (BitVec.ofNat 16 (0x8100 + causeCode c))
  else
    let dissolved : Nat := if s.slot.gangSize = 1 then 0 else 1
    let s := onSlot s fun l =>
      { l with trCause := BitVec.ofNat 64 (2 ^ 31 + dissolved * 2 ^ 8 + causeCode c), trPc := l.pc, trValue := value
               gangPos := 0, gangSize := 1, condMet := none, wantRel := none, half := none, closing := false, run := .running }
    match trapEntryOf s with
    | none => endFault s (BitVec.ofNat 16 (0x8000 + causeCode c))
    | some pc => onSlot s fun l => { l with pc := pc }

/-- The slots that wait at `gang` for slot `me` trap GANG with value 4, and with each those that wait for it in turn (06 R123; 07 Table 7-10).
A block has eight cores, so that eight rounds reach all. -/
def failFrom : Nat → SlotId → State → State
  | 0, _, s => s
  | k + 1, me, s =>
    (gangWaiters (focus s me)).foldl (fun t i =>
      if atAnyGang (getSlot t i) then failFrom k i (takeTrapHere .gang 4 (focus t i)) else t) s

/-- The slots that wait at `gang` for the slot in hand fail (06 R123). -/
def failWaiters (s : State) : State := focus (failFrom 8 s.cur s) s.cur

/-- TakeTrap(code, value, pc) of 01 R24 for the slot in hand. -/
def takeTrap (c : Cause) (value : Word) (s : State) : State :=
  if s.cur.slot = 4 then takeTrapHere c value s else takeTrapHere c value (failWaiters s)

/-- The instruction traps. -/
def trap (c : Cause) (value : Word) (s : State) : Out := .next (takeTrap c value s)

/-- Return from a handler (04 R108): ACTIVE is cleared and the slot goes on at tr.pc. -/
def leaveTrap (l : Slot) : Slot := { l with trCause := l.trCause &&& ~~~(0x80000000 : Word), pc := l.trPc }

/-- The instruction cannot go on yet: nothing changes but this mark, and the slot tries it again (log 12). -/
def stall (s : State) : Out := .next { s with stalled := true }

/-! ### Retirement (04 R87, R88) -/

/-- What one loop does to a next pc: the loop afterwards, the next pc, and whether outer loops are left out. -/
def loopStep (l : Loop) (at0 n : Word) (jump : Bool) : Option Loop × Word × Bool :=
  if jump && (l.start ≤ at0 && at0 < l.stop) && !(l.start ≤ n && n < l.stop) then (none, n, false)
  else if n = l.stop ∧ jump = false then
    if l.cnt ≤ 1 then (none, n, false) else (some { l with cnt := l.cnt - 1 }, l.start, true)
  else (some l, n, false)

/-- The loops, and the next pc of an instruction at the slot's pc that goes on at `n`; `jump`: a taken b.cond, j or jr. -/
def loopNext (l : Slot) (n : Word) (jump : Bool) : Option Loop × Option Loop × Word :=
  match l.outer, l.inner with
  | none, _ => (none, none, n)
  | some o, none =>
    let (o', n', _) := loopStep o l.pc n jump
    (o', none, n')
  | some o, some i =>
    let (i', n', stop) := loopStep i l.pc n jump
    if stop then (some o, i', n')
    else
      let (o', n'', _) := loopStep o l.pc n' jump
      match o' with
      | none => (i', none, n'')
      | some o => (some o, i', n'')

/-- The instruction retires and control goes to `n` (04 R87). -/
def retireTo (n : Word) (jump : Bool) (s : State) : State :=
  onSlot s fun l =>
    let (o, i, n') := loopNext l n jump
    { l with outer := o, inner := i, pc := n', retired := l.retired + 1, condMet := none, wantRel := none
             half := none, closing := false }

/-- The instruction of `len` bytes retires and control goes on behind it. -/
def retire (len : Word) (s : State) : State := retireTo (s.slot.pc + len) false s

/-- The instruction of `len` bytes has done what `s` holds. -/
def done (len : Word) (s : State) : Out := .next (retire len s)

/-! ### Regions (20 R314 to R317) -/

/-- A region opens at the slot's pc (20 R314, R316). -/
def openRegion (mask : BitVec 11) (first : Bool) (l : Slot) : Slot :=
  { l with region := { entry := l.pc, mask := mask, first := first, w := l.wbase, calls := l.calls.length, counter := l.draws
                       outer := l.outer, inner := l.inner, group := l.group, trCause := l.trCause, trPc := l.trPc
                       trValue := l.trValue }
           regionNo := l.regionNo + 1, shadow := l.chans
           pending := l.pending.map fun p => { p with old := none, old2 := none } }

/-- A region opens at the next instruction with the mask of the one that closed (20 R317). -/
def reopen (s : State) : State := onSlot s fun l => openRegion l.region.mask false l

/-- The code verdict of the slot's capsule is still out (08 R170). -/
def verdictPending (s : State) : Bool := (capOf s).elim false fun c => c.verdict

/-- The open region is closed: what follows, until the instruction in hand has retired, runs again from this instruction on
(20 R317, R323). -/
def closeRegion (l : Slot) : Slot :=
  if l.closing then l else { openRegion l.region.mask false l with closing := true }

/-- The slot's instruction has closed a region whose held writes are leaving (20 R319, R323): that region is not open any more. -/
def draining (l : Slot) : Bool := l.closing && !l.hold.isEmpty

/-- The open region closes as at `commit`, and then `k` (20 R323): the instruction waits until the hold area is empty. -/
def closeThen (s : State) (k : State → Out) : Out :=
  if verdictPending s then stall s
  else
    let s := onSlot s closeRegion
    if s.slot.hold.isEmpty then k s else stall s

/-- The instruction retires and a region opens behind it (20 R317). -/
def doneBoundary (len : Word) (s : State) : Out := .next (reopen (retire len s))

/-! ### Reading x registers -/

/-- Data on its way to the register kept under `k`. -/
def awaited (l : Slot) (k : Nat) : Bool := l.pending.any fun p => p.dst == some k || p.dst2 == some k

/-- The value of xn for the instruction in hand: it waits for data on its way, and traps POISON at a marked register
(10 R209; log 10). -/
def withX (n : BitVec 5) (s : State) (k : Word → Out) : Out :=
  if n = 0 then k 0
  else if awaited s.slot (xKey s.slot n) then stall s
  else
    match sfind s.slot.xPoison (xKey s.slot n) with
    | some ea => trap .poison ea s
    | none => k (sget 0 s.slot.x (xKey s.slot n))

/-- All x registers that the instruction reads have their data: no source is looked at before (04 R110; 06 R121). -/
def withReady (ns : List (BitVec 5)) (s : State) (k : Out) : Out :=
  if ns.any fun n => n != 0 && awaited s.slot (xKey s.slot n) then stall s else k

/-- The leader of the gang as the instruction in hand issued, or the slot itself. -/
def leader (s : State) : Slot :=
  match s.latch with
  | (_, l) :: _ => l
  | [] => s.slot

/-- The sources that decide control have their data: the leader's. Whether a gang also waits while a follower's own copy of such a register is in
flight is left open by 06 R122 (ready in its own slot) and R124 (values are ignored): it does not (DESIGN CHOICE, log 61). -/
def withLeaderReady (ns : List (BitVec 5)) (s : State) (k : Out) : Out := if s.slot.gangPos = 0 then withReady ns s k else k

/-- A value that decides control: the leader's (06 R124). Where the leader's register is marked poisoned, the leader traps and its followers
take the value: 07 R138 does not say (DESIGN CHOICE, log 61). -/
def withLeaderX (n : BitVec 5) (s : State) (k : Word → Out) : Out :=
  if s.slot.gangPos = 0 then withX n s k else k (xval (leader s) n)

/-! ### Waiting capsules, and charges for bound slots (06 R119; 08 R183) -/

/-- Tile tasks of a capsule. -/
def taskCount (r : Record) : Nat := r.tiles.1 * r.tiles.2.1 * r.tiles.2.2

/-- Placement groups of a capsule (06 R119). -/
def groupCount (r : Record) : Nat := taskCount r / r.gang

/-- The capsule waits in the dispatch queue (08 R183): it has groups to place, for the first time or again. -/
def waits (c : Capsule) : Bool :=
  (c.status == .queued || c.status == .running) && (decide (c.next < groupCount c.info) || !c.resume.isEmpty)

/-- Microseconds that a slot has been bound and that its ring has not been charged for. -/
def uncharged (s : State) (l : Slot) : Nat := (s.now - l.boundAt) / (1000 * Config.nanosecond) - l.charged

def deficitOf (s : State) (ring : Nat) : Int := sget 0 s.hub.deficits ring

/-- The rings that have waiting capsules. -/
def waitingRings (s : State) : List Nat := ((s.hub.capsules.filter fun p => waits p.2).map fun p => p.2.source).dedup

/-- A ring without waiting capsules has its deficit reset to 0. -/
def settleDeficits (s : State) : State :=
  let rs := waitingRings s
  { s with hub := { s.hub with deficits := s.hub.deficits.filter fun p => rs.contains p.1 } }

/-- One slot's ring is charged. -/
def chargeSlot (s : State) (i : SlotId) : State :=
  let l := getSlot s i
  match l.capsule.bind (capAt s) with
  | none => s
  | some c =>
    let n := uncharged s l
    let s := modSlot s i fun l => { l with charged := l.charged + n }
    { s with hub := { s.hub with deficits := sset 0 s.hub.deficits c.source (deficitOf s c.source - n) } }

end Sys2Proof.Machine
end

