-- ==== Sys2Proof/Machine/Operands.lean ====
section
/-! DEFINITION. Operand forms: addresses, their translation, the checks of local and global accesses, forwarding from a
slot's own buffers (04 R90 to R94; 09 R188 to R203; 10 R208 to R212; 11 R223, R224). -/

namespace Sys2Proof.Machine

/-! ### Partitions and the pool (09 R189 to R194) -/

def partRegs (l : Slot) : Nat := bits l.part.toNat 0 8
def partScratch (l : Slot) : Nat := bits l.part.toNat 8 8
def partAcc (l : Slot) : Nat := bits l.part.toNat 16 8
def partHold (l : Slot) : Nat := bits l.part.toNat 24 8

/-- Pool offset of the first byte of a slot's scratchpad (09 R190). -/
def scratchBase (l : Slot) : Nat := l.partBase + 4096 * partRegs l

/-- Bytes of a slot's scratchpad. -/
def scratchSize (l : Slot) : Nat := 4096 * partScratch l

/-- Tiles that exist (01 R13; 09 R193). -/
def tileCount (l : Slot) : Nat := 4 * partAcc l

/-- The slot is bound to a tile task of capsule `cap` that has not exited (06 R120). -/
def boundTo (l : Slot) (cap : Nat) : Bool :=
  l.capsule == some cap && l.run != .unbound && l.run != .exited

/-- The task slot of a core whose scratchpad holds `n` bytes at `off`, among the slots of capsule `cap` (04 R91). -/
def scratchHolder (s : State) (c : CoreId) (cap off n : Nat) : Option Nat :=
  (List.range 4).find? fun j =>
    let l := getSlot s ⟨c, j⟩
    boundTo l cap && scratchBase l ≤ off && off + n ≤ scratchBase l + scratchSize l

/-- A tile task that has exited leaves its scratchpad to the copies it issued, which run to completion before its slot is given away
(04 R109; 18 R306; log 75). -/
def leftScratch (s : State) (i : SlotId) (c : CoreId) (off n : Nat) : Bool :=
  let l := getSlot s i
  c == i.core && decide (i.slot < 4) && l.capsule.isSome && l.run == .exited && scratchBase l ≤ off && off + n ≤ scratchBase l + scratchSize l

/-! ### Addresses (09 R195, R196) -/

/-- Bits [63:62] of a program address. -/
def spaceOf (a : Word) : Nat := bits a.toNat 62 2

/-- The core that a space-01 or space-10 address names; all ones without ABS is the issuer (09 R196). -/
def namedCore (a : Word) (self : CoreId) : CoreId :=
  if bits a.toNat 35 11 = 2047 ∧ a.getLsbD 34 = false then self else BitVec.ofNat 11 (bits a.toNat 35 11)

/-- The reserved bits of a space-01 address are 0 (09 Table 9-2). -/
def sramFieldsOk (a : Word) : Bool := bits a.toNat 46 16 == 0 && bits a.toNat 19 15 == 0

/-- The space-01 address of a slot's scratchpad, all core fields ones (01 R20). -/
def argAddress (l : Slot) : Word := BitVec.ofNat 64 (0x40003FF800000000 + scratchBase l)

/-- The pool offset that a local access reaches, if it meets 04 R91. -/
def localOff (s : State) (a : Word) (n : Nat) : Option Nat :=
  let off := bits a.toNat 0 19
  if spaceOf a = 1 ∧ sramFieldsOk a = true ∧ namedCore a s.cur.core = s.cur.core then
    match s.slot.capsule with
    | some cap => (scratchHolder s s.cur.core cap off n).map fun _ => off
    | none => none
  else none

/-! ### Extents (09 R198, R199) -/

/-- Kinds of access (09 Table 9-5). -/
inductive Kind where
  | fetch | load | store | atomic
  deriving DecidableEq, Repr

/-- The rights that a kind of access needs (09 Table 9-5; 08 Table 8-4). -/
def rightsFor : Kind → BitVec 8 → Bool
  | .fetch, r => r.getLsbD 2
  | .load, r => r.getLsbD 0
  | .store, r => r.getLsbD 1
  | .atomic, r => r.getLsbD 0 && r.getLsbD 1 && r.getLsbD 3

/-- The range table through which the slot in hand translates (09 R198). -/
def rangesOf (s : State) : List RangeEntry :=
  match s.slot.capsule with
  | some cap => sget [] (coreOf s s.cur.core).ranges cap
  | none => []

/-- The entry that covers a window address, with its index. -/
def rangeAt (t : List RangeEntry) (a : Nat) : Option (Nat × RangeEntry) :=
  (t.zipIdx.find? fun p => p.1.base ≤ a && a < p.1.base + p.1.length).map fun p => (p.2, p.1)

/-- TranslateWindow (09 R198). -/
def translate (t : List RangeEntry) (a : Word) (n : Nat) (k : Kind) : Except (Cause × Word) Place :=
  match rangeAt t a.toNat with
  | none => .error (.extent, a)
  | some (_, e) =>
    if e.base + e.length < a.toNat + n then .error (.extent, a)
    else if rightsFor k e.rights then .ok (.mem e.cls (e.target + (a.toNat - e.base)) e.key)
    else .error (.rights, a)

/-! ### Performers (09 R200, R201; 11 R223) -/

/-- The groups of 32 GiB that are set aside for the device scratch pool, in increasing order (26 R406). -/
def poolGroups (s : State) : List Nat :=
  let present := (List.range 32).filter fun g => s.hub.physmap.testBit g
  present.drop (present.length - s.hub.spool)

/-- The die whose memory slice holds a class-0 or class-3 byte; 8 stands for the hub (09 R201; 26 R406). -/
def memDie (s : State) (cls addr : Nat) : Nat :=
  if cls = 0 then addr / 2 ^ 37 % 8
  else if cls = 3 then (poolGroups s)[addr / 2 ^ 35]?.getD 0 / 4
  else 8

/-- The die of a performer on this module; 9 stands for a peer device. -/
def placeDie (s : State) : Place → Nat
  | .mem cls addr _ => memDie s cls addr
  | .pool c _ => dieOf c
  | .peer _ => 9

/-- The first four bytes of the identity digest, as the roster holds them (21 Table 21-2). -/
def ownDigest : BitVec 32 := BitVec.ofNat 32 (leNat ((leBytes 32 identityDigest.toNat).reverse.take 4))

/-- This device's number in the roster (21 R339). -/
def ownDevice (s : State) : Option Nat :=
  (s.hub.roster.find? fun e => e.digest == ownDigest).map fun e => e.device

/-- The device is in the roster and enabled (09 R197). -/
def inRoster (s : State) (d : Nat) : Bool := s.hub.roster.any fun e => e.device == d && e.enabled

/-! ### Global accesses (10 R208) -/

/-- The world of the slot in hand is guarded with RATE 0: its threads reach no host memory (25 R399). -/
def egressShut (s : State) : Bool :=
  ((capOf s).bind fun c => worldAt s c.world).elim false fun w => w.guarded && w.rate == 0

/-- Step 1 of 10 Table 10-2: where `n` bytes at `a` are performed, or the trap. -/
def resolve (s : State) (a : Word) (n : Nat) (k : Kind) : Except (Cause × Word) Place :=
  match spaceOf a with
  | 0 =>
    match translate (rangesOf s) a n k with
    | .ok (.mem 2 b key) => if egressShut s then .error (.rights, a) else .ok (.mem 2 b key)
    | r => r
  | 1 =>
    let c := namedCore a s.cur.core
    let off := bits a.toNat 0 19
    match s.slot.capsule with
    | some cap =>
      if sramFieldsOk a = true ∧ (scratchHolder s c cap off n).isSome = true then .ok (.pool c off) else .error (.rights, a)
    | none => .error (.rights, a)
  | sp =>
    let dev := bits a.toNat 46 16
    if inRoster s dev = false then .error (.peer, BitVec.ofNat 64 dev)
    else if sp = 2 ∧ (a.getLsbD 34 = true ∨ bits a.toNat 19 15 ≠ 0) then .error (.rights, a)
    else .ok (.peer a)

/-- The pages that `n` bytes at an IOVA lie in (09 R203). -/
def pagesOf (a n : Nat) : List Nat := (List.range ((a + n - 1) / 4096 - a / 4096 + 1)).map fun i => a / 4096 + i

/-- How a host page stands in the translation cache for a kind of access. -/
inductive AtsView where
  | ready | missing | refused
  deriving DecidableEq, Repr

def atsPage (s : State) (k : Kind) (p : Nat) : AtsView :=
  if s.hub.run = false then .refused   -- TDISP outside RUN (25 R401)
  else match sfind s.hub.atc p with
  | none => .missing
  | some t =>
    match t.page with
    | none => .refused
    | some _ =>
      let ok := match k with
        | .store => t.canWrite
        | .atomic => t.canRead && t.canWrite
        | _ => t.canRead
      if ok then .ready else .refused

/-- Step 2 of 10 Table 10-2: the hub's translations of all pages of a class-2 access. -/
def atsView (s : State) (k : Kind) (a n : Nat) : AtsView :=
  let v := (pagesOf a n).map (atsPage s k)
  if v.contains .refused then .refused else if v.contains .missing then .missing else .ready

/-- A refusal is reported once: a later access requests the translation again (09 R203). -/
def dropRefused (s : State) (a n : Nat) : State :=
  let gone := (pagesOf a n).filter fun p => (sfind s.hub.atc p).elim false fun t => t.page.isNone
  { s with hub := { s.hub with atc := gone.foldl serase s.hub.atc, atcOrder := s.hub.atcOrder.filter fun p => !gone.contains p } }

/-- Step 2 of 10 Table 10-2, and then `k`. -/
def withAts (s : State) (p : Place) (n : Nat) (kind : Kind) (k : State → Out) : Out :=
  match p with
  | .mem 2 a _ =>
    match atsView s kind a n with
    | .ready => k s
    | .missing => stall s
    | .refused => trap .ats (BitVec.ofNat 64 a) (dropRefused s a n)
  | _ => k s

/-- The pages of a class-2 access are used now (09 R203: the least recently used is evicted first). -/
def touchPages (s : State) (a n : Nat) : State :=
  let ps := (pagesOf a n).filter fun p => (sfind s.hub.atc p).isSome
  { s with hub := { s.hub with atcOrder := (s.hub.atcOrder.filter fun p => !ps.contains p) ++ ps } }

/-- The same for an access of any class. -/
def touchPlace (s : State) (p : Place) (n : Nat) : State :=
  match p with
  | .mem 2 a _ => touchPages s a n
  | _ => s

/-- A CXL port that owns one of `n` class-1 bytes has failed: they read as poisoned (09 R202). -/
def expanderFailed (s : State) (addr n : Nat) : Bool :=
  (s.hub.cxl.foldl (fun (acc : Nat × Bool) p =>
    if p.2.on then
      let lo := acc.1
      let hi := lo + p.2.capacity * 2 ^ 30
      (hi, acc.2 || (p.2.failed && decide (lo < addr + n) && decide (addr < hi)))
    else acc) (0, false)).2

/-- The byte of host memory that an IOVA names, by the translation in the cache; none outside RUN (25 R401). -/
def hostByte (s : State) (a : Nat) : Option Nat :=
  match s.hub.run, sfind s.hub.atc (a / 4096) with
  | true, some ⟨some p, _, _⟩ => some (memKey 2 (p * 4096 + a % 4096))
  | _, _ => none

/-- An access at an IOVA in parts of one granule each. -/
def hostGranules (a : Nat) (data : List Byte) : List (Nat × List Byte) :=
  (List.range (data.length / 64 + 2)).filterMap fun j =>
    let lo := if j = 0 then 0 else 64 * j - a % 64
    let hi := 64 * (j + 1) - a % 64
    let d := (data.take hi).drop lo
    if d.isEmpty then none else some (a + lo, d)

/-! ### Checks of accesses to this core's pool (04 R92) -/

/-- A thread access meets a range lock (16 R267). -/
def lockHit (s : State) (off n : Nat) (store : Bool) : Bool :=
  (coreOf s s.cur.core).locks.any fun l => l.result != store && overlaps off n l.lo (l.hi - l.lo)

/-- What a channel says of an access (18 R292, R304). -/
inductive ChanView where
  | pass | wait | faulted (ch : Nat)
  deriving DecidableEq, Repr

/-- Watermark minus base: 64 bytes for each leading granule that is filled (18 Table 18-4). -/
def watermark (c : Channel) : Nat :=
  match c.written with
  | (0, hi) :: _ => min hi c.length / 64 * 64
  | _ => 0

/-- Bytes in the box of a geometry (18 R288). -/
def boxSize (g : Geometry) : Nat := g.xlen * g.ycnt * g.zcnt

/-- The first tile at or after `t0` that uses ring slot `r`. -/
def tileFrom (u : Sub) (r t0 : Nat) : Nat := t0 + (r + u.slots - t0 % u.slots) % u.slots

/-- The racker owns ring slot `r` (18 R304, Table 18-10); `box` is the size of a tile. A slot that takes no further tile is the program's
after its last release. -/
def rackerOwns (u : Sub) (box r : Nat) : Bool :=
  let t := tileFrom u r u.released
  t < u.tiles && ((u.srcBase != 0 && sget 0 u.loaded t < box) || (u.dstBase != 0 && u.slots ≤ t && sget 0 u.stored (t - u.slots) < box))

/-- What one channel says of an access to `n` bytes at pool offset `off`: only the bytes in its range count (18 R292). -/
def chanView (c : Channel) (ch off n : Nat) : ChanView :=
  let lo := max off c.base - c.base
  let hi := min (off + n) (c.base + c.length) - c.base
  if c.length = 0 ∨ overlaps off n c.base c.length = false then .pass
  else
    match c.state, c.sub with
    | .complete, _ => .pass
    | .active, _ => if hi ≤ watermark c then .pass else .wait
    | .sub, some u =>
      if (List.range u.slots).any fun r => overlaps lo (hi - lo) (r * u.slotSize) u.slotSize && rackerOwns u u.box r then .wait
      else .pass
    | .faulted, some u =>
      if (List.range u.slots).any fun r => overlaps lo (hi - lo) (r * u.slotSize) u.slotSize && rackerOwns u u.box r then .faulted ch
      else .pass
    | .sub, none => .wait
    | .faulted, none => if hi ≤ watermark c then .pass else .faulted ch

/-- What the slot's channels say of an access, the lowest channel that objects first: where the bytes lie in the ranges of two channels, 04 R92
step 3 does not say whether it stalls or traps, nor with which number (DESIGN CHOICE, log 69). -/
def chansView (l : Slot) (off n : Nat) : ChanView :=
  l.chans.foldl (fun v p => match v with | .pass => chanView p.2 p.1 off n | v => v) .pass

/-- The youngest byte that the slot's store buffer holds for a pool offset (11 R224). -/
def bufByte (l : Slot) (off : Nat) : Option Byte :=
  l.storeBuf.foldl (fun b e => match sfind e.bytes off with | some v => some v | none => b) none

/-- A store in the buffer clears the mark of the granule of `off` (07 R150). -/
def bufWhole (l : Slot) (off : Nat) : Bool :=
  l.storeBuf.any fun e => e.whole && (sfind e.bytes (off / 64 * 64)).isSome

/-- Bytes of this core's pool as the slot reads them: its own buffered stores first. -/
def poolRead (s : State) : Nat → Nat → List Byte
  | 0, _ => []
  | n + 1, off => (bufByte s.slot off).getD (s.mem.raw (poolKey s.cur.core off)) :: poolRead s n (off + 1)

/-- A load from this core's pool meets poison (04 R92 step 4). A byte that the slot's own buffered store supplies does not count as marked,
though its granule was poisoned after the store issued (DESIGN CHOICE, log 65). -/
def poolPoison (s : State) (off n : Nat) : Bool :=
  (List.range n).any fun i => (bufByte s.slot (off + i)).isNone && s.mem.poisoned (poolKey s.cur.core (off + i))

/-- A store to this core's pool meets poison (04 R92 step 4). -/
def storePoison (s : State) (off n : Nat) : Bool :=
  (List.range n).any fun i => !bufWhole s.slot (off + i) && s.mem.poisoned (poolKey s.cur.core (off + i))

/-! ### Copies that still have to read this core's pool (11 Table 11-1) -/

/-- Byte `b` of a copy has been read: its piece has been sent for, and served. -/
def copyRead (c : Copy) (b : Nat) : Bool :=
  c.opened.isSome || (b < c.next && !(c.served.any fun p => p.1 ≤ b && b < p.1 + p.2.len && !p.2.read))

/-- Row `r` of a box starts this far from its base: source and destination (18 R288). -/
def rowSrc (g : Geometry) (r : Nat) : Word :=
  BitVec.ofNat 64 (r / g.ycnt) * sext g.spstride + BitVec.ofNat 64 (r % g.ycnt) * sext g.sstride

def rowDst (g : Geometry) (r : Nat) : Word :=
  BitVec.ofNat 64 (r / g.ycnt) * sext g.dpstride + BitVec.ofNat 64 (r % g.ycnt) * sext g.dstride

/-- The address names bytes of core `c`'s pool, as seen from `c`: in space 01, or in space 10 by this device's own number. -/
def inPool (s : State) (a : Word) (c : CoreId) : Bool :=
  (spaceOf a == 1 && sramFieldsOk a && namedCore a c == c) ||
    (spaceOf a == 2 && !a.getLsbD 34 && bits a.toNat 19 15 == 0 && some (bits a.toNat 46 16) == ownDevice s
      && bits a.toNat 35 11 == c.toNat)

/-- A copy of core `c` has bytes at pool offsets off to off + n - 1 still to read. -/
def copyReads (s : State) (c : CoreId) (k : Copy) (off n : Nat) : Bool :=
  !k.dead && k.form != .subscr && (List.range (k.geom.ycnt * k.geom.zcnt)).any fun r =>
    let a := k.src + rowSrc k.geom r
    inPool s a c &&
      (List.range n).any fun i =>
        let o := bits a.toNat 0 19
        o ≤ off + i && off + i < o + k.geom.xlen && !copyRead k (r * k.geom.xlen + (off + i - o))

/-- An incomplete copy of the slot in hand has yet to read these bytes. -/
def copySourceBusy (s : State) (off n : Nat) : Bool :=
  s.slot.cpQueue.any (fun k => copyReads s s.cur.core k off n) ||
    (coreOf s s.cur.core).copies.any fun k => k.slot == s.cur.slot && copyReads s s.cur.core k off n

/-! ### Memory instructions wait for an acquire or an atomic (10 R214, R219) -/

/-- A load or atomic that nothing passes is still out. -/
def memBlocked (s : State) : Bool := s.slot.pending.any fun p => p.blocks

/-- Loads outstanding on the core (04 R94): those whose data is out, and those that have read the first of two parts. -/
def loadEntries (s : State) (c : CoreId) : Nat :=
  (List.range 5).foldl (fun k j => let l := getSlot s ⟨c, j⟩; k + l.pending.length + l.half.toList.length) 0

/-- The core has no `n` load entries free (04 R94; 07 R152). -/
def noEntries (s : State) (n : Nat) : Bool := decide (256 < loadEntries s s.cur.core + n)

/-- The load in hand, which crosses a 64-byte boundary, has had its checks and its first part (04 R94). -/
def secondPart (s : State) (off n : Nat) : Bool := s.slot.half.isSome && decide (64 < off % 64 + n)

/-- A load of `n` bytes at offset `off`: one read where they lie in one block of 64 bytes, else a read of each part, the lower block first
(DESIGN CHOICE, log 64), at two attempts of the instruction, between which other slots may go on (04 R94; 10 R212). -/
def inParts (s : State) (off n : Nat) (read : Nat → Nat → List Byte × Bool) (k : List Byte × Bool → Out) : Out :=
  let c := 64 - off % 64
  if n ≤ c then k (read off n)
  else
    match s.slot.half with
    | none => stall (onSlot s fun l => { l with half := some (read off c) })
    | some (bs, bad) =>
      let r := read (off + c) (n - c)
      k (bs ++ r.1, bad || r.2)

/-! ### Local accesses (04 R91, R92) -/

/-- The checks of 04 R92 steps 2 to 4 on `n` bytes at `off` of this core's pool, and then `k`. -/
def withPool (s : State) (ea : Word) (off n : Nat) (store : Bool) (k : Out) : Out :=
  if lockHit s off n store then trap .range ea s
  else
    match chansView s.slot off n with
    | .wait => stall s
    | .faulted ch => trap .copyfault (BitVec.ofNat 64 ch) s
    | .pass =>
      if (if store then storePoison s off n else poolPoison s off n) then trap .poison ea s
      else if store && copySourceBusy s off n then stall s
      else k

/-- The checks of 04 R92 on a local access, and then `k` at its pool offset. -/
def withLocal (s : State) (ea : Word) (n : Nat) (store : Bool) (k : Nat → Out) : Out :=
  if memBlocked s || (!store && noEntries s 1) then stall s
  else
    match localOff s ea n with
    | none => trap .rights ea s
    | some off => withPool s ea off n store (k off)

/-- Bytes as a map from their numbers. -/
def byteMap : Nat → List Byte → SMap Byte
  | _, [] => []
  | k, b :: t => (k, b) :: byteMap (k + 1) t

/-- The parts into which a store is performed: one for each aligned block of `unit` bytes (04 R94; 10 R212). Buffered parts are performed in
this order, the lower block first: 11 R229 lets an observer see any subset (DESIGN CHOICE, log 64). -/
def splitAt (unit off : Nat) (data : List Byte) : List (Nat × List Byte) :=
  let c := unit - off % unit
  if data.length ≤ c then [(off, data)] else [(off, data.take c), (off + c, data.drop c)]

/-- The entries of one store: the last is marked. -/
def oneStore (es : List BufStore) : List BufStore := es.zipIdx.map fun p => { p.1 with last := p.2 + 1 == es.length }

/-- Bytes of this core's pool as entries of the store buffer, one for each 64-byte block (04 R94). -/
def poolParts (now off : Nat) (data : List Byte) : List BufStore :=
  (splitAt 64 off data).map fun p => { bytes := byteMap p.1 p.2, since := now }

/-- Entries join the store buffer. -/
def buffer (l : Slot) (es : List BufStore) : Slot := { l with storeBuf := l.storeBuf ++ es }

/-- A store of bytes of this core's pool enters the store buffer (04 R94). -/
def bufStore (now : Nat) (l : Slot) (off : Nat) (data : List Byte) : Slot := buffer l (oneStore (poolParts now off data))

/-! ### Number of bytes and their values -/

def sizeBytes : Size → Nat
  | .b => 1 | .h => 2 | .w => 4 | .d => 8

def fsizeBytes : FSize → Nat
  | .h => 2 | .s => 4 | .d => 8

def asizeBytes : ASize → Nat
  | .w => 4 | .d => 8 | .q => 16

/-- The `w` low bytes of a number extended by their sign (04 R93). -/
def signLoad (w v : Nat) : Word := BitVec.ofInt 64 (BitVec.ofNat (8 * w) v).toInt

end Sys2Proof.Machine
end

