-- ==== Sys2Proof/Machine/Peer.lean ====
section
/-! DEFINITION. Extents of a record as a range table, and where an address that names a device, or that comes back to its issuer, is performed on
this device (08 Table 8-4; 09 R196 to R198; 18 R288; 25 R389). -/

namespace Sys2Proof.Machine

/-! ### Rights and keys of extents (08 Table 8-4; 25 R389) -/

def Extent.r (e : Extent) : Bool := e.rights.getLsbD 0
def Extent.w (e : Extent) : Bool := e.rights.getLsbD 1
def Extent.x (e : Extent) : Bool := e.rights.getLsbD 2
def Extent.a (e : Extent) : Bool := e.rights.getLsbD 3
def Extent.g (e : Extent) : Bool := e.rights.getLsbD 4
def Extent.i (e : Extent) : Bool := e.rights.getLsbD 5
def Extent.m (e : Extent) : Bool := e.rights.getLsbD 6
def Extent.s (e : Extent) : Bool := e.rights.getLsbD 7

/-- The key that a selector names in a world. -/
def selectedKey (p : Payload) (chain : Word) (sel : Nat) (i : Bool) : KeyId :=
  if sel = 0 then (if i then .chain p.rootKey chain else .clear)
  else
    let src := p.memKeys.getD (sel - 1) 0
    if i then .chain src chain else .memory src

def extentKey (p : Payload) (chain : Word) (e : Extent) : KeyId := selectedKey p chain e.keysel e.i

/-- The range table of a capsule (09 R198). -/
def rangeTable (p : Payload) (r : Record) : List RangeEntry :=
  r.extents.map fun e =>
    { base := e.base, length := e.length, cls := e.cls, target := e.target, rights := e.rights.setWidth 8
      keysel := BitVec.ofNat 16 e.keysel, key := extentKey p r.chain e }

/-! ### Checks at the target (09 R196, R197) -/

/-- Where a packet is performed on this device, or the die that counts it as a stray. -/
inductive Landing where
  | at0 (place : Place)
  /-- the die is that of the performer, whose check fails: an arrival entry is made all the same (21 R348) -/
  | refused (die : Nat)
  | stray (die : Nat)
  deriving DecidableEq, Repr

/-- A group of the capsule has been placed: one that fails at the check of its park record has none (08 Table 8-7; 20 R332). -/
def isPlaced (c : Capsule) : Bool := c.status != .queued && (c.status != .faulting || c.next != 0)

/-- The range tables of the capsules of a world, of those that are placed where `placed`. -/
def worldTables (s : State) (w : Nat) (placed : Bool) : List (List RangeEntry) :=
  (s.hub.capsules.filter fun p => p.2.world == w && (!placed || isPlaced p.2)).map fun p => rangeTable p.2.payload p.2.info

/-- The die that counts a refused packet of space 11: that of the slice of its first byte, where an extent of class 0 or 3 in one of these tables
covers it, else die 0 (09 R197). -/
def refusedDie (s : State) (tables : List (List RangeEntry)) (win : Nat) : Option Nat :=
  tables.findSome? fun t =>
    match rangeAt t win with
    | some (_, e) => if e.cls = 0 ∨ e.cls = 3 then some (memDie s e.cls (e.target + (win - e.base))) else none
    | none => none

/-- What a translation on arrival says: no counted packet goes to class 1 or 2 (21 R341). `tables`: whose extents tell the die of a refusal. -/
def windowAt (s : State) (tables : List (List RangeEntry)) (win : Word) (counted : Bool) : Option Place → Landing
  | some (.mem cls addr key) => if counted = true ∧ (cls = 1 ∨ cls = 2) then .stray 0 else .at0 (.mem cls addr key)
  | some _ => .stray 0
  | none => (refusedDie s tables win.toNat).elim (.stray 0) .refused

/-- The place that a table gives, if its check passes. -/
def placeIn (t : List RangeEntry) (a : Word) (n : Nat) (k : Kind) : Option Place :=
  match translate t a n k with
  | .ok p => some p
  | .error _ => none

/-- Where `n` bytes that a device's address names are performed, for the world `w` of the sender (09 R197). Where extents of several placed
capsules of the world cover them, the lowest-numbered capsule's decides (DESIGN CHOICE, log 83). -/
def peerLanding (s : State) (w : Nat) (a : Word) (n : Nat) (k : Kind) (counted : Bool) : Landing :=
  if spaceOf a = 2 then
    let c : CoreId := BitVec.ofNat 11 (bits a.toNat 35 11)
    let off := bits a.toNat 0 19
    if s.hub.capsules.any fun p => p.2.world == w && isPlaced p.2 && (scratchHolder s c p.1 off n).isSome then .at0 (.pool c off)
    else .refused (dieOf c)
  else
    let win := BitVec.ofNat 64 (bits a.toNat 0 46)
    windowAt s (worldTables s w false) win counted ((worldTables s w true).findSome? fun t => placeIn t win n k)

/-- Where the bytes of a piece are performed that come back to their issuer by its own address in window space: through the range table of its
capsule (18 R288, R301). -/
def windowLanding (s : State) (cap : Nat) (a : Word) (n : Nat) (k : Kind) (counted : Bool) : Landing :=
  match capAt s cap with
  | none => .stray 0
  | some c =>
    let t := rangeTable c.payload c.info
    windowAt s [t] a counted (placeIn t a n k)

/-- The place of `n` bytes that this device's own number names, as capsule `cap`'s world is placed now (09 R197). -/
def ownPlace (s : State) (cap : Option Nat) (a : Word) (n : Nat) (k : Kind) : Option Place :=
  if some (bits a.toNat 46 16) ≠ ownDevice s then none
  else
    match (cap.bind (capAt s)).map fun c => peerLanding s c.world a n k false with
    | some (.at0 p) => some p
    | _ => none

/-- The access of slot `i` names this device by its own number, and its performer lies on the slot's die: it is no crossing access, though it goes
through the hub as a packet (09 R197): 11 R225 counts its performer as the die's own, and it keeps its place among the slot's accesses of that
die (DESIGN CHOICE, log 84). -/
def nearPeer (s : State) (i : SlotId) (p : Place) (n : Nat) (k : Kind) : Bool :=
  match p with
  | .peer a => (ownPlace s (getSlot s i).capsule a n k).elim false fun q => placeDie s q == dieOf i.core
  | _ => false

/-- The performer of an access of slot `i` lies on the slot's die (11 R225). -/
def onDie (s : State) (i : SlotId) (p : Place) (n : Nat) (k : Kind) : Bool := placeDie s p == dieOf i.core || nearPeer s i p n k

end Sys2Proof.Machine
end

