-- ==== Sys2Proof/Machine/Land.lean ====
section
/-! DEFINITION. Bytes that land in memory: the slice that performs them, what a poisoned granule drops, and what a write at a
cellar's doorbell or intake meets (09 R201; 10 R209; 23 R360 to R365, R371). -/

namespace Sys2Proof.Machine

/-! ### Slices (09 R201; 26 R406) -/

/-- The physical HBM address of a byte of class 0 or 3. -/
def physAddr (s : State) (cls addr : Nat) : Nat :=
  if cls = 3 then (poolGroups s).getD (addr / 2 ^ 35) 0 * 2 ^ 35 + addr % 2 ^ 35 else addr

/-- The global number of the slice that holds a byte of class 0 or 3. -/
def sliceOf (s : State) (cls addr : Nat) : Nat :=
  let a := physAddr s cls addr
  32 * bits a 37 3 + 8 * bits a 35 2 + (bits a 8 3 ^^^ bits a 11 3)

/-! ### Block regions (23 Table 23-2) -/

/-- Moment arrays of a rule. -/
def momentArrays (rule : Nat) : Nat := if rule = 0 then 2 else if rule = 3 then 0 else 1

/-- Bytes of one FP32 array. -/
def blockArray (b : Binding) : Nat := 3072 * b.slabs

/-- Offsets of the gradient header and of the doorbell, and the length of a region. -/
def intakeOffset (b : Binding) : Nat := 0x40 + blockArray b * (1 + momentArrays b.rule)
def bellOffset (b : Binding) : Nat := intakeOffset b + 0x40 + blockArray b
def regionLength (b : Binding) : Nat := bellOffset b + 64

/-- The slice whose engine is a block's home (23 R360). -/
def homeSlice (s : State) (k : Block) : Nat := sliceOf s k.cls k.addr

def engineAt (s : State) (n : Nat) : Engine := sget {} s.engines n

def modEngine (s : State) (n : Nat) (f : Engine → Engine) : State :=
  { s with engines := sset {} s.engines n (f (engineAt s n)) }

/-- The blocks of all bindings with their numbers: capsule, binding, block number, region. -/
def allBlocks (s : State) : List (Nat × Binding × Nat × Block) :=
  s.bindings.flatMap fun p => p.2.blocks.zipIdx.map fun k => (p.1, p.2, k.2, k.1)

/-- The engine that serves a block, if it is bound to that capsule. -/
def servedBy (s : State) (cap : Nat) (k : Block) : Option Nat :=
  let n := homeSlice s k
  if (engineAt s n).cap = some cap then some n else none

/-- Events and snapshots of gradients that an engine holds: at most four (23 R365). -/
def snapshots (e : Engine) : Nat :=
  (e.bells.filter fun b => match b with | .block _ _ => true | _ => false).length +
    (e.jobs.filter fun j => match j with | .gradient _ _ _ _ _ => true | _ => false).length

/-- A write of `n` bytes is deflected: it meets an intake of which a snapshot is being taken, or a doorbell whose engine holds
four snapshots (23 R365). -/
def landBlocked (s : State) (cls addr n : Nat) : Bool :=
  (allBlocks s).any fun (cap, b, i, k) =>
    k.cls == cls && overlaps addr n k.addr (regionLength b) &&
      match servedBy s cap k with
      | none => false
      | some e =>
        (overlaps addr n (k.addr + intakeOffset b) (0x40 + blockArray b) &&
            (engineAt s e).bells.any fun x => match x with | .block j _ => j == i | _ => false) ||
          (overlaps addr n (k.addr + bellOffset b) 8 && decide (4 ≤ snapshots (engineAt s e)))

/-- What a command area holds: OP, FACTOR and STEP (23 Table 23-5). -/
def commandBell (s : State) (k : Block) : Bell :=
  let bs := s.mem.read k.key 16 (memKey k.cls k.addr)
  .command (leNat (bs.take 4)) (leNat ((bs.drop 4).take 4)) (BitVec.ofNat 64 (leNat (bs.drop 8)))

/-- The engines of a binding, each once. -/
def bindingSlices (s : State) (b : Binding) : List Nat := (b.blocks.map (homeSlice s)).dedup

/-- A write of `n` bytes at memory key `k` performs its byte at `j`: it is not dropped at a poisoned granule that the write covers in part
(10 R209). -/
def performsByte (m : Memory) (k n j : Nat) : Bool :=
  decide (k ≤ j) && decide (j < k + n) && (!m.poisoned j || (decide (k ≤ j / 64 * 64) && decide (j / 64 * 64 + 64 ≤ k + n)))

/-- The doorbell events of a write (23 R365, R371); `hit`: it has been performed at one of the eight bytes of a doorbell. -/
def ringBells (s : State) (cls : Nat) (hit : Nat → Bool) : State :=
  let s := (allBlocks s).foldl (fun t (cap, b, i, k) =>
    let d := k.addr + bellOffset b
    if k.cls == cls && hit d then
      match servedBy t cap k with
      | some e => modEngine t e fun x =>
          { x with bells := x.bells ++ [.block i (BitVec.ofNat 64 (leNat (t.mem.read k.key 8 (memKey cls d))))] }
      | none => t
    else t) s
  s.bindings.foldl (fun t p =>
    match p.2.command with
    | some k =>
      if k.cls == cls && hit (k.addr + 0x40) then
        (bindingSlices t p.2).foldl (fun t e =>
          if (engineAt t e).cap = some p.1 then modEngine t e fun x => { x with bells := x.bells ++ [commandBell t k] } else t) t
      else t
    | none => t) s

/-! ### Writes -/

/-- Bytes of a write that poisoned granules do not drop (10 R209); `fuel` bounds the granules. -/
def keptGo (m : Memory) : Nat → Nat → Nat → Nat
  | 0, _, _ => 0
  | fuel + 1, k, n =>
    if n = 0 then 0
    else
      let c := min n (64 - k % 64)
      (if m.poisoned k && c != 64 then 0 else c) + keptGo m fuel (k + c) (n - c)

def keptBytes (m : Memory) (k n : Nat) : Nat := keptGo m (n / 64 + 2) k n

/-- A write performed at a memory slice, at the hub or at an expander, with the doorbell events it makes. -/
def landMem (s : State) (cls addr : Nat) (key : KeyId) (data : List Byte) (poison : Bool) : State :=
  let m := s.mem
  let s := { s with mem := m.write (memKey cls addr) data key poison }
  if s.bindings.isEmpty then s
  else ringBells s cls fun d => (List.range 8).any fun i => performsByte m (memKey cls addr) data.length (memKey cls (d + i))

end Sys2Proof.Machine
end

