-- ==== Sys2Proof/Machine/Release.lean ====
section
/-! DEFINITION. Release conditions, the hold area, release groups, event latches, the ends of tile tasks (04 R109; 06 R131, R132;
09 R194; 10 R213; 20 R319; 21 R340 to R346). -/

namespace Sys2Proof.Machine

/-! ### Release conditions (10 Table 10-3; 11 R231) -/

/-- The copies and matrix commands of the slot that have not finished; a copy whose posting is held does not count, nor does a
subscription or a copy that has faulted (11 R231). -/
def busyCopies (s : State) (i : SlotId) : List Nat :=
  let mine := (getSlot s i).cpQueue ++ (coreOf s i.core).copies.filter fun c => c.slot == i.slot
  (mine.filter fun c => !c.posted && !c.dead && c.form != .subscr).map fun c => c.id

def busyCmds (s : State) (i : SlotId) : List Nat :=
  ((getSlot s i).mxQueue ++ (coreOf s i.core).mxRun.filter fun m => m.slot == i.slot).map fun m => m.id

/-- One of them has not finished. -/
def slotBusy (s : State) (i : SlotId) : Bool := !(busyCopies s i).isEmpty || !(busyCmds s i).isEmpty

/-- The cargo is a write. -/
def isWrite : Cargo → Bool
  | .write _ _ | .flag _ _ => true
  | _ => false

/-- The packet has still to be handed to a die-to-die link (10 R213). -/
def climbing (p : Packet) : Bool :=
  match p.hop with
  | .combining | .cluster => !p.away && decide (2 ≤ p.climb)
  | .spine => !p.away && decide (1 ≤ p.climb)
  | _ => false

/-- The packet is of the tile task or activation that is in slot `i` (01 R20). -/
def ofTask (s : State) (i : SlotId) (p : Packet) : Bool := p.src == i && p.task == (getSlot s i).task

/-- A write of the slot to another die, another device, the host or the CXL tier has not departed yet (10 R213). -/
def undeparted (s : State) (i : SlotId) : Bool := s.net.any fun p => ofTask s i p.2 && isWrite p.2.cargo && climbing p.2

/-- `n` ticks have passed since a time, if there was one. -/
def passedSince (s : State) (t : Option Nat) (n : Nat) : Bool :=
  match t with
  | none => true
  | some t => t + n ≤ s.now

/-- The Release condition of a scope for slot `i` (10 Table 10-3); `buf`: entries of the store buffer count. -/
def relCond (s : State) (i : SlotId) (sc : Scope) (buf : Bool) : Bool :=
  let l := getSlot s i
  let die := (!buf || l.storeBuf.isEmpty) && l.pending.isEmpty && !slotBusy s i
  let pkg := !undeparted s i && passedSince s l.departDie Config.lifePkg
  let dom := passedSince s l.departDev Config.lifeMax
  let sys := l.outHost == 0 && l.outCxl == 0
  match sc with
  | .die => die
  | .pkg => die && pkg
  | .dom => die && pkg && dom
  | .sys => die && pkg && dom && sys

/-- What precedes the instruction in hand (10 R215). -/
def beforeOf (s : State) : Before :=
  { mark := s.fresh, copies := busyCopies s s.cur, cmds := busyCmds s s.cur, departDie := s.slot.departDie
    departDev := s.slot.departDev, outHost := s.slot.outHost, outCxl := s.slot.outCxl }

/-- The Release condition of a scope for what precedes a buffered release store of slot `i`, whose turn in the buffer has come (10 R215). -/
def relBefore (s : State) (i : SlotId) (sc : Scope) (b : Before) : Bool :=
  let die := ((getSlot s i).pending.all fun p => decide (b.mark ≤ p.req)) && ((busyCopies s i).all fun c => !b.copies.contains c) &&
    (busyCmds s i).all fun c => !b.cmds.contains c
  let pkg := !(s.net.any fun p => decide (p.1 < b.mark) && ofTask s i p.2 && isWrite p.2.cargo && climbing p.2) &&
    passedSince s b.departDie Config.lifePkg
  let dom := passedSince s b.departDev Config.lifeMax
  let sys := b.outHost == 0 && b.outCxl == 0
  match sc with
  | .die => die
  | .pkg => die && pkg
  | .dom => die && pkg && dom
  | .sys => die && pkg && dom && sys

/-- The slot's stores so far have been performed: what a message or event to its own die waits for (07 R156, R158). -/
def storesVisible (s : State) (i : SlotId) : Bool :=
  let l := getSlot s i
  l.storeBuf.isEmpty && l.outHost == 0 && l.outCxl == 0 && passedSince s l.departDev Config.lifeMax &&
    s.net.all fun p => !(ofTask s i p.2 && p.2.piece.isNone && (match p.2.cargo with | .write _ _ => true | _ => false))

/-- Wider scopes include narrower ones (10 R213). -/
def scopeRank : Scope → Nat
  | .die => 0 | .pkg => 1 | .dom => 2 | .sys => 3

/-- The condition holds for the instruction in hand, now or since RELEASE_CONDITION_MET. -/
def relPassed (s : State) (sc : Scope) : Bool :=
  relCond s s.cur sc true || s.slot.condMet.elim false fun c => scopeRank sc ≤ scopeRank c

/-- The instruction waits for the Release condition of a scope. -/
def waitRel (s : State) (sc : Scope) (k : Out) : Out := if relPassed s sc then k else stall (onSlot s fun l => { l with wantRel := some sc })

/-! ### The hold area (09 R194; 20 R319) -/

/-- Bytes that a held write takes (09 R194). -/
def heldCost : Held → Nat
  | .store _ _ d _ _ => 16 + 16 * ((d.length + 15) / 16)
  | .send _ _ => 80
  | .sev _ => 16
  | .rel _ _ _ => 16
  | .posting _ _ _ => 16

/-- Bytes of the hold area in use. -/
def holdUsed (l : Slot) : Nat := l.hold.foldl (fun n h => n + heldCost h) 0

/-- There is room for a write of this cost. -/
def holdRoom (l : Slot) (cost : Nat) : Bool := holdUsed l + cost ≤ 4096 * partHold l

/-- A write is held, or traps HOLDFULL (20 R320). -/
def holdWrite (len : Word) (h : Held) (value : Word) (s : State) : Out :=
  if holdRoom s.slot (heldCost h) then done len (onSlot s fun l => { l with hold := l.hold ++ [h] })
  else trap .holdfull value s

/-! ### Release groups (21 R340 to R346) -/

def groupAt (l : Slot) (g : Nat) : Group := sget {} l.groups g

def setGroup (l : Slot) (g : Nat) (v : Group) : Slot := { l with groups := sset {} l.groups g v }

/-- The binding key of a counted write's place (21 R341): none where there is no key. -/
def bindKey (s : State) : Place → Option (Nat × Option Nat)
  | .mem cls addr _ => if cls = 0 ∨ cls = 3 then some ((ownDevice s).getD 0, some (memDie s cls addr)) else none
  | .pool c _ => some ((ownDevice s).getD 0, some (dieOf c))
  | .peer a => if spaceOf a = 2 then some (bits a.toNat 46 16, some (bits a.toNat 43 3)) else some (bits a.toNat 46 16, none)

/-- What one held write does to group `g` when it leaves (20 R319). -/
def groupAfter (s : State) (copyKey : Nat → Option (Nat × Option Nat)) (g : Nat) (v : Group) : Held → Group
  | .store p _ d _ (some g') => if g' = g then { v with bind := bindKey s p, bytes := v.bytes + d.length } else v
  | .posting g' c n => if g' = g then { v with bind := (copyKey c).or v.bind, bytes := v.bytes + n } else v
  | .rel g' _ _ => if g' = g then { v with bind := none, bytes := 0, seq := (v.seq + 1) % 16 } else v
  | _ => v

/-- The key of the destination of a copy, from its base (18 R297). -/
def copyKeyAt (s : State) (form : CopyForm) (dst : Word) : Option (Nat × Option Nat) :=
  if form = .mc then some ((ownDevice s).getD 0, some (bits dst.toNat 61 3))
  else
    match spaceOf dst with
    | 0 =>
      match translate (rangesOf s) dst 1 .store with
      | .ok p => bindKey s p
      | .error _ => none
    | 1 => some ((ownDevice s).getD 0, some (dieOf (namedCore dst s.cur.core)))
    | _ => bindKey s (.peer dst)

/-- The key of a copy that the slot in hand has issued. -/
def copyKey (s : State) (id : Nat) : Option (Nat × Option Nat) :=
  match (s.slot.cpQueue ++ (coreOf s s.cur.core).copies).find? fun c => c.id == id with
  | some c => copyKeyAt s c.form c.dst
  | none => none

/-- Group `g` as the slot's held writes will leave it (21 R340, R345). -/
def groupView (s : State) (g : Nat) : Group := s.slot.hold.foldl (groupAfter s (copyKey s) g) (groupAt s.slot g)

/-- The check of 21 R341 on `n` counted bytes under a key; none where it traps GROUP. -/
def groupOk (v : Group) (key : Option (Nat × Option Nat)) (n : Nat) : Bool :=
  match key, v.bind with
  | none, _ => false
  | some k, some b => k == b && v.bytes + n < 2 ^ 37
  | some _, none => v.bytes + n < 2 ^ 37

/-- A tile task leaves its slot: groups that are bound stand as though their flags had left now, and none keeps bytes (21 R346). -/
def leaveGroups (now : Nat) (l : Slot) : Slot :=
  { l with group := none
           groups := l.groups.filterMap fun p =>
             let g : Group :=
               if p.2.bind.isSome then { bind := none, bytes := 0, seq := (p.2.seq + 1) % 16, last := sput p.2.last p.2.seq now }
               else { p.2 with bytes := 0 }
             if g = {} then none else some (p.1, g) }

/-! ### Event latches (06 R131, R132) -/

/-- The gang of a slot, leader first; the slot alone outside one (06 R123). -/
def gangOf (s : State) (i : SlotId) : List SlotId :=
  let l := getSlot s i
  if l.gangSize ≤ 1 then [i]
  else (List.range l.gangSize).map fun p => ⟨BitVec.ofNat 11 (i.core.toNat - l.gangPos + p), i.slot⟩

/-- Sleeping slots whose latches are set go on; a gang goes on when every member's latch is set (06 R124, R132). -/
def wake (s : State) (i : SlotId) : State :=
  let ms := gangOf s i
  if ms.all fun m => (getSlot s m).run == .asleep && (getSlot s m).latchBit then
    ms.foldl (fun s m => modSlot s m fun l => { l with run := .running, latchBit := false }) s
  else s

/-- The latch of a slot is set (06 R131). -/
def setLatch (s : State) (i : SlotId) : State := wake (modSlot s i fun l => { l with latchBit := true }) i

/-! ### Ends of tile tasks (04 R109) -/

/-- The tile task in hand ends normally (04 R109): messages still staged for it are strays (01 R20; 06 R128), and its ring is charged for the
time that it held the slot (08 R183). -/
def exitTask (s : State) : State :=
  let s := dropStaged (failWaiters s) s.cur.core (s.cur.slot, s.slot.task)
  let s := settleDeficits (chargeSlot s s.cur)
  onSlot s fun l =>
    { closeSubs (leaveGroups s.now l) with run := .exited, gangPos := 0, gangSize := 1, closing := false }

/-- `texit n` (04 R109; 06 R130). -/
def texitOp (n : Nat) (s : State) : Out :=
  if n = 0 then closeThen s fun s => .next (if s.cur.slot = 4 then endActivation s else exitTask s)
  else if s.cur.slot = 4 then .next (failActivation s (BitVec.ofNat 16 n))
  else .next (endFault (failWaiters s) (BitVec.ofNat 16 n))

end Sys2Proof.Machine
end

