-- ==== Sys2Proof/Machine/GlobalMem.lean ====
section
/-! DEFINITION. Global loads and stores, acquire and release, atomics (10 R208 to R219; 11 R223 to R226). A load or atomic whose
performer is on the issuer's die is performed as the instruction issues, but for loads that State.late tells to be performed after it, and any
other leaves as a packet; a store goes to the hold area (log 13). -/

namespace Sys2Proof.Machine

/-! ### Places and the slot's own writes (10 R211) -/

/-- A place as a space and a number, so that overlapping places can be told. -/
def placeAddr : Place → Nat × Nat
  | .mem cls a _ => (cls, a)
  | .pool c off => (8 + c.toNat, off)
  | .peer a => (8192, a.toNat)

/-- The same of a packet's destination; answers and messages have none. -/
def destAddr : Dest → Option (Nat × Nat)
  | .mem cls a => some (cls, a)
  | .pool c off => some (8 + c.toNat, off)
  | .peer a => some (8192, a.toNat)
  | _ => none

/-- The byte that `data` at `at0` holds for the byte `p`. -/
def byteIn (at0 : Nat × Nat) (data : List Byte) (p : Nat × Nat) : Option Byte :=
  if at0.1 = p.1 ∧ at0.2 ≤ p.2 then data[p.2 - at0.2]? else none

/-- The youngest byte that the slot's hold area, or else its store buffer or the combining buffer, holds for `p` (10 R211; 11 R224). -/
def ownByte (s : State) (p : Nat × Nat) : Option Byte :=
  let held := s.slot.hold.foldl (fun b h => match h with
    | .store pl _ d _ _ => (byteIn (placeAddr pl) d p).or b
    | _ => b) none
  let comb := s.net.foldl (fun b q => match q.2.cargo, destAddr q.2.dest with
    | .write d _, some at0 => if ofTask s s.cur q.2 = true ∧ q.2.hop = .combining then (byteIn at0 d p).or b else b
    | _, _ => b) none
  let released : Packet → Option Byte := fun q => match q.cargo, destAddr q.dest with
    | .write d _, some at0 => byteIn at0 d p
    | _, _ => none
  let buf := s.slot.storeBuf.foldl (fun b e => (e.out.bind released).or b) none
  held.or (buf.or comb)

/-- The bytes of an access that the slot's own writes supply, by position. -/
def ownBytes (s : State) (p : Place) (n : Nat) : SMap Byte :=
  let at0 := placeAddr p
  (List.range n).filterMap fun i => (ownByte s (at0.1, at0.2 + i)).map fun b => (i, b)

/-- Memory's key of a place on this module, and the key of its data at rest. -/
def placeKey : Place → Nat × KeyId
  | .mem cls a k => (memKey cls a, k)
  | .pool c off => (poolKey c off, .clear)
  | .peer a => (a.toNat, .clear)

/-- The access is performed on the issuer's own die. -/
def sameDie (s : State) (p : Place) : Bool := placeDie s p == dieOf s.cur.core

/-- A place `n` bytes further on. -/
def placeAdd (p : Place) (n : Nat) : Place :=
  match p with
  | .mem cls a k => .mem cls (a + n) k
  | .pool c off => .pool c (off + n)
  | .peer a => .peer (a + BitVec.ofNat 64 n)

/-! ### Packets -/

/-- A place as a destination. -/
def destOf : Place → Dest × KeyId
  | .mem cls a k => (.mem cls a, k)
  | .pool c off => (.pool c off, .clear)
  | .peer a => (.peer a, .clear)

/-- The port key of a world (25 Table 25-1, R390): an anonymous world's comes from the boot nonce and its WORLD_OPEN position. -/
def worldPort (s : State) (w : World) : PortKey :=
  if w.chain = 0 then ⟨w.rootKey, 0, s.hub.bootNonce, w.openPos⟩ else ⟨w.rootKey, w.chain, w.epoch, 0⟩

/-- The port key of a capsule's world. -/
def portKeyOf (s : State) (cap : Option Nat) : PortKey :=
  ((cap.bind (capAt s)).bind fun c => worldAt s c.world).elim ⟨0, 0, 0, 0⟩ (worldPort s)

/-- The slot to which the placement table maps a linear index (06 R120). -/
def placedAt (s : State) (cap linear : Nat) : Option SlotId :=
  let here : SlotId → Slot → Bool := fun i l =>
    i.slot != 4 && l.capsule == some cap && l.linear == linear && l.run != .unbound && l.run != .exited
  if here s.cur s.slot then some s.cur
  else
    (s.others.find? fun p => here ⟨BitVec.ofNat 11 (p.1 / 5), p.1 % 5⟩ p.2).map fun p => ⟨BitVec.ofNat 11 (p.1 / 5), p.1 % 5⟩

/-- The level of a switch: cluster, spine, package, port (21 Table 21-1). -/
def hopLevel : Hop → Nat
  | .combining | .cluster | .target => 0
  | .spine => 1
  | .package => 2
  | .port _ => 3

/-- The level of the lowest switch above a source on `die` and cluster `cl` and a destination (21 R336). A device that names itself
is reached through the hub (09 R197); the hub serves classes 1 and 2. -/
def commonLevel (s : State) (cap die : Nat) (cl : Option Nat) : Dest → Nat
  | .mem cls a => if memDie s cls a = die then 1 else 2
  | .pool c _ => if dieOf c ≠ die then 2 else if cl = some (clusterOf c) then 0 else 1
  | .peer a => if some (bits a.toNat 46 16) = ownDevice s then 2 else 3
  | .task n =>
    match placedAt s cap n with
    | some i => if dieOf i.core ≠ die then 2 else if cl = some (clusterOf i.core) then 0 else 1
    | none => 0
  | .reply i => if dieOf i.core ≠ die then 2 else if cl = some (clusterOf i.core) then 0 else 1
  | .issuer _ => 2

/-- The packet is bound for another device. -/
def leaves (s : State) (p : Packet) : Bool :=
  match p.dest with
  | .peer a => some (bits a.toNat 46 16) != ownDevice s
  | .reply _ | .issuer _ => p.ofDev.isSome
  | _ => false

/-- The time by which a packet that enters the fabric is performed or dropped: within the module L_pkg (10 R213), to or from another
device at AGE 250 (21 R336). -/
def lifeEnd (s : State) (p : Packet) : Nat :=
  let outside := p.inbound || leaves s p
  if outside then p.born + (250 - p.age0) * (160 * Config.nanosecond) else s.now + Config.lifePkg

/-- A packet joins those in the fabric under the next number; it is performed or dropped by a given time. -/
def launchBy (s : State) (due : Nat) (p : Packet) : State :=
  { s with net := sput s.net s.fresh { p with due := some due }, fresh := s.fresh + 1 }

/-- A packet joins those in the fabric; a store that waits in the combining buffer is under way in time to be visible (06 R134). -/
def launch (s : State) (p : Packet) : State := launchBy s (if p.hop = .combining then s.now + Config.visible else lifeEnd s p) p

/-- A packet of the slot in hand enters the fabric at `hop` (21 R335, R336). -/
def sendPacket (s : State) (cargo : Cargo) (dest : Dest) (key : KeyId) (req : Nat) (header : Option Word) (hop : Hop) : State :=
  launch s
    { cargo := cargo, src := s.cur, task := s.slot.task, linear := s.slot.linear, srcDev := BitVec.ofNat 16 ((ownDevice s).getD 0), capsule := s.slot.capsule.getD 0
      dest := dest, key := key, req := req, header := header, hop := hop
      climb := commonLevel s (s.slot.capsule.getD 0) (dieOf s.cur.core) (some (clusterOf s.cur.core)) dest
      inPort := coreNumOf s.cur.core, srcDie := dieOf s.cur.core, srcCl := clusterOf s.cur.core, home := dieOf s.cur.core, age0 := 0
      born := s.now, portKey := portKeyOf s s.slot.capsule, seq := 0, intact := true }

/-! ### Data that returns -/

/-- A register takes returned data; it counts as a write of the region that issued the access (20 R315). -/
def landX (l : Slot) (k : Nat) (v : Word) (mark : Option Word) (region : Nat) : Slot :=
  let l := if region = l.regionNo then saveX l k else l
  { l with x := sset 0 l.x k v
           xPoison := match mark with | some ea => sput l.xPoison k ea | none => serase l.xPoison k }

/-- What the destination receives from the number returned (10 R210, R217): low and high register. -/
def landValue : Land → Nat → Word × Word
  | .load w, v => (signLoad w v, 0)
  | .atom .w fp, v => (if fp then BitVec.ofNat 64 (v % 2 ^ 32) else signLoad 4 v, 0)
  | .atom .d _, v => (BitVec.ofNat 64 v, 0)
  | .atom .q _, v => (BitVec.ofNat 64 v, BitVec.ofNat 64 (v / 2 ^ 64))

/-- The bytes that returned, under the slot's own. -/
def mergeOwn (own : SMap Byte) (bs : List Byte) : List Byte := bs.zipIdx.map fun p => (sfind own p.2).getD p.1

/-- The saved value of a register that was an input of the open region (10 R219 step 4; 20 R317). -/
def landOld (l : Slot) (k : Nat) (v : Word) (mark : Option Word) : Slot :=
  { l with region := { l.region with saved := { l.region.saved with x := sput l.region.saved.x k (v, mark) } } }

/-- Returned data lands: values and poison marks (10 R209). -/
def landData (p : Pending) (bs : List Byte) (poison : Bool) (l : Slot) : Slot :=
  let v := landValue p.land (leNat (mergeOwn p.own bs))
  let mark := if poison then some p.ea else none
  let l := p.dst.elim l fun k => landX l k v.1 mark p.region
  let l := p.dst2.elim l fun k => landX l k v.2 mark p.region
  let l := p.old.elim l fun k => landOld l k v.1 mark
  p.old2.elim l fun k => landOld l k v.2 mark

/-- Data that is there at once: its registers are written. -/
def landHere (p : Pending) (bs : List Byte) (poison : Bool) (l : Slot) : Slot :=
  let v := landValue p.land (leNat bs)
  let mark := if poison then some p.ea else none
  let l := p.dst.elim l fun k => putX l k v.1 mark
  p.dst2.elim l fun k => putX l k v.2 mark

/-- The key of a destination register; x0 has none. -/
def dstKey (l : Slot) (n : BitVec 5) : Option Nat := if n = 0 then none else some (xKey l n)

/-- The register kept under `k` is going to take data: it counts as written from now on (20 R315). -/
def await (l : Slot) (k : Nat) : Slot :=
  let l := saveX l k
  { l with pending := supersede l k }

/-- The unit of single-copy atomicity of an access of slot `i`: it depends on the dies of issuer and performer alone (10 R212; 11 R229). -/
def unitOf (s : State) (i : SlotId) (p : Place) (n : Nat) (k : Kind) : Nat := if onDie s i p n k then 64 else 32

/-- Requests leave, one for each part of the access with its position, and their destination is awaited (10 R212). -/
def request (s : State) (parts : List (Nat × Cargo)) (place : Place) (p : Pending) : State :=
  let numbers := parts.zipIdx.map fun q => (s.fresh + q.2, q.1.1)
  let s := onSlot s fun l =>
    let l := p.dst.elim l (await l)
    let l := p.dst2.elim l (await l)
    { l with pending := l.pending ++ [{ p with req := s.fresh, parts := numbers }] }
  parts.foldl (fun t q =>
    let (dest, key) := destOf (placeAdd place q.1)
    sendPacket t q.2 dest key t.fresh none .cluster) s

/-- The parts of a read of `n` bytes that leaves as a request: at a boundary of its unit (10 R212). -/
def readParts (unit off n : Nat) : List (Nat × Cargo) :=
  let c := unit - off % unit
  if n ≤ c then [(0, .read n)] else [(0, .read c), (c, .read (n - c))]

/-! ### Loads (10 R210, R211, R214) -/

/-- The effective address of the MG format. -/
def globalEa (x : Word) (imm : BitVec 9) : Word := x + sext imm

/-- The bytes of a place on this die, under those that the slot supplies, and whether one that it does not supply is poisoned, from byte `o`
of the place's own numbers on (10 R211). -/
def readHere (s : State) (p : Place) (own : SMap Byte) (o n : Nat) : List Byte × Bool :=
  let under (at0 : Nat) (bs : List Byte) : List Byte := bs.zipIdx.map fun b => (sfind own (o + b.2 - at0)).getD b.1
  match p with
  | .mem cls a key => (under a (s.mem.read key n (memKey cls o)), (List.range n).any fun i =>
      (sfind own (o + i - a)).isNone && s.mem.poisoned (memKey cls (o + i)))
  | .pool c off => (under off (s.mem.raws n (poolKey c o)), (List.range n).any fun i =>
      (sfind own (o + i - off)).isNone && s.mem.poisoned (poolKey c (o + i)))
  | .peer _ => ([], false)

/-- The last step of a load whose performer is on this die: in this core's pool through the store buffer, elsewhere under the slot's own
writes (10 R211, R212). -/
def loadHere (w : Nat) (p : Place) (land : Pending) (s : State) : Out :=
  match p with
  | .pool c off =>
    if c = s.cur.core then inParts s off w (fun o n => (poolRead s n o, false)) fun r => done 4 (onSlot s (landHere land r.1 false))
    else inParts s off w (readHere s p land.own) fun r => done 4 (onSlot s (landHere land r.1 r.2))
  | .mem _ a _ => inParts s a w (readHere s p land.own) fun r => done 4 (onSlot s (landHere land r.1 r.2))
  | .peer _ => stall s

/-- The number of a place within its space. -/
def placeOffset (p : Place) : Nat := (placeAddr p).2

/-- The narrowest scope that holds the performer of an access (10 Table 10-3), by its rank: that of an access by this device's own number is the
place where it lands (12 R233; DESIGN CHOICE, log 84). -/
def placeRank (s : State) (p : Place) (n : Nat) (k : Kind) : Nat :=
  match p with
  | .mem 1 _ _ => 3
  | .mem 2 _ _ => 3
  | .peer a => if some (bits a.toNat 46 16) = ownDevice s then (if nearPeer s s.cur p n k then 0 else 1) else 2
  | _ => if sameDie s p then 0 else 1

/-- The access waits for a load or atomic that is still out: for an acquire where its scope holds the performer (10 R214; 12 R233; log 18), and for
an own-die load that is performed after its issue where the access is performed on the die too (11 R225). -/
def placeWaits (s : State) (p : Place) (n : Nat) (k : Kind) : Bool :=
  s.slot.pending.any fun q => q.blocks && decide (placeRank s p n k ≤ scopeRank q.reach)

/-- An own-die load that the schedule lets be performed after its issue (11 R226): it finds none of its bytes among the slot's own writes, and
lies in no pool of this core. -/
def loadLate (s : State) (p : Place) (own : SMap Byte) : Bool :=
  s.late.headD false && own.isEmpty && match p with
    | .pool c _ => c != s.cur.core
    | _ => true

/-- An own-die load takes its entry of State.late. -/
def tookLate (s : State) : State := { s with late := s.late.drop 1 }

/-- What a global load at `p` leaves to land: later accesses of the reach of an acquire wait for it (10 R214), and for one whose performer is on
the die those that are performed there (11 R225). -/
def loadLand (s : State) (d : BitVec 5) (ea : Word) (p : Place) (w : Nat) (acq : Option Scope) : Pending :=
  { req := 0, dst := dstKey s.slot d, ea := ea, land := .load w, blocks := acq.isSome || onDie s s.cur p w .load, reach := acq.getD .die
    own := ownBytes s p w, region := s.slot.regionNo }

/-- The load leaves as requests. -/
def loadFar (s : State) (p : Place) (w : Nat) (land : Pending) : Out :=
  done 4 (request s (readParts (unitOf s s.cur p w .load) (placeOffset p) w) p land)

/-- A load that has passed its checks is performed, or leaves. -/
def loadNow (ea : Word) (w : Nat) (p : Place) (land : Pending) (s : State) : Out :=
  if sameDie s p then
    if loadLate s p land.own then loadFar (tookLate s) p w land
    else
      match p with
      | .pool c off => if c = s.cur.core then withPool s ea off w false (loadHere w p land s) else loadHere w p land (tookLate s)
      | _ => loadHere w p land (tookLate s)
  else loadFar s p w land

/-- A plain load of `w` bytes at `a` as it would be performed now for the slot in hand, before its instruction issues (11 R226): of memory of this
device that may be read, that none of the slot's own writes supply, and that no access still out keeps waiting. -/
def earlyLoad (s : State) (a : Word) (w : Nat) : Option EarlyLoad :=
  match resolve s a w .load with
  | .ok p =>
    let (bs, bad) := readHere s p [] (placeOffset p) w
    let free : Bool := match p with
      | .mem 1 o _ => !expanderFailed s o w
      | .mem 2 _ _ | .peer _ => false
      | .pool c _ => c != s.cur.core
      | _ => true
    if s.slot.run = .running ∧ s.slot.gangSize = 1 ∧ [1, 2, 4, 8].contains w = true ∧ free = true ∧ bad = false
        ∧ (ownBytes s p w).isEmpty = true ∧ placeWaits s p w .load = false then
      some ⟨a, bs, sameDie s p⟩
    else none
  | .error _ => none

/-- It is performed for slot State.arg.slot at State.arg.addr, State.arg.len bytes. -/
def performEarly (s : State) : State :=
  let t := focus s s.arg.slot
  match earlyLoad t (BitVec.ofNat 64 s.arg.addr) s.arg.len with
  | some e => focus (onSlot t fun l => { l with early := l.early ++ [e] }) s.cur
  | none => s

/-- The load that a plain load at `p` finds performed. -/
def foundEarly (s : State) (ea : Word) (w : Nat) (land : Pending) (acq : Option Scope) : Option EarlyLoad :=
  if acq.isSome || !land.own.isEmpty then none else s.slot.early.find? fun e => e.addr == ea && e.bytes.length == w

/-- A load issues: what it has found is used up, and if it is performed on the die no other one there is performed before it (11 R225). -/
def passEarly (s : State) (p : Place) (w : Nat) (e : Option EarlyLoad) : State :=
  onSlot s fun l =>
    let left := e.elim l.early fun e => l.early.erase e
    { l with early := if onDie s s.cur p w .load then left.filter fun e => !e.near else left }

/-- A global load of `w` bytes; `acq`: the scope of an acquire (10 R214). A load of two parts on this die has had its checks when the first was
read. A plain load takes the bytes of one that has been performed before (11 R226; log 74). -/
def globalLoad (d a : BitVec 5) (imm : BitVec 9) (w : Nat) (acq : Option Scope) (s : State) : Out :=
  withX a s fun x =>
    let ea := globalEa x imm
    match resolve s ea w .load with
    | .error (c, t) => if memBlocked s || noEntries s 1 then stall s else trap c t s
    | .ok p =>
      let land := loadLand s d ea p w acq
      if sameDie s p && secondPart s (placeOffset p) w then loadHere w p land s
      else if placeWaits s p w .load || noEntries s 1 then stall s
      else
        withAts s p w .load fun s =>
          let e := foundEarly s ea w land acq
          let s := passEarly s p w e
          match e with
          | some e => done 4 (onSlot s (landHere land e.bytes false))
          | none => loadNow ea w p land s

def execLdG (d a : BitVec 5) (imm : BitVec 9) (sz : Size) (s : State) : Out := globalLoad d a imm (sizeBytes sz) none s

def execLdAcq (d a : BitVec 5) (imm : BitVec 9) (sz : Size) (sc : Scope) (s : State) : Out :=
  globalLoad d a imm (sizeBytes sz) (some sc) s

/-! ### Stores (10 R210, R215) -/

/-- A global store of the low `w` bytes of `v`; `rel`: the scope of a release store. -/
def globalStore (a : BitVec 5) (imm : BitVec 9) (w : Nat) (v : Word) (rel : Option Scope) (s : State) : Out :=
  withX a s fun x =>
    let ea := globalEa x imm
    match resolve s ea w .store with
    | .error (c, t) => if memBlocked s then stall s else trap c t s
    | .ok p =>
      if placeWaits s p w .store then stall s
      else
        withAts s p w .store fun s =>
          let data := leBytes w v.toNat
          let held : Out :=
            match s.slot.group with
            | none => holdWrite 4 (.store p ea data rel none) ea s
            | some g =>
              if groupOk (groupView s g) (bindKey s p) w then holdWrite 4 (.store p ea data rel (some g)) ea s
              else trap .group (BitVec.ofNat 64 g) s
          match p with
          | .pool c off =>
            if c = s.cur.core then
              let mark : BufStore → BufStore := fun e => if rel.isSome then { e with rel := rel, before := beforeOf s } else e
              withPool s ea off w true (done 4 (onSlot s fun l => buffer l (oneStore ((poolParts s.now off data).map mark))))
            else held
          | _ => held

def execStG (d a : BitVec 5) (imm : BitVec 9) (sz : Size) (s : State) : Out :=
  withReady [d, a] s <| withX d s fun v => globalStore a imm (sizeBytes sz) v none s

def execStRel (d a : BitVec 5) (imm : BitVec 9) (sz : Size) (sc : Scope) (s : State) : Out :=
  withReady [d, a] s <| withX d s fun v => globalStore a imm (sizeBytes sz) v (some sc) s

/-! ### Atomics (10 R217 to R219) -/

/-- AtomicPerform: the new value, or none where no write is made (10 R217). -/
def atomicNew (op : AtomOp) (sz : ASize) (old dv bv : Nat) : Option Nat :=
  let w := 8 * asizeBytes sz
  let x := BitVec.ofNat w old
  let y := BitVec.ofNat w bv
  match op with
  | .add => some (x + y).toNat
  | .and => some (x &&& y).toNat
  | .or => some (x ||| y).toNat
  | .xor => some (x ^^^ y).toNat
  | .min => some (if x.sle y then x else y).toNat
  | .max => some (if x.sle y then y else x).toNat
  | .minu => some (if x.ule y then x else y).toNat
  | .maxu => some (if x.ule y then y else x).toNat
  | .swap => some y.toNat
  | .cas => if x.toNat = dv % 2 ^ w then some y.toNat else none
  | .faddS => some (fadd2 fp32 .rne 0 old bv)
  | .fminS => some (fmin2 fp32 old bv)
  | .fmaxS => some (fmax2 fp32 old bv)

/-- The read-modify-write at memory key `k`: the memory, the old bytes, and whether they are poisoned (10 R217). -/
def atomicAt (m : Memory) (k : Nat) (key : KeyId) (op : AtomOp) (sz : ASize) (dv bv : Nat) : Memory × List Byte × Bool :=
  let n := asizeBytes sz
  let old := m.read key n k
  if m.poisoned k then (m, old, true)
  else
    match atomicNew op sz (leNat old) dv bv with
    | some v => (m.write k (leBytes n v) key false, old, false)
    | none => (m, old, false)

/-- The host performs these as PCIe AtomicOps (10 Table 10-6). -/
def hostAtomic (op : AtomOp) (sz : ASize) : Bool :=
  match op with
  | .add | .swap => sz != .q
  | .cas => true
  | _ => false

/-- An access at a cellar's intake or doorbell that cannot be performed now, so that it leaves as a request; and the doorbell events of one
performed (23 R365). -/
def placeBlocked (s : State) (p : Place) (n : Nat) : Bool :=
  match p with
  | .mem cls a _ => landBlocked s cls a n
  | _ => false

def placeBells (s : State) (p : Place) (n : Nat) : State :=
  match p with
  | .mem cls a _ => if s.bindings.isEmpty then s else ringBells s cls fun d => overlaps a n d 8
  | _ => s

/-- The registers of an operand: one, or a pair (10 R217). -/
def pairRegs (n : BitVec 5) (sz : ASize) : List (BitVec 5) := if sz = .q then [n, n + 1] else [n]

/-- X(n) or the pair X(n+1) X(n) (10 R217). -/
def withPair (n : BitVec 5) (sz : ASize) (s : State) (k : Nat → Out) : Out :=
  withX n s fun x => if sz = .q then withX (n + 1) s fun y => k (x.toNat + 2 ^ 64 * y.toNat) else k x.toNat

/-- Checks of an atomic on this core's pool: it loads and stores (10 Table 10-2 steps 3 to 6). -/
def withAtomPool (s : State) (ea : Word) (p : Place) (n : Nat) (k : Out) : Out :=
  match p with
  | .pool c off =>
    if c = s.cur.core then
      if lockHit s off n true then trap .range ea s else withPool s ea off n false k
    else k
  | _ => k

/-- Step 2 of 10 R219: earlier stores performed and loads returned, or with `.ar` the Release condition. -/
def atomReady (s : State) (ar : Bool) (sc : Scope) (k : Out) : Out :=
  if ar then waitRel s sc k
  else if s.slot.storeBuf.isEmpty && s.slot.pending.isEmpty then k else stall s

/-- An atomic on operands that have been read (10 R217, R219). -/
def atomOn (op : AtomOp) (d : BitVec 5) (x : Word) (dv bv : Nat) (ar : Bool) (sz : ASize) (sc : Scope) (fp : Bool)
    (s : State) : Out :=
  let n := asizeBytes sz
  let ea := BitVec.ofNat 64 (x.toNat / n * n)
  if memBlocked s then stall s
  else
    match resolve s ea n .atomic with
    | .error (c, t) => trap c t s
    | .ok p =>
      if (match p with | .mem 2 _ _ => !hostAtomic op sz | _ => false) then trap .rights ea s
      else
        withAts s p n .atomic fun s =>
          withAtomPool s ea p n <|
            closeThen s fun s =>
              atomReady s ar sc <|
                let land : Pending := { req := 0, dst := dstKey s.slot d
                                        dst2 := if sz = .q then dstKey s.slot (d + 1) else none
                                        ea := ea, land := .atom sz fp, blocks := true, region := s.slot.regionNo }
                if sameDie s p && !placeBlocked s p n then
                  let (k, key) := placeKey p
                  let (m, old, bad) := atomicAt s.mem k key op sz dv bv
                  let wrote := !bad && (atomicNew op sz (leNat old) dv bv).isSome
                  let s := { s with mem := m }
                  doneBoundary 4 (onSlot (if wrote then placeBells s p n else s) (landHere land old bad))
                else if noEntries s 1 then stall s
                else doneBoundary 4 (request s [(0, .atomic op sz dv bv)] p land)

/-- `atom.op`: operands xa and xb. -/
def atomOp (op : AtomOp) (fp : Bool) (d a b : BitVec 5) (ar : Bool) (sz : ASize) (sc : Scope) (s : State) : Out :=
  withReady (a :: pairRegs b sz) s <| withX a s fun x => withPair b sz s fun bv => atomOn op d x 0 bv ar sz sc fp s

def execAtomAdd (d a b : BitVec 5) (ar : Bool) (sz : ASize) (sc : Scope) (s : State) : Out := atomOp .add false d a b ar sz sc s
def execAtomAnd (d a b : BitVec 5) (ar : Bool) (sz : ASize) (sc : Scope) (s : State) : Out := atomOp .and false d a b ar sz sc s
def execAtomOr (d a b : BitVec 5) (ar : Bool) (sz : ASize) (sc : Scope) (s : State) : Out := atomOp .or false d a b ar sz sc s
def execAtomXor (d a b : BitVec 5) (ar : Bool) (sz : ASize) (sc : Scope) (s : State) : Out := atomOp .xor false d a b ar sz sc s
def execAtomMin (d a b : BitVec 5) (ar : Bool) (sz : ASize) (sc : Scope) (s : State) : Out := atomOp .min false d a b ar sz sc s
def execAtomMax (d a b : BitVec 5) (ar : Bool) (sz : ASize) (sc : Scope) (s : State) : Out := atomOp .max false d a b ar sz sc s
def execAtomMinu (d a b : BitVec 5) (ar : Bool) (sz : ASize) (sc : Scope) (s : State) : Out := atomOp .minu false d a b ar sz sc s
def execAtomMaxu (d a b : BitVec 5) (ar : Bool) (sz : ASize) (sc : Scope) (s : State) : Out := atomOp .maxu false d a b ar sz sc s
def execAtomSwap (d a b : BitVec 5) (ar : Bool) (sz : ASize) (sc : Scope) (s : State) : Out := atomOp .swap false d a b ar sz sc s

/-- `cas` also reads its compare value from xd (10 R217). -/
def execAtomCas (d a b : BitVec 5) (ar : Bool) (sz : ASize) (sc : Scope) (s : State) : Out :=
  withReady (a :: pairRegs b sz ++ pairRegs d sz) s <| withX a s fun x => withPair b sz s fun bv => withPair d sz s fun dv => atomOn .cas d x dv bv ar sz sc false s

def execAtomFaddS (d a b : BitVec 5) (ar : Bool) (sc : Scope) (s : State) : Out := atomOp .faddS true d a b ar .w sc s
def execAtomFminS (d a b : BitVec 5) (ar : Bool) (sc : Scope) (s : State) : Out := atomOp .fminS true d a b ar .w sc s
def execAtomFmaxS (d a b : BitVec 5) (ar : Bool) (sc : Scope) (s : State) : Out := atomOp .fmaxS true d a b ar .w sc s

end Sys2Proof.Machine
end

