-- ==== Sys2Proof/Machine/Flags.lean ====
section
/-! DEFINITION. Conditions and results that are computed from operands. The T9 has no flags register: no integer instruction
sets flags (04 R71) and there are no sticky exception flags (01 R30); a condition lives in an x or m register or in a branch. -/

namespace Sys2Proof.Machine

/-- 1 or 0. -/
def oneIf (b : Bool) : Word := if b then 1 else 0

/-- Branch conditions (04 Table 4-5). -/
def condEq (a b : Word) : Bool := a == b
def condNe (a b : Word) : Bool := a != b
def condLt (a b : Word) : Bool := a.slt b
def condGe (a b : Word) : Bool := !a.slt b
def condLtu (a b : Word) : Bool := a.ult b
def condGeu (a b : Word) : Bool := !a.ult b

/-- Quotient of `div` (04 R73): all ones for a zero divisor; the overflow wraps. -/
def divS (a b : Word) : Word := if b = 0 then BitVec.allOnes 64 else BitVec.ofInt 64 (a.toInt.tdiv b.toInt)

def divU (a b : Word) : Word := if b = 0 then BitVec.allOnes 64 else BitVec.ofNat 64 (a.toNat / b.toNat)

/-- Remainder of `rem` (04 R73): the dividend for a zero divisor; the sign of the dividend. -/
def remS (a b : Word) : Word := if b = 0 then a else BitVec.ofInt 64 (a.toInt.tmod b.toInt)

def remU (a b : Word) : Word := if b = 0 then a else BitVec.ofNat 64 (a.toNat % b.toNat)

/-- High halves of products (04 Table 4-2). -/
def mulHS (a b : Word) : Word := BitVec.ofInt 64 (a.toInt * b.toInt / 2 ^ 64)

def mulHU (a b : Word) : Word := BitVec.ofNat 64 (a.toNat * b.toNat / 2 ^ 64)

/-- Bit counts (04 Table 4-4). -/
def clzW (a : Word) : Word := BitVec.ofNat 64 (if a = 0 then 64 else 63 - Nat.log2 a.toNat)

def ctzW (a : Word) : Word := BitVec.ofNat 64 (((List.range 64).find? fun i => a.getLsbD i).getD 64)

def popcW (a : Word) : Word := BitVec.ofNat 64 ((List.range 64).countP fun i => a.getLsbD i)

def absW (a : Word) : Word := if a.msb then -a else a

/-- The shift amount of a register shift: b[5:0] (04 R72). -/
def shamt (b : Word) : Nat := b.toNat % 64

end Sys2Proof.Machine
end

