-- ==== Sys2Proof/Machine/Control.lean ====
section
/-! DEFINITION. Branches, jumps, windowed calls and hardware loops (01 R15 to R17; 04 R79 to R89). -/

namespace Sys2Proof.Machine

/-- `b.cond`: the leader's registers decide (04 R79; 06 R124). -/
def branchOp (cond : Word → Word → Bool) (a b : BitVec 5) (off : BitVec 12) (s : State) : Out :=
  withLeaderReady [a, b] s <| withLeaderX a s fun x => withLeaderX b s fun y =>
    if cond x y then .next (retireTo (s.slot.pc + 2 * sext off) true s) else done 4 s

def execBEq (a b : BitVec 5) (off : BitVec 12) (s : State) : Out := branchOp condEq a b off s
def execBNe (a b : BitVec 5) (off : BitVec 12) (s : State) : Out := branchOp condNe a b off s
def execBLt (a b : BitVec 5) (off : BitVec 12) (s : State) : Out := branchOp condLt a b off s
def execBGe (a b : BitVec 5) (off : BitVec 12) (s : State) : Out := branchOp condGe a b off s
def execBLtu (a b : BitVec 5) (off : BitVec 12) (s : State) : Out := branchOp condLtu a b off s
def execBGeu (a b : BitVec 5) (off : BitVec 12) (s : State) : Out := branchOp condGeu a b off s

/-- `j` (04 R80). -/
def execJ (off : BitVec 25) (s : State) : Out := .next (retireTo (s.slot.pc + 2 * sext off) true s)

/-- An address with bit 0 cleared. -/
def evenAddr (a : Word) : Word := a &&& ~~~1

/-- `jr`: the leader's register names the target (04 R81). -/
def jrOp (a : BitVec 5) (s : State) : Out := withLeaderX a s fun x => .next (retireTo (evenAddr x) true s)

def execJr (a : BitVec 5) (s : State) : Out := jrOp a s
def execJrC (a : BitVec 5) (s : State) : Out := jrOp a s

/-! ### The window stack (01 R16; 04 R83 to R85) -/

/-- The columns of idle tiles in the order in which they are taken: the highest idle tile first, column 15 down (01 R16). -/
def idleColumns (l : Slot) : List (Nat × Nat) :=
  ((List.range (tileCount l)).reverse.filter fun t => !sget false l.busyTiles t).flatMap fun t =>
    (List.range 16).reverse.map fun c => (t, c)

/-- Bytes of the window backing (09 R191). -/
def backingBytes (l : Slot) : Nat := (partRegs l - 1) * 4096

/-- Spill-map entries that a stack with window base `w` and `calls` call records needs: the 64 youngest locations and the 16
youngest records are on the core, older records and then locations are in the backing, the rest in columns of 8 (log 9). -/
def spillNeed (l : Slot) (w calls : Nat) : Nat :=
  let room := (backingBytes l - 16 * (calls - 16)) / 8
  ((w + 24 - 64) - room + 7) / 8

/-- The spill map after a call, if there is room (04 R84). -/
def spillRoom (l : Slot) (w calls : Nat) : Option (List (Nat × Nat)) :=
  let need := spillNeed l w calls
  if backingBytes l < 16 * (calls - 16) then none
  else if need ≤ l.spill.length then some l.spill
  else
    let free := (idleColumns l).filter fun c => !l.spill.contains c
    let more := need - l.spill.length
    if need ≤ 32 ∧ more ≤ free.length then some (l.spill ++ free.take more) else none

/-- The tile holds spilled registers (01 R17). -/
def holdsSpill (l : Slot) (tile : Nat) : Bool := l.spill.any fun c => c.1 == tile

/-- Locations `loc` to `loc + n - 1` become 0. -/
def zeroLocs (l : Slot) (loc : Nat) : Nat → Slot
  | 0 => l
  | n + 1 => zeroLocs (putX l (loc + 8) 0 none) (loc + 1) n

/-- Call(k, target) (04 R83): the return address and k are recorded and the window slides. -/
def callTo (k : BitVec 5) (target : Word) (s : State) : Out :=
  let l := s.slot
  let w := l.wbase + k.toNat
  if 65511 < w then trap .window 0 s
  else
    match spillRoom l w (l.calls.length + 1) with
    | none => trap .window 0 s
    | some sp =>
      .next (retireTo target false (onSlot s fun l =>
        let l := { l with calls := ⟨l.pc + 4, k.toNat⟩ :: l.calls, wbase := w, spill := sp }
        zeroLocs l (w + 24 - k.toNat) k.toNat))

/-- `call.k` (04 R83). -/
def execCall (off : BitVec 20) (k : BitVec 5) (s : State) : Out := callTo k (s.slot.pc + 2 * sext off) s

/-- `callr.k`: the leader's register, read in the caller's frame, names the target (04 R83; 06 R124). -/
def execCallr (a k : BitVec 5) (s : State) : Out := withLeaderX a s fun x => callTo k (evenAddr x) s

/-- The locations above the frame are discarded, and the columns that the stack no longer needs are free (01 R16; 04 R85). -/
def popFrame (c : CallRec) (rest : List CallRec) (l : Slot) : Slot :=
  let w := l.wbase - c.k
  let top := w + 32
  { l with calls := rest, wbase := w, spill := l.spill.take (spillNeed l w rest.length)
           x := l.x.filter fun p => p.1 < top
           xPoison := l.xPoison.filter fun p => p.1 < top
           pending := l.pending.map fun p => { p with dst := p.dst.filter (· < top), dst2 := p.dst2.filter (· < top) } }

/-- Ret (04 R85). A `ret` whose record was pushed before the region opened is a boundary (20 R317). -/
def retOp (s : State) : Out :=
  match s.slot.calls with
  | [] => trap .window 1 s
  | c :: rest =>
    if s.slot.calls.length ≤ s.slot.region.calls then
      closeThen s fun s => .next (reopen (retireTo c.ret false (onSlot s (popFrame c rest))))
    else .next (retireTo c.ret false (onSlot s (popFrame c rest)))

def execRet (s : State) : Out := retOp s
def execRetC (s : State) : Out := retOp s

/-! ### Hardware loops (04 R86) -/

/-- A loop becomes active: the outer one if none was, else the inner one. -/
def activate (l : Slot) (p : Loop) : Slot :=
  match l.outer with
  | none => { l with outer := some p }
  | some _ => { l with inner := some p }

/-- LoopStart(count, len) (04 R86). -/
def loopStart (count : Word) (len : BitVec 11) (s : State) : Out :=
  if s.slot.inner.isSome then trap .loop 0 s
  else
    let start := s.slot.pc + 4
    let stop := start + 2 * (BitVec.ofNat 64 len.toNat + 1)
    if count = 0 then .next (retireTo stop false s)
    else .next (retireTo start false (onSlot s fun l => activate l ⟨start, stop, count⟩))

/-- `loop`: the leader's register gives the trip count (04 R86; 06 R124). -/
def execLoop (a : BitVec 5) (len : BitVec 11) (s : State) : Out := withLeaderX a s fun x => loopStart x len s

def execLoopi (count : BitVec 12) (len : BitVec 11) (s : State) : Out := loopStart (BitVec.ofNat 64 count.toNat) len s

end Sys2Proof.Machine
end

