-- ==== Sys2Proof/Machine/Draw.lean ====
section
/-! DEFINITION. Stochastic draws (15 R259, R260). -/

namespace Sys2Proof.Machine

/-- Seed: the first 16 bytes of SHA-256 over digest, inline argument block and chain id of the record (15 R259). -/
def drawSeed (r : Record) : List Byte :=
  (sha256 (beBytes 32 r.digest.toNat ++ r.args ++ leBytes 8 r.chain.toNat)).take 16

/-- Identity: the linear index, or all ones for an overflow activation (15 R259). -/
def drawIdentity (s : State) : Nat := if s.cur.slot = 4 then 0xFFFFFFFF else s.slot.linear

/-- The draw at a value of the counter (15 R259). -/
def drawAt (s : State) (counter : Word) : Nat :=
  let seed := (capOf s).elim (List.replicate 16 0) fun c => drawSeed c.info
  leNat ((aesEncrypt seed (leBytes 8 counter.toNat ++ leBytes 4 (drawIdentity s) ++ [0, 0, 0, 0])).take 2)

/-- The draw of element number `i` of the instruction in hand; 0 where the mode does not draw. -/
def drawOf (rnd : Rnd) (s : State) (i : Nat) : Nat := if rnd = .rsr then drawAt s (s.slot.draws + BitVec.ofNat 64 i) else 0

/-- `n` draws are taken where the mode draws (15 R260). -/
def takeDraws (rnd : Rnd) (n : Nat) (l : Slot) : Slot :=
  if rnd = .rsr then { l with draws := l.draws + BitVec.ofNat 64 n } else l

end Sys2Proof.Machine
end

