-- ==== Sys2Proof/Machine/Narrow.lean ====
section
/-! DEFINITION. The narrow formats, conversion into them, and the exact block arithmetic of the matrix engine (15 R249 to
R258; 17 R272, R282). -/

namespace Sys2Proof.Machine

/-- Element formats (15 Table 15-2; FP16 and BF16 beside them). -/
inductive Elem where
  | m8 | e43 | e52 | e23 | e32 | e21 | i8 | bf | h
  deriving DecidableEq, Repr

/-- Bits of an element (15 Table 15-3). -/
def elemBits : Elem → Nat
  | .m8 | .e43 | .e52 | .i8 => 8
  | .e23 | .e32 => 6
  | .e21 => 4
  | .bf | .h => 16

/-- DecodeM8 (15 R249). -/
def decodeM8 (b : Nat) : FVal :=
  let neg := b / 128 % 2 == 1
  let d := b / 64 % 2
  let p := b % 64
  if p = 0 then (if d = 0 then .fin neg 0 0 else .nan)
  else
    let n := bitLen p - 1
    let k : Int := 5 - n
    if n = 0 then .fin neg 1 (if d = 1 then 2 * k else -2 * k - 2)
    else
      let e : Int := ((p / 2 ^ (n - 1) % 2 : Nat) : Int)
      let w := n - 1
      let m := 2 ^ w + p % 2 ^ w
      .fin neg m ((if d = 1 then 2 * k + e else -2 * k - 2 + e) - w)

/-- An OCP format with every code finite: exponent bits, fraction bits, bias (15 Table 15-2). -/
def decodeMini (ebits mbits bias b : Nat) : FVal :=
  let neg := b / 2 ^ (ebits + mbits) % 2 == 1
  let ex := b / 2 ^ mbits % 2 ^ ebits
  let fr := b % 2 ^ mbits
  if ex = 0 then .fin neg fr (1 - (bias : Int) - mbits)
  else .fin neg (2 ^ mbits + fr) ((ex : Int) - bias - mbits)

/-- Decode of an element (15 R249, R251). -/
def decodeElem : Elem → Nat → FVal
  | .m8, b => decodeM8 b
  | .e43, b => if b % 128 = 127 then .nan else decodeMini 4 3 7 b
  | .e52, b => if b / 4 % 32 = 31 then (if b % 4 = 0 then .inf (b / 128 % 2 == 1) else .nan) else decodeMini 5 2 15 b
  | .e23, b => decodeMini 2 3 1 b
  | .e32, b => decodeMini 3 2 3 b
  | .e21, b => decodeMini 2 1 1 b
  | .i8, b => .fin (128 ≤ b % 256) (if 128 ≤ b % 256 then 256 - b % 256 else b % 256) 0
  | .bf, b => fdecode bf16 b
  | .h, b => fdecode fp16 b

/-- The codes of the non-negative finite values of a format, in increasing magnitude (15 Table 15-1, Table 15-2). -/
def magCodes : Elem → List Nat
  | .m8 => List.range 64 ++ (List.range 32).map (0x60 + ·) ++ (List.range 16).map (0x50 + ·) ++ (List.range 8).map (0x48 + ·)
      ++ (List.range 4).map (0x44 + ·) ++ [0x42, 0x43, 0x41]
  | .e43 => List.range 0x7F
  | .e52 => List.range 0x7C
  | .e23 | .e32 => List.range 32
  | .e21 => List.range 8
  | .i8 => List.range 129
  | .bf | .h => []

/-- The sign bit's weight. -/
def elemSign (t : Elem) : Nat := 2 ^ (elemBits t - 1)

/-- |a| as a multiple of 2^e. -/
def scaledTo (m : Nat) (ea e : Int) : Nat := m * 2 ^ (ea - e).toNat

/-- The neighbours of m 2^e among the magnitudes of a format: the codes of lo and hi, with their values as multiples of
a common power of two beside that of m 2^e; hi is missing above the largest. -/
def neighbours (t : Elem) (val : Nat → FVal) (m : Nat) (e : Int) : List Nat → Nat × Option Nat
  | [] => (0, none)
  | [c] => (c, none)
  | c :: c' :: rest =>
    match val c' with
    | .fin _ m' e' =>
      let q := min e e'
      if scaledTo m e q < scaledTo m' e' q then (c, some c') else neighbours t val m e (c' :: rest)
    | _ => (c, none)

/-- The magnitude that a code of `magCodes` stands for; for INT8 the code is the magnitude itself. -/
def magVal (t : Elem) (c : Nat) : FVal := if t = .i8 then .fin false c 0 else decodeElem t c

/-- The byte of a magnitude with its sign (15 R257). -/
def signCode (t : Elem) (neg : Bool) (c : Nat) : Nat :=
  if t = .i8 then (if neg then (256 - c) % 256 else c) else if neg then c + elemSign t else c

/-- Choice between lo and hi (15 Table 15-5); `num` over `den` is how far the value lies from lo to hi. -/
def chooseNarrow (mode : Rnd) (draw lo hi num den loOdd hiOdd : Nat) : Nat :=
  match mode with
  | .rtz => lo
  | .rto => if loOdd = 1 then lo else if hiOdd = 1 then hi else lo
  | .rne =>
    if 2 * num < den then lo else if den < 2 * num then hi
    else if loOdd = 0 then lo else if hiOdd = 0 then hi else lo
  | .rsr => if 2 ^ 16 ≤ 2 ^ 16 * num / den + draw then hi else lo

/-- Conversion into a format of 15 Table 15-2 (15 R257). -/
def narrow (t : Elem) (mode : Rnd) (draw : Nat) (v : FVal) : Nat :=
  match t, v with
  | .bf, v => fround bf16 mode draw v
  | .h, v => fround fp16 mode draw v
  | .m8, .nan => 0xC0
  | .e43, .nan => 0x7F
  | .e52, .nan => 0x7F
  | _, .nan => 0
  | .e52, .inf neg => if neg then 0xFC else 0x7C
  | .i8, .inf neg => if neg then 0x80 else 0x7F
  | t, .inf neg => signCode t neg ((magCodes t).getLastD 0)
  | t, .fin neg m e =>
    let codes := if t = .i8 ∧ neg = false then List.range 128 else magCodes t
    match neighbours t (magVal t) m e codes with
    | (lo, none) => signCode t neg lo
    | (lo, some hi) =>
      match magVal t lo, magVal t hi with
      | .fin _ ml el, .fin _ mh eh =>
        let q := min e (min el eh)
        let num := scaledTo m e q - scaledTo ml el q
        let den := scaledTo mh eh q - scaledTo ml el q
        if num = 0 then signCode t neg lo
        else signCode t neg (chooseNarrow mode draw lo hi num den (signCode t neg lo % 2) (signCode t neg hi % 2))
      | _, _ => signCode t neg lo

/-- The element formats of a pair (03 Table 3-10). -/
def pairElems : Pair → Elem × Elem
  | .m8m8 => (.m8, .m8) | .e43e43 => (.e43, .e43) | .e43e52 => (.e43, .e52) | .e52e43 => (.e52, .e43)
  | .e52e52 => (.e52, .e52) | .i8i8 => (.i8, .i8) | .e23e23 => (.e23, .e23) | .e23e32 => (.e23, .e32)
  | .e32e23 => (.e32, .e23) | .e32e32 => (.e32, .e32) | .e21e21 => (.e21, .e21) | .bfbf => (.bf, .bf) | .hh => (.h, .h)

/-- The elements of a 48-byte row, given as one little-endian number (15 R252). -/
def rowElems (t : Elem) (row : Nat) : List FVal :=
  (List.range (384 / elemBits t)).map fun k => decodeElem t (row / 2 ^ (elemBits t * k) % 2 ^ elemBits t)

def isInfVal : FVal → Bool
  | .inf _ => true
  | _ => false

def isZeroVal : FVal → Bool
  | .fin _ 0 _ => true
  | _ => false

/-- Truncate (15 R256): toward zero to a multiple of 2^q. -/
def truncTo (q : Int) : FVal → FVal
  | .fin n m e => if q ≤ e then .fin n m e else .fin n (m / 2 ^ (q - e).toNat) q
  | v => v

/-- floor(log2 |v|) of a non-zero finite value. -/
def flog2 : FVal → Option Int
  | .fin _ m e => if m = 0 then none else some (e + bitLen m - 1)
  | _ => none

/-- The sum S of the products of one element (15 R255, R256); none is a NaN. -/
def blockSum (p : Pair) (ps : List FVal) : FVal :=
  match ps.find? isInfVal with
  | some v => v
  | none =>
    let qs := if p = .bfbf then
        match (ps.filterMap flog2).max? with
        | some m => ps.map (truncTo (m - 80))
        | none => ps
      else ps
    qs.foldl fplus (.fin false 0 0)

/-- MatrixElement (15 R255) on rows decoded by their formats. -/
def matrixElement (c : Nat) (as bs : List FVal) (sA sB : Nat) (p : Pair) : Nat :=
  let a := fdecode fp32 sA
  let b := fdecode fp32 sB
  let ps := List.zipWith ftimes as bs
  if isNaN fp32 c || a == .nan || b == .nan || ps.contains .nan || (ps.contains (.inf false) && ps.contains (.inf true)) then
    fnan fp32
  else
    let v := ftimes (ftimes (blockSum p ps) a) b
    if v == .nan then fnan fp32
    else if isZeroVal v then c
    else fround fp32 .rne 0 (fplus v (fdecode fp32 c))

end Sys2Proof.Machine
end

