-- ==== Sys2Proof/Machine/Vector.lean ====
section
/-! DEFINITION. Vector and mask instructions (07 R135 to R148). -/

namespace Sys2Proof.Machine

/-! ### Lanes (07 R135, R136) -/

/-- Width of an integer element type (07 Table 7-1). -/
def itypeBits : IType → Nat
  | .b => 8 | .h => 16 | .w => 32 | .d => 64

/-- Lane `i` of width `w`. -/
def lane (w : Nat) (v : Vec) (i : Nat) : Nat := v.toNat / 2 ^ (w * i) % 2 ^ w

/-- The number whose lanes of width `w` are `xs`, lane 0 first. -/
def packLanes (w : Nat) : List Nat → Nat
  | [] => 0
  | x :: t => x % 2 ^ w + 2 ^ w * packLanes w t

/-- The register whose lane i is `f i`. -/
def ofLanes (w : Nat) (f : Nat → Nat) : Vec := BitVec.ofNat 512 (packLanes w ((List.range (512 / w)).map f))

/-- Active lanes take the result, the others keep their old value (07 R136). -/
def merge (w : Nat) (mk : Word) (old : Vec) (f : Nat → Nat) : Vec :=
  ofLanes w fun i => if mk.getLsbD i then f i else lane w old i

/-- vd := f lane by lane under the mask. -/
def laneOp (w : Nat) (d : BitVec 5) (mask : BitVec 3) (s : State) (f : Nat → Nat) : Out :=
  done 4 (onSlot s fun l => setV l d (merge w (mval l mask) (vval l d) f))

/-- `op.type vd, va, vb` on integer lanes (07 R140). -/
def vintOp (f : (w : Nat) → BitVec w → BitVec w → BitVec w) (d a b : BitVec 5) (ty : IType) (mask : BitVec 3) (s : State) : Out :=
  let w := itypeBits ty
  laneOp w d mask s fun i => (f w (BitVec.ofNat w (lane w (vval s.slot a) i)) (BitVec.ofNat w (lane w (vval s.slot b) i))).toNat

/-- `op.type vd, va` on integer lanes. -/
def vintUn (f : (w : Nat) → BitVec w → BitVec w) (d a : BitVec 5) (ty : IType) (mask : BitVec 3) (s : State) : Out :=
  vintOp (fun w x _ => f w x) d a 0 ty mask s

/-- An integer saturated to the signed range of `w` bits. -/
def satS (w : Nat) (v : Int) : BitVec w := BitVec.ofInt w (max (-(2 ^ (w - 1))) (min (2 ^ (w - 1) - 1) v))

/-- `op.type vd, va, vb` on floating lanes, rounded with rne (07 R137, R141). -/
def vfpOp (f : FFmt → Nat → Nat → Nat) (d a b : BitVec 5) (ty : FType) (mask : BitVec 3) (s : State) : Out :=
  let w := fwidth (ftypeFmt ty)
  laneOp w d mask s fun i => f (ftypeFmt ty) (lane w (vval s.slot a) i) (lane w (vval s.slot b) i)

/-- A fused form: vd is addend and destination (07 R142). -/
def vfmaOp (negP negC : Bool) (d a b : BitVec 5) (ty : FType) (mask : BitVec 3) (s : State) : Out :=
  let w := fwidth (ftypeFmt ty)
  laneOp w d mask s fun i =>
    ffma (ftypeFmt ty) .rne 0 negP negC (lane w (vval s.slot a) i) (lane w (vval s.slot b) i) (lane w (vval s.slot d) i)

/-- The mask whose bit i is `f i` for active lanes below `n`, and 0 elsewhere (07 R143). -/
def maskOf (n : Nat) (mk : Word) (f : Nat → Bool) : Word :=
  BitVec.ofNat 64 ((List.range n).foldl (fun a i => if mk.getLsbD i && f i then a + 2 ^ i else a) 0)

/-- An integer compare into a mask register. -/
def vcmpOp (f : (w : Nat) → BitVec w → BitVec w → Bool) (d : BitVec 3) (a b : BitVec 5) (ty : IType) (mask : BitVec 3)
    (s : State) : Out :=
  let w := itypeBits ty
  done 4 (onSlot s fun l => setM l d (maskOf (512 / w) (mval l mask) fun i =>
    f w (BitVec.ofNat w (lane w (vval l a) i)) (BitVec.ofNat w (lane w (vval l b) i))))

/-- A floating compare into a mask register. -/
def vfcmpOp (f : FFmt → Nat → Nat → Bool) (d : BitVec 3) (a b : BitVec 5) (ty : FType) (mask : BitVec 3) (s : State) : Out :=
  let w := fwidth (ftypeFmt ty)
  done 4 (onSlot s fun l => setM l d (maskOf (512 / w) (mval l mask) fun i =>
    f (ftypeFmt ty) (lane w (vval l a) i) (lane w (vval l b) i)))

/-! ### VINT (07 Table 7-4) -/

def execVadd (d a b : BitVec 5) (ty : IType) (mask : BitVec 3) (s : State) : Out := vintOp (fun _ x y => x + y) d a b ty mask s
def execVsub (d a b : BitVec 5) (ty : IType) (mask : BitVec 3) (s : State) : Out := vintOp (fun _ x y => x - y) d a b ty mask s
def execVmul (d a b : BitVec 5) (ty : IType) (mask : BitVec 3) (s : State) : Out := vintOp (fun _ x y => x * y) d a b ty mask s
def execVmulh (d a b : BitVec 5) (ty : IType) (mask : BitVec 3) (s : State) : Out := vintOp (fun w x y => BitVec.ofInt w (x.toInt * y.toInt / 2 ^ w)) d a b ty mask s
def execVmulhu (d a b : BitVec 5) (ty : IType) (mask : BitVec 3) (s : State) : Out := vintOp (fun w x y => BitVec.ofNat w (x.toNat * y.toNat / 2 ^ w)) d a b ty mask s
def execVmin (d a b : BitVec 5) (ty : IType) (mask : BitVec 3) (s : State) : Out := vintOp (fun _ x y => if x.sle y then x else y) d a b ty mask s
def execVmax (d a b : BitVec 5) (ty : IType) (mask : BitVec 3) (s : State) : Out := vintOp (fun _ x y => if x.sle y then y else x) d a b ty mask s
def execVminu (d a b : BitVec 5) (ty : IType) (mask : BitVec 3) (s : State) : Out := vintOp (fun _ x y => if x.ule y then x else y) d a b ty mask s
def execVmaxu (d a b : BitVec 5) (ty : IType) (mask : BitVec 3) (s : State) : Out := vintOp (fun _ x y => if x.ule y then y else x) d a b ty mask s
def execVand (d a b : BitVec 5) (ty : IType) (mask : BitVec 3) (s : State) : Out := vintOp (fun _ x y => x &&& y) d a b ty mask s
def execVor (d a b : BitVec 5) (ty : IType) (mask : BitVec 3) (s : State) : Out := vintOp (fun _ x y => x ||| y) d a b ty mask s
def execVxor (d a b : BitVec 5) (ty : IType) (mask : BitVec 3) (s : State) : Out := vintOp (fun _ x y => x ^^^ y) d a b ty mask s
def execVsll (d a b : BitVec 5) (ty : IType) (mask : BitVec 3) (s : State) : Out := vintOp (fun w x y => x <<< (y.toNat % w)) d a b ty mask s
def execVsrl (d a b : BitVec 5) (ty : IType) (mask : BitVec 3) (s : State) : Out := vintOp (fun w x y => x >>> (y.toNat % w)) d a b ty mask s
def execVsra (d a b : BitVec 5) (ty : IType) (mask : BitVec 3) (s : State) : Out := vintOp (fun w x y => x.sshiftRight (y.toNat % w)) d a b ty mask s
def execVadds (d a b : BitVec 5) (ty : IType) (mask : BitVec 3) (s : State) : Out := vintOp (fun w x y => satS w (x.toInt + y.toInt)) d a b ty mask s
def execVsubs (d a b : BitVec 5) (ty : IType) (mask : BitVec 3) (s : State) : Out := vintOp (fun w x y => satS w (x.toInt - y.toInt)) d a b ty mask s

def execVabs (d a : BitVec 5) (ty : IType) (mask : BitVec 3) (s : State) : Out := vintUn (fun _ x => if x.msb then -x else x) d a ty mask s
def execVneg (d a : BitVec 5) (ty : IType) (mask : BitVec 3) (s : State) : Out := vintUn (fun _ x => -x) d a ty mask s

/-- vdup: the low bits of X(a) in every active lane. -/
def execVdup (d a : BitVec 5) (ty : IType) (mask : BitVec 3) (s : State) : Out :=
  withX a s fun x => laneOp (itypeBits ty) d mask s fun _ => x.toNat

/-! ### VFP and VFMA (07 Table 7-5, R142) -/

def execVfadd (d a b : BitVec 5) (ty : FType) (mask : BitVec 3) (s : State) : Out := vfpOp (fun f x y => fadd2 f .rne 0 x y) d a b ty mask s
def execVfsub (d a b : BitVec 5) (ty : FType) (mask : BitVec 3) (s : State) : Out := vfpOp (fun f x y => fsub2 f .rne 0 x y) d a b ty mask s
def execVfmul (d a b : BitVec 5) (ty : FType) (mask : BitVec 3) (s : State) : Out := vfpOp (fun f x y => fmul2 f .rne 0 x y) d a b ty mask s
def execVfdiv (d a b : BitVec 5) (ty : FType) (mask : BitVec 3) (s : State) : Out := vfpOp (fun f x y => fdiv2 f .rne 0 x y) d a b ty mask s
def execVfmin (d a b : BitVec 5) (ty : FType) (mask : BitVec 3) (s : State) : Out := vfpOp (fmin2) d a b ty mask s
def execVfmax (d a b : BitVec 5) (ty : FType) (mask : BitVec 3) (s : State) : Out := vfpOp (fmax2) d a b ty mask s
def execVfsqrt (d a : BitVec 5) (ty : FType) (mask : BitVec 3) (s : State) : Out := vfpOp (fun f x _ => fsqrt1 f .rne 0 x) d a a ty mask s
def execVfabs (d a : BitVec 5) (ty : FType) (mask : BitVec 3) (s : State) : Out := vfpOp (fun f x _ => withSign f x false) d a a ty mask s
def execVfneg (d a : BitVec 5) (ty : FType) (mask : BitVec 3) (s : State) : Out := vfpOp (fun f x _ => withSign f x (!signBit f x)) d a a ty mask s

/-- vfdup: the raw low bits of fa. -/
def execVfdup (d a : BitVec 5) (ty : FType) (mask : BitVec 3) (s : State) : Out :=
  laneOp (fwidth (ftypeFmt ty)) d mask s fun _ => (fval s.slot a).toNat

def execVfmadd (d a b : BitVec 5) (ty : FType) (mask : BitVec 3) (s : State) : Out := vfmaOp false false d a b ty mask s
def execVfmsub (d a b : BitVec 5) (ty : FType) (mask : BitVec 3) (s : State) : Out := vfmaOp false true d a b ty mask s
def execVfnmadd (d a b : BitVec 5) (ty : FType) (mask : BitVec 3) (s : State) : Out := vfmaOp true true d a b ty mask s
def execVfnmsub (d a b : BitVec 5) (ty : FType) (mask : BitVec 3) (s : State) : Out := vfmaOp true false d a b ty mask s

/-! ### Compares (07 R143) -/

def execVceq (d : BitVec 3) (a b : BitVec 5) (ty : IType) (mask : BitVec 3) (s : State) : Out :=
  vcmpOp (fun _ x y => x == y) d a b ty mask s
def execVcne (d : BitVec 3) (a b : BitVec 5) (ty : IType) (mask : BitVec 3) (s : State) : Out :=
  vcmpOp (fun _ x y => x != y) d a b ty mask s
def execVclt (d : BitVec 3) (a b : BitVec 5) (ty : IType) (mask : BitVec 3) (s : State) : Out :=
  vcmpOp (fun _ x y => x.slt y) d a b ty mask s
def execVcle (d : BitVec 3) (a b : BitVec 5) (ty : IType) (mask : BitVec 3) (s : State) : Out :=
  vcmpOp (fun _ x y => x.sle y) d a b ty mask s
def execVcltu (d : BitVec 3) (a b : BitVec 5) (ty : IType) (mask : BitVec 3) (s : State) : Out :=
  vcmpOp (fun _ x y => x.ult y) d a b ty mask s
def execVcleu (d : BitVec 3) (a b : BitVec 5) (ty : IType) (mask : BitVec 3) (s : State) : Out :=
  vcmpOp (fun _ x y => x.ule y) d a b ty mask s
def execVfceq (d : BitVec 3) (a b : BitVec 5) (ty : FType) (mask : BitVec 3) (s : State) : Out :=
  vfcmpOp feq2 d a b ty mask s
def execVfclt (d : BitVec 3) (a b : BitVec 5) (ty : FType) (mask : BitVec 3) (s : State) : Out :=
  vfcmpOp flt2 d a b ty mask s
def execVfcle (d : BitVec 3) (a b : BitVec 5) (ty : FType) (mask : BitVec 3) (s : State) : Out :=
  vfcmpOp fle2 d a b ty mask s

/-! ### Mask registers (07 Table 7-6) -/

/-- md := f(ma, mb). -/
def maskOp (f : Word → Word → Word) (d a b : BitVec 3) (s : State) : Out :=
  done 4 (onSlot s fun l => setM l d (f (mval l a) (mval l b)))

def execMand (d a b : BitVec 3) (s : State) : Out := maskOp (fun x y => x &&& y) d a b s
def execMor (d a b : BitVec 3) (s : State) : Out := maskOp (fun x y => x ||| y) d a b s
def execMxor (d a b : BitVec 3) (s : State) : Out := maskOp (fun x y => x ^^^ y) d a b s
def execMandn (d a b : BitVec 3) (s : State) : Out := maskOp (fun x y => x &&& ~~~y) d a b s
def execMnot (d a : BitVec 3) (s : State) : Out := maskOp (fun x _ => ~~~x) d a a s
def execMpopc (d : BitVec 5) (a : BitVec 3) (s : State) : Out := done 4 (onSlot s fun l => setX l d (popcW (mval l a)))
def execMfirst (d : BitVec 5) (a : BitVec 3) (s : State) : Out := done 4 (onSlot s fun l => setX l d (ctzW (mval l a)))
def execMfromx (d : BitVec 3) (a : BitVec 5) (s : State) : Out := withX a s fun x => done 4 (onSlot s fun l => setM l d x)
def execMtox (d : BitVec 5) (a : BitVec 3) (s : State) : Out := done 4 (onSlot s fun l => setX l d (mval l a))

/-! ### Forms that span a gang (07 R138, R145, R146) -/

/-- The members of the gang as the instruction issued, leader first; the slot alone outside one. -/
def members (s : State) : List Slot := if s.latch.isEmpty then [s.slot] else s.latch.map fun m => m.2

/-- Gang lane `j` of register `a`. -/
def gangLane (w : Nat) (s : State) (a : BitVec 5) (j : Nat) : Nat :=
  let n := 512 / w
  match (members s)[j / n]? with
  | some l => lane w (vval l a) (j % n)
  | none => 0

/-- Lanes of the gang vector. -/
def gangLanes (w : Nat) (s : State) : Nat := (members s).length * (512 / w)

/-- The gang lane of the slot's own lane `i`. -/
def ownLane (w : Nat) (s : State) (i : Nat) : Nat := s.slot.gangPos * (512 / w) + i

/-- vsel: the mask field selects, and no lane keeps its old value. -/
def execVsel (d a b : BitVec 5) (ty : IType) (mask : BitVec 3) (s : State) : Out :=
  let w := itypeBits ty
  done 4 (onSlot s fun l => setV l d (ofLanes w fun i => lane w (vval l (if (mval l mask).getLsbD i then a else b)) i))

def execVperm (d a b : BitVec 5) (ty : IType) (mask : BitVec 3) (s : State) : Out :=
  let w := itypeBits ty
  laneOp w d mask s fun i => gangLane w s a (lane w (vval s.slot b) i % gangLanes w s)

def execVslup (d a b : BitVec 5) (ty : IType) (mask : BitVec 3) (s : State) : Out :=
  let w := itypeBits ty
  withLeaderX b s fun x => laneOp w d mask s fun i =>
    let j := ownLane w s i
    if x.toNat ≤ j then gangLane w s a (j - x.toNat) else 0

def execVsldn (d a b : BitVec 5) (ty : IType) (mask : BitVec 3) (s : State) : Out :=
  let w := itypeBits ty
  withLeaderX b s fun x => laneOp w d mask s fun i =>
    let j := ownLane w s i + x.toNat
    if j < gangLanes w s then gangLane w s a j else 0

def execVext (d a b : BitVec 5) (ty : IType) (s : State) : Out :=
  let w := itypeBits ty
  withLeaderX b s fun x => done 4 (onSlot s fun l =>
    setX l d (sext (BitVec.ofNat w (gangLane w s a (x.toNat % gangLanes w s)))))

def execVins (d a b : BitVec 5) (ty : IType) (s : State) : Out :=
  let w := itypeBits ty
  withLeaderReady [a, b] s <| withLeaderX a s fun v => withLeaderX b s fun x =>
    let j := x.toNat % gangLanes w s
    if j / (512 / w) = s.slot.gangPos then
      done 4 (onSlot s fun l => setV l d (ofLanes w fun i => if i = j % (512 / w) then v.toNat else lane w (vval l d) i))
    else done 4 s

/-- One level of the tree: neighbours are combined (07 R146). -/
def pairUp {α : Type} (f : α → α → α) : List α → List α
  | x :: y :: t => f x y :: pairUp f t
  | t => t

/-- The tree over a list whose length is a power of two; `fuel` bounds its levels. -/
def treeFold {α : Type} (f : α → α → α) (unit : α) : Nat → List α → α
  | 0, xs => xs.headD unit
  | fuel + 1, xs =>
    match xs with
    | [] => unit
    | [x] => x
    | xs => treeFold f unit fuel (pairUp f xs)

/-- The gang lanes of register `a`, with the identity in inactive ones; each member's own mask governs its lanes. -/
def reduceLanes {α : Type} (w : Nat) (val : Nat → α) (unit : α) (a : BitVec 5) (mask : BitVec 3) (s : State) : List α :=
  (members s).flatMap fun l => (List.range (512 / w)).map fun i =>
    if (mval l mask).getLsbD i then val (lane w (vval l a) i) else unit

/-- An integer reduction into xd. -/
def vredOp (f : Word → Word → Word) (unit : Word) (d a : BitVec 5) (ty : IType) (mask : BitVec 3) (s : State) : Out :=
  let w := itypeBits ty
  done 4 (onSlot s fun l => setX l d (treeFold f unit 10 (reduceLanes w (fun n => sext (BitVec.ofNat w n)) unit a mask s)))

/-- A floating reduction into fd. -/
def vfredOp (f : FFmt → Nat → Nat → Nat) (unit : FFmt → Nat) (d a : BitVec 5) (ty : FType) (mask : BitVec 3) (s : State) : Out :=
  let t := ftypeFmt ty
  done 4 (onSlot s fun l => setF l d (BitVec.ofNat 64
    (treeFold (f t) (unit t) 10 (reduceLanes (fwidth t) (fun n => n) (unit t) a mask s))))

def execVrsum (d a : BitVec 5) (ty : IType) (mask : BitVec 3) (s : State) : Out := vredOp (fun x y => x + y) 0 d a ty mask s
def execVrmin (d a : BitVec 5) (ty : IType) (mask : BitVec 3) (s : State) : Out :=
  vredOp (fun x y => if x.sle y then x else y) (BitVec.ofNat 64 (2 ^ 63 - 1)) d a ty mask s
def execVrmax (d a : BitVec 5) (ty : IType) (mask : BitVec 3) (s : State) : Out :=
  vredOp (fun x y => if x.sle y then y else x) (BitVec.ofNat 64 (2 ^ 63)) d a ty mask s
def execVfrsum (d a : BitVec 5) (ty : FType) (mask : BitVec 3) (s : State) : Out :=
  vfredOp (fun f x y => fadd2 f .rne 0 x y) fsign d a ty mask s
def execVfrmin (d a : BitVec 5) (ty : FType) (mask : BitVec 3) (s : State) : Out := vfredOp fmin2 finf d a ty mask s
def execVfrmax (d a : BitVec 5) (ty : FType) (mask : BitVec 3) (s : State) : Out :=
  vfredOp fmax2 (fun f => fsign f + finf f) d a ty mask s

/-! ### Conversions (07 R147, R148) -/

/-- Width of a format of `vcvt` (03 R63). -/
def cfmtBits : CFmt → Nat
  | .ib => 8 | .ih | .h | .bf => 16 | .iw | .s => 32 | .id | .d => 64

/-- The floating format of a code, if it is one. -/
def cfmtFloat : CFmt → Option FFmt
  | .h => some fp16 | .bf => some bf16 | .s => some fp32 | .d => some fp64
  | .ib | .ih | .iw | .id => none

/-- One conversion (07 Table 7-9). -/
def convert (src dst : CFmt) (rnd : Rnd) (draw v : Nat) : Nat :=
  match cfmtFloat src, cfmtFloat dst with
  | some f, some t => fround t rnd draw (fdecode f v)
  | some f, none => (BitVec.ofInt (cfmtBits dst) (toInteger f (cfmtBits dst) rnd draw v)).toNat
  | none, some t => ofInteger t rnd draw (BitVec.ofNat (cfmtBits src) v).toInt
  | none, none => (satS (cfmtBits dst) (BitVec.ofNat (cfmtBits src) v).toInt).toNat

/-- Active lanes below `i`. -/
def activeBelow (mk : Word) (i : Nat) : Nat := (List.range i).countP fun j => mk.getLsbD j

/-- `vcvt.to.from.rnd vd, va` (07 R147). -/
def execVcvt (d a : BitVec 5) (src dst : CFmt) (rnd : Rnd) (mask : BitVec 3) (s : State) : Out :=
  let wf := cfmtBits src
  let wt := cfmtBits dst
  let k := 512 / max wf wt
  let mk := mval s.slot mask
  let res := (List.range (512 / wt)).map fun i =>
    if i < k then
      if mk.getLsbD i then convert src dst rnd (drawOf rnd s (activeBelow mk i)) (lane wf (vval s.slot a) i)
      else lane wt (vval s.slot d) i
    else 0
  done 4 (onSlot s fun l => takeDraws rnd (activeBelow mk k) (setV l d (BitVec.ofNat 512 (packLanes wt res))))

end Sys2Proof.Machine
end

