-- ==== Sys2Proof/Machine/Matrix.lean ====
section
/-! DEFINITION. The matrix engine and its instructions (16 R261 to R271; 17 R272 to R284). -/

namespace Sys2Proof.Machine

/-- tr.value of ENGINE (16 Table 16-4; 18 R289). -/
def engineValue (unit detail reason : Nat) : Word := BitVec.ofNat 64 (unit * 2 ^ 56 + detail * 2 ^ 8 + reason)

/-- A range of a command: its address, bytes, and whether it is a result (16 Table 16-2). -/
structure MRange where
  ea : Word
  n : Nat
  result : Bool
  deriving DecidableEq, Repr

/-- Bytes of a tile row in memory (16 R265). -/
def rowBytes : MType → Nat
  | .s => 64
  | .bf | .h => 32

/-- The pool offset of a range that has passed 16 R265. -/
def rangeOff (r : MRange) : Nat := bits r.ea.toNat 0 19

/-- The first byte of `lo` to `lo + n - 1` that lies in `a` to `b - 1`. -/
def firstShared (lo a : Nat) : Nat := max lo a

/-- The lowest of `n` bytes at pool offset `off`, which `ea` names, that lies in one of some locks. -/
def lowestLocked (ls : List Lock) (ea : Word) (off n : Nat) : Option Word :=
  (((ls.filter fun l => overlaps off n l.lo (l.hi - l.lo)).map fun l => firstShared off l.lo).min?).map fun b =>
    ea + BitVec.ofNat 64 (b - off)

/-- Step 5 of 16 Table 16-3: the first byte of a range that meets a lock of another slot. -/
def lockClash (s : State) (r : MRange) : Option Word :=
  lowestLocked ((coreOf s s.cur.core).locks.filter fun l => l.slot != s.cur.slot && (r.result || l.result)) r.ea (rangeOff r) r.n

/-- Step 7: the first byte of a range in a poisoned granule. -/
def firstPoison (s : State) (r : MRange) : Option Word :=
  let off := rangeOff r
  if s.mem.anyPoison (poolKey s.cur.core off) r.n then
    ((List.range r.n).find? fun i => s.mem.poisoned (poolKey s.cur.core (off + i))).map fun i => r.ea + BitVec.ofNat 64 i
  else none

/-- Step 9: an entry of the slot's store buffer that a range overlaps. -/
def bufOverlap (l : Slot) (off n : Nat) : Bool := l.storeBuf.any fun e => e.bytes.any fun b => off ≤ b.1 && b.1 < off + n

/-- Steps 4 to 9 of 16 Table 16-3, and then `k`. Where at step 6 one range or channel would stall the command and another is faulted, the first
range decides, and in it the lowest channel that objects: the table does not say (DESIGN CHOICE, log 69). -/
def withRanges (s : State) (rs : List MRange) (k : Out) : Out :=
  match rs.find? fun r => (localOff s r.ea r.n).isNone with
  | some r => trap .rights r.ea s
  | none =>
    match rs.findSome? (lockClash s) with
    | some v => trap .range v s
    | none =>
      match (rs.map fun r => chansView s.slot (rangeOff r) r.n).find? fun v => v != .pass with
      | some (.faulted ch) => trap .copyfault (BitVec.ofNat 64 ch) s
      | some _ => stall s
      | none =>
        match (rs.filter fun r => !r.result).findSome? (firstPoison s) with
        | some v => trap .poison v s
        | none =>
          if 32 < (coreOf s s.cur.core).locks.length + rs.length then stall s
          else if rs.any fun r => bufOverlap s.slot (rangeOff r) r.n then stall s
          else if rs.any fun r => r.result && copySourceBusy s (rangeOff r) r.n then stall s
          else k

/-- The slot's queue has room: an entry freed in this cycle is none yet (16 R261). -/
def mxRoom (s : State) : Bool :=
  let freed := if s.slot.mxFreed = some (dieCycles s (dieOf s.cur.core)) then 1 else 0
  decide (s.slot.mxQueue.length + freed < 2)

/-- Room in the queue is readiness: without it no source is looked at (06 R121; 16 R261). -/
def withRoom (s : State) (k : Out) : Out := if mxRoom s then k else stall s

/-- Steps 1 and 2: the tile exists and holds no spilled registers. -/
def withTile (s : State) (tile : Nat) (k : Out) : Out :=
  if s.cur.slot = 4 ∨ tileCount s.slot ≤ tile then trap .engine (engineValue 0 tile 1) s
  else if holdsSpill s.slot tile then trap .window (BitVec.ofNat 64 (0x100 + tile)) s
  else k

/-- The tile that a command names. -/
def cmdTile : MCmd → Nat
  | .mma t _ _ _ _ _ _ => t
  | .mclr t => t
  | .mld t _ _ _ => t
  | .mst t _ _ _ _ _ => t

/-- The granules, by memory's numbers, of `n` bytes at `off` of a pool. -/
def poolGranules (c : CoreId) (off n : Nat) : List Nat :=
  let k := poolKey c off
  (List.range ((k + n - 1) / 64 - k / 64 + 1)).map fun j => k / 64 + j

/-- Those of sixteen rows of `n` bytes, `stride` apart. -/
def rowGranules (c : CoreId) (off stride n : Nat) : List Nat := (List.range 16).flatMap fun i => poolGranules c (off + i * stride) n

/-- The granules that a command writes. -/
def resultGranules (c : CoreId) : MCmd → List Nat
  | .mst _ xa cs ty _ _ => rowGranules c xa cs (rowBytes ty)
  | _ => []

/-- The granules that a command reads. -/
def operandGranules (c : CoreId) : MCmd → List Nat
  | .mma _ xa xb as bs _ _ => rowGranules c xa as 48 ++ rowGranules c xb bs 48
  | .mld _ xa cs ty => rowGranules c xa cs (rowBytes ty)
  | _ => []

/-- The command writes a granule of `gs`, or has still to read one. -/
def meetsGranule (c : CoreId) (gs : List Nat) (e : MEntry) : Bool :=
  (resultGranules c e.cmd).any gs.contains || (e.rows.isNone && (operandGranules c e.cmd).any gs.contains)

/-- The accepted commands of a core that `f` holds of have met a byte that became poisoned (16 R269). -/
def strike (s : State) (c : CoreId) (f : MEntry → Bool) : State :=
  let hit : MEntry → MEntry := fun e => if f e then { e with struck := true } else e
  let s := (List.range 4).foldl (fun s j => modSlot s ⟨c, j⟩ fun l => { l with mxQueue := l.mxQueue.map hit }) s
  modCore s c fun k => { k with mxRun := k.mxRun.map hit }

/-- The command enters the slot's queue and its ranges are locked (16 R267); `busy`: the tile is no longer idle. -/
def enqueue (s : State) (cmd : MCmd) (rs : List MRange) (busy : Option Nat) : State :=
  let id := s.fresh
  let s := modCore s s.cur.core fun k =>
    { k with locks := k.locks ++ rs.map fun r => ⟨id, s.cur.slot, rangeOff r, rangeOff r + r.n, r.result⟩ }
  let s := onSlot s fun l =>
    let e : MEntry :=
      { id := id, slot := s.cur.slot, cmd := cmd, issued := dieCycles s (dieOf s.cur.core) }
    { l with mxQueue := l.mxQueue ++ [e]
             busyTiles := busy.elim l.busyTiles fun t => sput l.busyTiles t true }
  bump s

/-- `mma` (17 R275): a region boundary (20 R317). -/
def mmaOp (tile : Nat) (a b f : BitVec 5) (pair : Pair) (s : State) : Out :=
  withRoom s <| withReady [a, b] s <| withX a s fun x => withX b s fun y =>
    withTile s tile <|
      if x.toNat % 16 ≠ 0 then trap .engine (engineValue 0 0 2) s
      else if y.toNat % 16 ≠ 0 then trap .engine (engineValue 0 1 2) s
      else
        let rs : List MRange := [⟨x, 15 * s.slot.astride + 48, false⟩, ⟨y, 15 * s.slot.bstride + 48, false⟩]
        withRanges s rs <|
          closeThen s fun s =>
            doneBoundary 4 (enqueue s (.mma tile (bits x.toNat 0 19) (bits y.toNat 0 19) s.slot.astride s.slot.bstride
              (fval s.slot f) pair) rs (some tile))

def execMmaLo (a b f n : BitVec 5) (pair : Pair) (s : State) : Out := mmaOp n.toNat a b f pair s
def execMmaHi (a b f n : BitVec 5) (pair : Pair) (s : State) : Out := mmaOp (32 + n.toNat) a b f pair s

/-- `mclr` (17 R277). -/
def execMclr (n : BitVec 6) (s : State) : Out :=
  withRoom s <| withTile s n.toNat <| closeThen s fun s => doneBoundary 4 (enqueue s (.mclr n.toNat) [] (some n.toNat))

/-- Step 3 for `mld` and `mst`. -/
def withRows (s : State) (x : Word) (ty : MType) (k : Out) : Out :=
  if x.toNat % 16 ≠ 0 then trap .engine (engineValue 0 0 2) s
  else if s.slot.cstride < rowBytes ty then trap .engine (engineValue 0 2 5) s
  else k

/-- `mld` (17 R278): a region boundary. -/
def execMld (n : BitVec 6) (a : BitVec 5) (ty : MType) (s : State) : Out :=
  withRoom s <| withX a s fun x =>
    withTile s n.toNat <| withRows s x ty <|
      let rs : List MRange := [⟨x, 15 * s.slot.cstride + rowBytes ty, false⟩]
      withRanges s rs <|
        closeThen s fun s =>
          doneBoundary 4 (enqueue s (.mld n.toNat (bits x.toNat 0 19) s.slot.cstride ty) rs (some n.toNat))

/-- `mst` (17 R279, R280): its draws are taken at issue. -/
def execMst (n : BitVec 6) (a : BitVec 5) (ty : MType) (rnd : Rnd) (s : State) : Out :=
  withRoom s <| withX a s fun x =>
    withTile s n.toNat <| withRows s x ty <|
      let rs : List MRange := [⟨x, 15 * s.slot.cstride + rowBytes ty, true⟩]
      withRanges s rs <|
        done 4 (onSlot (enqueue s (.mst n.toNat (bits x.toNat 0 19) s.slot.cstride ty rnd s.slot.draws) rs none)
          (takeDraws rnd 256))

/-- `mcfg n, xa` (16 R263, R264; 17 R281). -/
def execMcfg (a n : BitVec 5) (s : State) : Out :=
  withX a s fun x =>
    let v := x.toNat
    let ab := v == 0 || (v % 16 == 0 && 48 ≤ v && v ≤ 65520)
    if s.cur.slot = 4 then trap .engine (engineValue 0 n.toNat 3) s
    else
      match n.toNat with
      | 0 => if ab then done 4 (onSlot s fun l => { l with astride := v }) else trap .engine (engineValue 0 0 4) s
      | 1 => if ab then done 4 (onSlot s fun l => { l with bstride := v }) else trap .engine (engineValue 0 1 4) s
      | 2 =>
        if v % 16 = 0 ∧ 32 ≤ v ∧ v ≤ 65520 then done 4 (onSlot s fun l => { l with cstride := v })
        else trap .engine (engineValue 0 2 4) s
      | m => trap .engine (engineValue 0 m 3) s

/-! ### The engine (16 R268, R269) -/

/-- Occupancy in cycles (16 Table 16-5). -/
def occupancy : MCmd → Nat
  | .mma _ _ _ _ _ _ _ => 4
  | .mclr _ => 1
  | .mld _ _ _ ty => if ty = .s then 16 else 8
  | .mst _ _ _ ty _ _ => if ty = .s then 16 else 8

/-- Cycles from start to retirement (16 Table 16-5). -/
def latency : MCmd → Nat
  | .mma _ _ _ _ _ _ _ => 12
  | .mclr _ => 2
  | .mld _ _ _ ty => if ty = .s then 18 else 10
  | .mst _ _ _ ty _ _ => if ty = .s then 18 else 10

/-- Sixteen rows of `n` bytes at `off`, `stride` apart, as numbers, with the presence of poison. -/
def readRows (s : State) (c : CoreId) (off stride n : Nat) : List Nat × Bool :=
  ((List.range 16).map fun i => leNat (s.mem.raws n (poolKey c (off + i * stride))),
   (List.range 16).any fun i => s.mem.anyPoison (poolKey c (off + i * stride)) n)

/-- The operands that a command reads from the pool. -/
def cmdRows (s : State) (c : CoreId) : MCmd → List Nat × Bool
  | .mma _ xa xb as bs _ _ =>
    let a := readRows s c xa as 48
    let b := readRows s c xb bs 48
    (a.1 ++ b.1, a.2 || b.2)
  | .mld _ xa cs ty => readRows s c xa cs (rowBytes ty)
  | .mclr _ => ([], false)
  | .mst _ _ _ _ _ _ => ([], false)

/-- The operands are read before the engine's next start (17 R276): all of them together at that start, or at the retirement where no start comes
before it. The rule lets every byte have an instant of its own (DESIGN CHOICE, log 80). -/
def captureRows (s : State) (c : CoreId) (e : MEntry) : MEntry :=
  match e.rows with
  | some _ => e
  | none => { e with rows := some (cmdRows s c e.cmd) }

def tileWord (l : Slot) (t i j : Nat) : BitVec 32 := sget 0 l.tiles (256 * t + 16 * i + j)

/-- A tile whose element (i, j) is `f i j`. -/
def setTile (l : Slot) (t : Nat) (f : Nat → Nat → BitVec 32) : Slot :=
  { l with tiles := (List.range 256).foldl (fun m n => sset 0 m (256 * t + n) (f (n / 16) (n % 16))) l.tiles
           poisonTiles := serase l.poisonTiles t }

/-- An element of memory as FP32 (17 R278). -/
def loadElem (ty : MType) (row j : Nat) : BitVec 32 :=
  match ty with
  | .s => BitVec.ofNat 32 (row / 2 ^ (32 * j))
  | .bf => BitVec.ofNat 32 (fround fp32 .rne 0 (fdecode bf16 (row / 2 ^ (16 * j))))
  | .h => BitVec.ofNat 32 (fround fp32 .rne 0 (fdecode fp16 (row / 2 ^ (16 * j))))

/-- The bytes of tile element (i, j) as `mst` stores it (17 R279). -/
def storeElem (s : State) (l : Slot) (t : Nat) (ty : MType) (rnd : Rnd) (counter : Word) (i j : Nat) : List Byte :=
  let c := (tileWord l t i j).toNat
  let draw := if rnd = .rsr then drawAt s (counter + BitVec.ofNat 64 (16 * i + j)) else 0
  match ty with
  | .s => leBytes 4 c
  | .bf => leBytes 2 (fround bf16 rnd draw (fdecode fp32 c))
  | .h => leBytes 2 (fround fp16 rnd draw (fdecode fp32 c))

/-- Rows written to a pool: a granule that they cover entirely loses its mark, or all are marked where `bad` (16 R269; 17 R279). -/
def writeRows (m : Memory) (c : CoreId) (off stride n : Nat) (rows : List (List Byte)) (bad : Bool) : Memory :=
  let m := m.pokes (rows.zipIdx.flatMap fun r => r.1.zipIdx.map fun b => (poolKey c (off + r.2 * stride + b.2), b.1))
  let covered : Nat → Bool := fun o => off ≤ o && o < off + 15 * stride + n && (o - off) % stride < n
  let g0 := off / 64
  let g1 := (off + 15 * stride + n - 1) / 64
  (List.range (g1 - g0 + 1)).foldl (fun m i =>
    let g := g0 + i
    let k := poolKey c (64 * g)
    let touched := (List.range 64).any fun j => covered (64 * g + j)
    let whole := (List.range 64).all fun j => covered (64 * g + j)
    if bad && touched then { m with poison := sput m.poison (k / 64) true }
    else if whole then m.clearPoison k else m) m

/-- A soft error is counted (26 R405). -/
def countSoft (s : State) (d : Nat) (bad : Bool) : State :=
  if bad then modDie s d fun x => { x with softerr := x.softerr + 1 } else s

/-- The effect of a command when it retires (16 R269; 17 R275 to R279), for slot `id` whose record is `getSlot s id`. `mma` and `mst` of a
tile that was marked before their checks act as on one marked after them (DESIGN CHOICE, log 72). Granules that an `mst` marks strike the
commands that follow it. Its bytes are performed all together as it retires, though 11 Table 11-1 lets them be performed one by one as they are
written (DESIGN CHOICE, log 80). -/
def perform (s : State) (id : SlotId) (e : MEntry) : State :=
  let l := getSlot s id
  let (rows, badRows) := e.rows.getD (cmdRows s id.core e.cmd)
  let d := dieOf id.core
  match e.cmd with
  | .mma t _ _ _ _ scales pair =>
    let bad := badRows || e.struck || sget false l.poisonTiles t
    let (ea, eb) := pairElems pair
    let as := (rows.take 16).map (rowElems ea)
    let bs := (rows.drop 16).map (rowElems eb)
    let sA := bits scales.toNat 32 32
    let sB := bits scales.toNat 0 32
    countSoft (modSlot s id fun l => setTile l t fun i j =>
      if bad then 0x7FC00000
      else BitVec.ofNat 32 (matrixElement (tileWord l t i j).toNat (as.getD i []) (bs.getD j []) sA sB pair)) d bad
  | .mclr t =>
    countSoft (modSlot s id fun l => setTile l t fun _ _ => if e.struck then 0x7FC00000 else 0) d e.struck
  | .mld t _ _ ty =>
    let bad := badRows || e.struck
    countSoft (modSlot s id fun l => setTile l t fun i j =>
      if bad then 0x7FC00000 else loadElem ty (rows.getD i 0) j) d bad
  | .mst t xa cs ty rnd counter =>
    let bad := sget false l.poisonTiles t || e.struck
    let s' := focus s id
    let out := (List.range 16).map fun i => (List.range 16).flatMap fun j => storeElem s' l t ty rnd counter i j
    let s := countSoft { s with mem := writeRows s.mem id.core xa cs (rowBytes ty) out bad } d bad
    if bad then strike s id.core (meetsGranule id.core (resultGranules id.core e.cmd)) else s

/-- The slots in the order in which the engine looks at their queues (16 R268). -/
def mxOrder (k : Core) : List Nat := (List.range 4).map fun i => (k.mxLast + 1 + i) % 4

/-- The first command in the engine that has no earlier command of its slot before it and whose time, in cycles, has come. -/
def mxDue (now : Nat) : List Nat → List MEntry → Option MEntry
  | _, [] => none
  | seen, e :: t =>
    if !seen.contains e.slot && e.started + latency e.cmd ≤ now then some e else mxDue now (e.slot :: seen) t

/-- The slot whose command the engine may start now. -/
def mxStartable (s : State) (c : CoreId) : Option Nat :=
  let k := coreOf s c
  let t := dieCycles s (dieOf c)
  if t < k.mxNext ∨ (mxDue t [] k.mxRun).isSome = true then none
  else (mxOrder k).find? fun j => match (getSlot s ⟨c, j⟩).mxQueue with
    | e :: _ => e.issued + 1 ≤ t
    | [] => false

/-- ENGINE_COMMAND_START (16 R268): the commands before it have read their operands by now (17 R276). -/
def execEngineCommandStart (s : State) : Out :=
  let c := s.arg.core
  match mxStartable s c with
  | none => .next s
  | some j =>
    match (getSlot s ⟨c, j⟩).mxQueue with
    | [] => .next s
    | e :: rest =>
      let s' := modSlot s ⟨c, j⟩ fun l => { l with mxQueue := rest, mxFreed := some (dieCycles s (dieOf c)) }
      .next (modCore s' c fun k =>
        { k with mxRun := k.mxRun.map (captureRows s c) ++ [{ e with started := dieCycles s (dieOf c) }]
                 mxLast := j, mxNext := dieCycles s (dieOf c) + occupancy e.cmd })

/-- ENGINE_COMMAND_RETIRE (16 R269). -/
def execEngineCommandRetire (s : State) : Out :=
  let c := s.arg.core
  match mxDue (dieCycles s (dieOf c)) [] (coreOf s c).mxRun with
  | none => .next s
  | some e =>
    let s := perform s ⟨c, e.slot⟩ e
    .next (modCore s c fun k =>
      { k with mxRun := k.mxRun.filter fun x => x.id != e.id, locks := k.locks.filter fun x => x.cmd != e.id })

/-! ### vpack (17 R282 to R284) -/

/-- The T of a packing target (17 Table 17-5). -/
def packT : Elem → Int
  | .m8 => 4 | .e43 => 8 | .e52 => 15 | .e23 => 2 | .e32 => 4 | .e21 => 2 | .i8 => 6
  | .bf | .h => 0

/-- The exponent x of the scale (17 R282). -/
def packExp (t : Elem) (m : Nat) : Int :=
  match flog2 (fdecode fp32 (m % 2 ^ 31)) with
  | some e => max (e - packT t) (-126)
  | none => 0

/-- The value times 2^(-x). -/
def scaleBy (x : Int) : FVal → FVal
  | .fin n m e => .fin n m (e - x)
  | v => v

/-- `vpack.fmt vd, va, fb`. -/
def vpackOp (t : Elem) (d a b : BitVec 5) (rnd : Rnd) (s : State) : Out :=
  let fb := (fval s.slot b).toNat
  let x := packExp t fb
  let q := (List.range 16).map fun i =>
    narrow t rnd (drawOf rnd s i) (scaleBy x (fdecode fp32 (lane 32 (vval s.slot a) i)))
  let g := 16 * elemBits t
  let old := (vval s.slot d).toNat % 2 ^ 384
  let v := old / 2 ^ g + packLanes (elemBits t) q * 2 ^ (384 - g)
  let scale := (x + 127).toNat * 2 ^ 23
  done 4 (onSlot s fun l => takeDraws rnd 16
    (setF (setV l d (BitVec.ofNat 512 v)) b (BitVec.ofNat 64 (scale * 2 ^ 32 + fb % 2 ^ 32))))

def execVpackM8 (d a b : BitVec 5) (rnd : Rnd) (s : State) : Out := vpackOp .m8 d a b rnd s
def execVpackE43 (d a b : BitVec 5) (rnd : Rnd) (s : State) : Out := vpackOp .e43 d a b rnd s
def execVpackE52 (d a b : BitVec 5) (rnd : Rnd) (s : State) : Out := vpackOp .e52 d a b rnd s
def execVpackE23 (d a b : BitVec 5) (rnd : Rnd) (s : State) : Out := vpackOp .e23 d a b rnd s
def execVpackE32 (d a b : BitVec 5) (rnd : Rnd) (s : State) : Out := vpackOp .e32 d a b rnd s
def execVpackE21 (d a b : BitVec 5) (rnd : Rnd) (s : State) : Out := vpackOp .e21 d a b rnd s
def execVpackI8 (d a b : BitVec 5) (rnd : Rnd) (s : State) : Out := vpackOp .i8 d a b rnd s

end Sys2Proof.Machine
end

