-- ==== Sys2Proof/Machine/Copy.lean ====
section
/-! DEFINITION. The copy instructions (18 R286 to R307): what they do at issue. -/

namespace Sys2Proof.Machine

/-- Every CP form of the service slot traps ENGINE (18 R287). -/
def taskOnly (s : State) (k : Out) : Out := if s.cur.slot = 4 then trap .engine (engineValue 1 0 0x0B) s else k

def chanAt (l : Slot) (ch : Nat) : Channel := sget {} l.chans ch

def setChan (l : Slot) (ch : Nat) (c : Channel) : Slot := { l with chans := sset {} l.chans ch c }

/-- `cpcfg n, xa` (18 Table 18-2, R289): the geometry after the write; none where the value is invalid. -/
def setGeometry (g : Geometry) (n : Nat) (v : Word) : Option Geometry :=
  let x := v.toNat
  let stride : Option (BitVec 48) := if x < 2 ^ 48 then some (v.setWidth 48) else none
  match n with
  | 0 => if x < 2 ^ 24 ∧ x ≠ 0 then some { g with xlen := x } else none
  | 1 =>
    if x < 2 ^ 32 ∧ x / 2 ^ 16 ≠ 0 ∧ x % 2 ^ 16 ≠ 0 then some { g with zcnt := x / 2 ^ 16, ycnt := x % 2 ^ 16 } else none
  | 2 => stride.map fun t => { g with sstride := t }
  | 3 => stride.map fun t => { g with spstride := t }
  | 4 => stride.map fun t => { g with dstride := t }
  | 5 => stride.map fun t => { g with dpstride := t }
  | 6 => if x < 2 ^ 32 then some { g with decstream := v.setWidth 32 } else none
  | 7 => if x % 8 = 0 then some { g with decseq := v } else none
  | _ => none

def execCpcfg (a n : BitVec 5) (s : State) : Out :=
  withX a s fun x =>
    taskOnly s <|
      if 8 ≤ n.toNat then trap .engine (engineValue 1 n.toNat 3) s
      else
        match setGeometry s.slot.geom n.toNat x with
        | some g => done 4 (onSlot s fun l => { l with geom := g })
        | none => trap .engine (engineValue 1 n.toNat 4) s

/-- The copies of the slot in hand that have not finished, queued ones first. -/
def slotCopies (s : State) : List Copy :=
  s.slot.cpQueue ++ (coreOf s s.cur.core).copies.filter fun c => c.slot == s.cur.slot

/-- Nothing of the copy is in flight, and it sends no further piece: its bytes are counted, or lost. -/
def sentAll (c : Copy) : Bool := c.served.isEmpty && (c.dead || (c.form != .dec && !c.posted && decide (boxSize c.geom ≤ c.next)))

/-- Something that counts into the channel is still to come (18 R293 step 4). -/
def chanBusy (s : State) (ch : Nat) : Bool := (slotCopies s).any fun c => c.ch == ch && !sentAll c

/-- The first byte of a range of this core's pool that breaks 04 R91. -/
def firstOutside (s : State) (a : Word) : Word :=
  match localOff s a 1, s.slot.capsule with
  | some off, some cap =>
    match scratchHolder s s.cur.core cap off 1 with
    | some j =>
      let l := getSlot s ⟨s.cur.core, j⟩
      a + BitVec.ofNat 64 (scratchBase l + scratchSize l - off)
    | none => a
  | _, _ => a

/-- A copy of the channel that has lost bytes for good counts nothing any more. -/
def forgetLost (s : State) (ch : Nat) : State :=
  modCore s s.cur.core fun k => { k with copies := k.copies.map fun c =>
    if c.slot = s.cur.slot ∧ c.ch = ch ∧ sentAll c = true then { c with dead := true } else c }

/-- `chinit ch, xa, xb` (18 R293): a region boundary. -/
def execChinit (a b : BitVec 5) (ch : BitVec 4) (s : State) : Out :=
  withReady [a, b] s <| withX a s fun x => withX b s fun y =>
    taskOnly s <|
      let n := ch.toNat
      let len := bits y.toNat 0 20
      if (chanAt s.slot n).state = .sub then trap .engine (engineValue 1 n 6) s
      else if bits y.toNat 20 43 ≠ 0 ∨ x.toNat % 64 ≠ 0 ∨ len % 64 ≠ 0 ∨ 0x78000 < len then trap .engine (engineValue 1 n 9) s
      else if len ≠ 0 ∧ (localOff s x len).isNone = true then trap .rights (firstOutside s x) s
      else
        closeThen s fun s =>
          if chanBusy s n then stall s
          else
            doneBoundary 4 (onSlot (forgetLost s n) fun l =>
              setChan l n { base := bits x.toNat 0 19, length := len, ev := y.getLsbD 63 })

/-- Code of a state (18 Table 18-5). -/
def chStateCode : ChState → Nat
  | .complete => 0 | .active => 1 | .faulted => 2 | .sub => 3

/-- Code of a cause (18 Table 18-7). -/
def chCauseCode : ChCause → Nat
  | .extent => 1 | .rights => 2 | .ats => 3 | .range => 4 | .tagfail => 5 | .replay => 6 | .lost => 7 | .group => 8 | .peer => 9

/-- The first number at or after `b` that a set of intervals does not hold. -/
def spanEnd (m : List (Nat × Nat)) (b : Nat) : Nat := ((m.find? fun p => p.1 ≤ b && b < p.2).map fun p => p.2).getD b

/-- The cores of a core set (18 Table 18-8). -/
def coreSet (v : Word) : List CoreId :=
  let die := bits v.toNat 61 3
  (List.range 16).flatMap fun c => (List.range 16).filterMap fun k =>
    if v.getLsbD (45 + c) ∧ v.getLsbD (29 + k) then some (BitVec.ofNat 11 (die * 256 + c * 16 + k)) else none

/-- Destinations of a copy (18 R299). -/
def copyWidth (c : Copy) : Nat := if c.form = .mc then (coreSet c.dst).length else 1

/-- The lowest byte index of a copy that has not been counted, in every destination (18 R301). -/
def firstUncounted (c : Copy) : Nat :=
  let n := boxSize c.geom
  if c.form = .mc then
    ((List.range (copyWidth c)).map fun j => min (spanEnd c.counted (j * n)) (j * n + n) - j * n).foldl min n
  else spanEnd c.counted 0

/-- The fault offset of a channel at this instant (18 R301). -/
def faultOffset (s : State) (f : ChFault) : Nat :=
  match (slotCopies s).find? fun c => c.id == f.copy with
  | some c => firstUncounted c
  | none => f.offset

/-- The result of `chq` (18 Table 18-5). -/
def chqValue (s : State) (ch : Nat) : Nat :=
  let c := chanAt s.slot ch
  let (cause, out) := match c.state, c.fault with
    | .faulted, some f => (chCauseCode f.cause, faultOffset s f % 2 ^ 32)
    | _, _ => (0, (c.expected - c.arrived) % 2 ^ 32)
  chStateCode c.state * 2 ^ 60 + cause * 2 ^ 56 + watermark c * 2 ^ 32 + out

/-- `chq` never waits (18 R294). -/
def execChq (d : BitVec 5) (ch : BitVec 4) (s : State) : Out :=
  taskOnly s <| done 4 (onSlot s fun l => setX l d (BitVec.ofNat 64 (chqValue s ch.toNat)))

/-- `waitc` (18 R295). -/
def execWaitc (ch : BitVec 4) (s : State) : Out :=
  taskOnly s <|
    match (chanAt s.slot ch.toNat).state with
    | .complete => done 4 s
    | .active => stall s
    | .sub => stall s
    | .faulted => trap .copyfault (BitVec.ofNat 64 ch.toNat) s

/-! ### cp, cp.mc, cp.dec (18 Table 18-6, R297 to R302) -/

/-- Bytes that the command posts to its channel. -/
def postedBytes (form : CopyForm) (dst : Word) (g : Geometry) : Nat :=
  if form = .mc then (coreSet dst).length * boxSize g else boxSize g

/-- The parts of a copy's source that lie in core `c`'s pool: address, pool offset and bytes (18 R298). -/
def localRows (s : State) (c : CoreId) (src : Word) (g : Geometry) : List (Word × Nat × Nat) :=
  (List.range (g.ycnt * g.zcnt)).filterMap fun r =>
    let a := src + rowSrc g r
    if inPool s a c then some (a, bits a.toNat 0 19, g.xlen) else none

/-- The reserved bits of an operand (18 Table 18-6 step 5). -/
def fieldsOk (a : Word) : Bool :=
  match spaceOf a with
  | 1 => sramFieldsOk a
  | 2 => !a.getLsbD 34 && bits a.toNat 19 15 == 0
  | _ => true

/-- The peer device that an operand names without being in the roster (18 Table 18-6 step 4). -/
def absentPeer (s : State) (a : Word) : Option Nat :=
  if 2 ≤ spaceOf a ∧ inRoster s (bits a.toNat 46 16) = false then some (bits a.toNat 46 16) else none

/-- Step 3: sizes, geometry of `cp.dec`, core set of `cp.mc`; the ENGINE reason that it fails with. -/
def copyShape (form : CopyForm) (dst : Word) (g : Geometry) : Option Nat :=
  if 0xFFFFFFFF < boxSize g then some 7
  else
    match form with
    | .dec => if g.ycnt = 1 ∧ g.zcnt = 1 ∧ g.xlen % 16 = 0 ∧ g.xlen ≤ 65536 then none else some 0x0A
    | .mc => if (coreSet dst).isEmpty ∨ bits dst.toNat 19 10 ≠ 0 then some 0x0C else none
    | _ => none

/-- A window destination whose base does not translate: left to the pieces (18 R297). -/
def copyUntranslated (s : State) (dst : Word) : Bool :=
  match translate (rangesOf s) dst 1 .store with
  | .error _ => true
  | .ok _ => false

/-- Step 6: the group that counts the copy, where its check fails. A base that does not translate has no key to check, but its bytes count
(21 R341 step 3). -/
def copyGroupFails (s : State) (form : CopyForm) (dst : Word) (n : Nat) : Option Nat :=
  match s.slot.group with
  | none => none
  | some g =>
    if form = .dec then none
    else if form = .cp ∧ spaceOf dst = 0 ∧ (copyKeyAt s form dst).isNone = true ∧ copyUntranslated s dst = true then
      if (groupView s g).bytes + n < 2 ^ 37 then none else some g
    else if groupOk (groupView s g) (copyKeyAt s form dst) n then none else some g

/-- The group that an accepted command is counted in. -/
def copyGroup (s : State) (form : CopyForm) : Option Nat := if form = .dec then none else s.slot.group

/-- CopyAccept (18 R299): the bytes are posted, and the posting of a counted copy is held. -/
def copyAccept (form : CopyForm) (ch : Nat) (dst src : Word) (s : State) : State :=
  let n := postedBytes form dst s.slot.geom
  let g := copyGroup s form
  let c : Copy := { id := s.fresh, slot := s.cur.slot, form := form, ch := ch, dst := dst, src := src, geom := s.slot.geom
                    group := g, posted := g.isSome, region := s.slot.regionNo }
  let s := onSlot s fun l =>
    let k := chanAt l ch
    let l := setChan l ch { k with expected := k.expected + n, state := .active }
    { l with cpQueue := l.cpQueue ++ [c]
             hold := match g with | some g => l.hold ++ [.posting g c.id n] | none => l.hold }
  bump s

/-- Where `n` bytes from an address lie, by the slot's extents: space and first byte as `placeAddr` gives them, and their number. -/
def targetsOf (s : State) (a : Word) (n : Nat) : List ((Nat × Nat) × Nat) :=
  match spaceOf a with
  | 0 => (rangesOf s).filterMap fun e =>
      let lo := max a.toNat e.base
      let hi := min (a.toNat + n) (e.base + e.length)
      if lo < hi then some ((e.cls, e.target + (lo - e.base)), hi - lo) else none
  | 1 => [((8 + (namedCore a s.cur.core).toNat, bits a.toNat 0 19), n)]
  | _ => [((8192, a.toNat), n)]

/-- Writes that have left the hold area of the slot in hand for its own die and are not performed yet: space, first byte and number. -/
def writesOut (l : Slot) : List ((Nat × Nat) × Nat) :=
  l.storeBuf.filterMap fun e => e.out.bind fun p => match p.cargo with
    | .write d _ => (destAddr p.dest).map fun a => (a, d.length)
    | _ => none

/-- A range of bytes meets one of some writes. -/
def meetsOne (ws : List ((Nat × Nat) × Nat)) (t : (Nat × Nat) × Nat) : Bool :=
  ws.any fun w => w.1.1 == t.1.1 && overlaps w.1.2 w.2 t.1.2 t.2

/-- The rows of a copy's source, each with `extra` bytes, meet a write of the slot that is still to be performed on its die: the region that held
it is closed, so that the copy reads what it stores (11 Table 11-1). -/
def sourceOut (s : State) (src : Word) (g : Geometry) (extra : Nat) : Bool :=
  let ws := writesOut s.slot
  !ws.isEmpty && (List.range (g.ycnt * g.zcnt)).any fun r => (targetsOf s (src + rowSrc g r) (g.xlen + extra)).any (meetsOne ws)

/-- The same of a loader's tensor, by the extents that hold its tiles. -/
def tensorOut (s : State) (u : Sub) : Bool :=
  let ws := writesOut s.slot
  !ws.isEmpty && u.srcBase != 0 && (rangesOf s).any fun e => meetsOne ws ((e.cls, e.target), e.length)

/-- Steps 8 to 10 with 18 R298, and then `k`. Result locks hold back `cp` and `cp.mc`; `cp.dec` also reads its tag (18 R302). A source that meets
a result lock of another slot traps RANGE before one of its own slot makes it wait: 18 R298 does not say which comes first (DESIGN CHOICE, log
86). -/
def copyWaits (s : State) (form : CopyForm) (ch : Nat) (src : Word) (n : Nat) (k : Out) : Out :=
  let c := chanAt s.slot ch
  let rows := localRows s s.cur.core src s.slot.geom
  let locks := (coreOf s s.cur.core).locks.filter fun l => l.result && form != .dec
  let tag := if form = .dec then 16 else 0
  if memBlocked s || verdictPending s then stall s
  else if 2 ≤ s.slot.cpQueue.length ∨ 0xFFFFFFFF < c.expected - c.arrived + n then stall s
  else
    match rows.findSome? fun r => lowestLocked (locks.filter fun l => l.slot != s.cur.slot) r.1 r.2.1 r.2.2 with
    | some v => trap .range v s
    | none =>
      if rows.any fun r => locks.any fun l => overlaps r.2.1 r.2.2 l.lo (l.hi - l.lo) then stall s
      else if (rows.any fun r => bufOverlap s.slot r.2.1 (r.2.2 + tag)) || sourceOut s src s.slot.geom tag then stall s
      else k

/-- The checks of 18 Table 18-6 in order, and then `k`. Steps 4 and 5 judge the destination first and then the source, and HOLDFULL of `cp.mc`
gives X(a), the core set: 18 R297 says neither (DESIGN CHOICE, log 86). -/
def copyChecks (form : CopyForm) (ch : Nat) (dst src : Word) (s : State) (k : Out) : Out :=
  taskOnly s <|
    let n := postedBytes form dst s.slot.geom
    match (chanAt s.slot ch).state with
    | .faulted => trap .copyfault (BitVec.ofNat 64 ch) s
    | .sub => trap .engine (engineValue 1 ch 6) s
    | _ =>
      match copyShape form dst s.slot.geom with
      | some r => trap .engine (engineValue 1 ch r) s
      | none =>
        let ops := if form = .mc then [src] else [dst, src]
        match ops.findSome? (absentPeer s) with
        | some d => trap .peer (BitVec.ofNat 64 d) s
        | none =>
          match ops.find? fun a => !fieldsOk a with
          | some a => trap .rights a s
          | none =>
            match copyGroupFails s form dst n with
            | some g => trap .group (BitVec.ofNat 64 g) s
            | none =>
              if (copyGroup s form).isSome && !holdRoom s.slot 16 then trap .holdfull dst s
              else copyWaits s form ch src n k

def execCp (a b : BitVec 5) (ch : BitVec 4) (s : State) : Out :=
  withReady [a, b] s <| withX a s fun x => withX b s fun y => copyChecks .cp ch.toNat x y s (done 4 (copyAccept .cp ch.toNat x y s))

def execCpMc (a b : BitVec 5) (ch : BitVec 4) (s : State) : Out :=
  withReady [a, b] s <| withX a s fun x => withX b s fun y => copyChecks .mc ch.toNat x y s (done 4 (copyAccept .mc ch.toNat x y s))

/-- `cp.dec` is a region boundary (20 R317). -/
def execCpDec (a b : BitVec 5) (ch : BitVec 4) (s : State) : Out :=
  withReady [a, b] s <| withX a s fun x => withX b s fun y =>
    copyChecks .dec ch.toNat x y s (closeThen s fun s => doneBoundary 4 (copyAccept .dec ch.toNat x y s))

/-! ### Subscriptions (18 R303 to R306) -/

/-- The number in bytes `o` to `o + n - 1` of a list. -/
def fieldAt (bs : List Byte) (o n : Nat) : Nat := leNat ((bs.drop o).take n)

/-- A descriptor (18 Table 18-9): the subscription and EV; none where it breaks a rule. -/
def readSub (bs : List Byte) (ring box : Nat) : Option (Sub × Bool) :=
  let w : Nat → Word := fun o => BitVec.ofNat 64 (fieldAt bs o 8)
  let u : Sub := { srcBase := w 0, srcStep := w 8, dstBase := w 16, dstStep := w 24, tiles := fieldAt bs 32 4
                   slots := fieldAt bs 36 2, slotSize := fieldAt bs 40 4, box := box, ring := ring }
  let flags := fieldAt bs 38 1
  if u.tiles ≠ 0 ∧ 1 ≤ u.slots ∧ u.slots ≤ 16 ∧ flags ≤ 1 ∧ fieldAt bs 39 1 = 0 ∧ u.slotSize % 64 = 0
      ∧ u.slots * u.slotSize ≤ 0x78000 ∧ fieldAt bs 44 20 = 0 ∧ (u.srcBase ≠ 0 ∨ u.dstBase ≠ 0)
      ∧ spaceOf u.srcBase = 0 ∧ spaceOf u.dstBase = 0
  then some (u, flags == 1) else none

/-- Halves that are present. -/
def halves (u : Sub) : Nat := (if u.srcBase = 0 then 0 else 1) + if u.dstBase = 0 then 0 else 1

/-- The last byte of the box within a ring slot (18 R303). -/
def boxLast (g : Geometry) : Int :=
  ((g.zcnt : Int) - 1) * g.dpstride.toInt + ((g.ycnt : Int) - 1) * g.dstride.toInt + (g.xlen : Int) - 1

/-- `subscr ch, xa, xb` (18 R303): a region boundary. -/
def execSubscr (a b : BitVec 5) (ch : BitVec 4) (s : State) : Out :=
  withReady [a, b] s <| withX a s fun x => withX b s fun y =>
    taskOnly s <|
      let n := ch.toNat
      let c := chanAt s.slot n
      if c.state = .faulted then trap .copyfault (BitVec.ofNat 64 n) s
      else if c.state ≠ .complete ∨ c.expected ≠ 0 then trap .engine (engineValue 1 n 6) s
      else if x.toNat % 64 ≠ 0 then trap .engine (engineValue 1 n 9) s
      else
        match localOff s y 64 with
        | none => trap .rights y s
        | some off =>
          match readSub (poolRead s 64 off) (bits x.toNat 0 19) (boxSize s.slot.geom) with
          | none => trap .engine (engineValue 1 n 9) s
          | some (u, ev) =>
            if (localOff s x (u.slots * u.slotSize)).isNone then trap .rights x s
            else if boxLast s.slot.geom < 0 ∨ (u.slotSize : Int) ≤ boxLast s.slot.geom then trap .engine (engineValue 1 n 9) s
            else if memBlocked s || decide (2 ≤ s.slot.cpQueue.length) || tensorOut s u then stall s
            else
              closeThen s fun s =>
                let k : Copy := { id := s.fresh, slot := s.cur.slot, form := .subscr, ch := n, dst := x, src := y
                                  geom := s.slot.geom, region := s.slot.regionNo
                                  counted := if u.srcBase = 0 then [(0, u.tiles * u.box)] else [] }
                doneBoundary 4 (bump (onSlot s fun l =>
                  { setChan l n { base := u.ring, length := u.slots * u.slotSize, ev := ev, expected := u.tiles * u.box * halves u
                                  state := .sub, sub := some u } with
                    cpQueue := l.cpQueue ++ [k] }))

/-- A subscription is over when every tile has been released and every byte counted (18 R305); its end is posted (18 R296). -/
def subDone (ch : Nat) (l : Slot) : Slot :=
  let c := chanAt l ch
  match c.state, c.sub with
  | .sub, some u =>
    if u.released = u.tiles ∧ c.arrived = c.expected then
      let l := setChan l ch { c with state := .complete, sub := none }
      if c.ev then pushEvent l ⟨0, c.arrived, ch⟩ else l
    else l
  | _, _ => l

/-- The ring slots that `srel` passes: pool offsets (18 R305). -/
def passedSlots (u : Sub) (n : Nat) : List Nat := (List.range n).map fun i => u.ring + (u.released + i) % u.slots * u.slotSize

/-- The subscription of a channel of the slot in hand has ended: it is no longer in flight (18 R287, R305). -/
def dropSub (s : State) (ch : Nat) : State :=
  modCore s s.cur.core fun k => { k with copies := k.copies.filter fun c => !(c.slot == s.cur.slot && c.ch == ch && c.form == .subscr) }

/-- `srel ch, xa` (18 R305): a region boundary. -/
def execSrel (a : BitVec 5) (ch : BitVec 4) (s : State) : Out :=
  withX a s fun x =>
    taskOnly s <|
      let n := ch.toNat
      let c := chanAt s.slot n
      match c.state, c.sub with
      | .faulted, _ => trap .copyfault (BitVec.ofNat 64 n) s
      | .sub, some u =>
        let k := x.toNat
        if k = 0 ∨ u.tiles - u.released < k then trap .engine (engineValue 1 n 8) s
        else if u.slots < k ∨ (List.range k).any (fun i => rackerOwns u u.box ((u.released + i) % u.slots)) = true then stall s
        else if (passedSlots u k).any fun o => bufOverlap s.slot o u.slotSize then stall s
        else if (passedSlots u k).any fun o => (coreOf s s.cur.core).locks.any fun l =>
            l.result && l.slot == s.cur.slot && overlaps o u.slotSize l.lo (l.hi - l.lo) then stall s
        else
          closeThen s fun s =>
            let s := onSlot s fun l => subDone n (setChan l n { c with sub := some { u with released := u.released + k } })
            doneBoundary 4 (if (chanAt s.slot n).sub.isNone then dropSub s n else s)
      | _, _ => trap .engine (engineValue 1 n 6) s

end Sys2Proof.Machine
end

