-- ==== Sys2Proof/Machine/Channel.lean ====
section
/-! DEFINITION. Channels: what is counted into them, faults, and the copies that end (18 R287 to R291, R296, R299 to R301). -/

namespace Sys2Proof.Machine

/-- A copy in flight on a core. -/
def copyOn (s : State) (c : CoreId) (id : Nat) : Option Copy := (coreOf s c).copies.find? fun x => x.id == id

def modCopy (s : State) (c : CoreId) (id : Nat) (f : Copy → Copy) : State :=
  modCore s c fun k => { k with copies := k.copies.map fun x => if x.id = id then f x else x }

def dropCopy (s : State) (c : CoreId) (id : Nat) : State :=
  modCore s c fun k => { k with copies := k.copies.filter fun x => x.id != id }

/-- A channel changes, and its view without the open region's commands with it, where the copy belongs to an earlier region. -/
def modChan (s : State) (i : SlotId) (x : Copy) (f : Channel → Channel) : State :=
  modSlot s i fun l =>
    let l := setChan l x.ch (f (chanAt l x.ch))
    if x.region = l.regionNo then l else { l with shadow := sset {} l.shadow x.ch (f (sget {} l.shadow x.ch)) }

/-- An entry for a channel that asks for one (18 R296). -/
def postEvent (s : State) (i : SlotId) (ch kind : Nat) : State :=
  let c := chanAt (getSlot s i) ch
  if c.ev then wake (modSlot s i fun l => pushEvent l ⟨kind, c.arrived, ch⟩) i else s

/-! ### Copies that end -/

/-- Bytes of a copy are on their way in the fabric. -/
def copyPackets (s : State) (i : SlotId) (id : Nat) : Bool :=
  s.net.any fun p => p.2.src == i && p.2.ofDev.isNone && p.2.piece.elim false fun q => q.1 == id

/-- A copy that sends nothing more and has no piece in flight is done: its fault offset is final (18 R301). It is kept while packets of it
travel, whose checks can still fault its channel. -/
def settleCopy (s : State) (i : SlotId) (id : Nat) : State :=
  match copyOn s i.core id with
  | some y =>
    if y.dead && y.served.isEmpty then
      let s := modChan s i y fun c =>
        { c with fault := c.fault.map fun f => if f.copy = id ∧ y.form ≠ .dec then { f with offset := firstUncounted y } else f }
      if copyPackets s i id then s else dropCopy s i.core id
    else s
  | none => s

/-- A channel's state is FAULTED, with its first fault (18 R301). -/
def markFault (s : State) (i : SlotId) (x : Copy) (cause : ChCause) (offset : Nat) : State :=
  modChan s i x fun c =>
    if c.state = .faulted then c
    else { c with state := .faulted, fault := some { cause := cause, form := x.form, dst := x.dst, src := x.src, geom := x.geom
                                                     copy := x.id, offset := offset } }

/-- A channel enters FAULTED, keeping its first fault (18 R301). -/
def enterFault (s : State) (i : SlotId) (x : Copy) (cause : ChCause) (offset : Nat) : State :=
  let first := (chanAt (getSlot s i) x.ch).state != .faulted
  let s := markFault s i x cause offset
  if first then postEvent s i x.ch 1 else s

/-- A piece's check fails (18 R301): no further piece of its command is sent. -/
def faultChannel (s : State) (i : SlotId) (x : Copy) (cause : ChCause) : State :=
  let s := enterFault s i x cause (firstUncounted x)
  settleCopy (modCopy s i.core x.id fun y => { y with dead := true }) i x.id

/-- The range table of a slot's capsule on its core. -/
def tableOf (s : State) (i : SlotId) : List RangeEntry :=
  match (getSlot s i).capsule with
  | some cap => sget [] (coreOf s i.core).ranges cap
  | none => []

/-! ### Where the bytes of a copy lie (18 R288, R303) -/

/-- One row's part of a copy from a byte index on: source and destination addresses, and the bytes left in the row. -/
structure Cut where
  src : Word
  dst : Word
  left : Nat
  deriving DecidableEq, Repr

/-- Where byte `b` of a box lies, from the addresses of its byte 0. -/
def boxCut (g : Geometry) (src dst : Word) (b : Nat) : Cut :=
  let r := b / g.xlen
  let x := b % g.xlen
  ⟨src + rowSrc g r + BitVec.ofNat 64 x, dst + rowDst g r + BitVec.ofNat 64 x, g.xlen - x⟩

/-- The same of a storer half: the strides change sides (18 R303). -/
def storeCut (g : Geometry) (src dst : Word) (b : Nat) : Cut :=
  let c := boxCut g dst src b
  ⟨c.dst, c.src, c.left⟩

/-- The address of pool offset `off` of core `c` (09 R195). -/
def poolAddress (c : CoreId) (off : Nat) : Word := BitVec.ofNat 64 (0x4000000400000000 + c.toNat * 2 ^ 35 + off)

/-- Where byte index `b` of a copy lies; of `cp.mc` the destination is the pool offset. A subscription numbers the loader's tiles first and
then the storer's. -/
def copyCut (s : State) (i : SlotId) (x : Copy) (b : Nat) : Cut :=
  match x.form, (chanAt (getSlot s i) x.ch).sub with
  | .subscr, some u =>
    let t := b / u.box
    let o := b % u.box
    if t < u.tiles then
      boxCut x.geom (u.srcBase + BitVec.ofNat 64 t * u.srcStep) (poolAddress i.core (u.ring + t % u.slots * u.slotSize)) o
    else
      let t := t - u.tiles
      storeCut x.geom (poolAddress i.core (u.ring + t % u.slots * u.slotSize)) (u.dstBase + BitVec.ofNat 64 t * u.dstStep) o
  | .mc, _ => boxCut x.geom x.src (BitVec.ofNat 64 (bits x.dst.toNat 0 19)) b
  | _, _ => boxCut x.geom x.src x.dst b

/-! ### Counting (18 R291) -/

/-- Bytes at a pool offset that lie in the channel's range are marked (18 Table 18-4). -/
def markRange (c : Channel) (o n : Nat) : Channel :=
  let lo := max o c.base - c.base
  let hi := min (o + n) (c.base + c.length) - c.base
  { c with written := spanAdd c.written lo hi }

/-- A subscription's tile has more bytes counted. -/
def countTile (u : Sub) (b n : Nat) : Sub :=
  let t := b / u.box
  if t < u.tiles then { u with loaded := sset 0 u.loaded t (sget 0 u.loaded t + n) }
  else { u with stored := sset 0 u.stored (t - u.tiles) (sget 0 u.stored (t - u.tiles) + n) }

/-- ACTIVE turns COMPLETE when all is counted (18 Table 18-4). -/
def closeCount (c : Channel) : Channel := if c.state = .active ∧ c.arrived = c.expected then { c with state := .complete } else c

/-- The pool offset of core `core` at which bytes for destination `j` of a copy land, if they land in that pool. -/
def landsAt (s : State) (x : Copy) (core : CoreId) (cut : Cut) (j : Nat) : Option Nat :=
  if x.form = .mc then if (coreSet x.dst)[j]? = some core then some cut.dst.toNat else none
  else if inPool s cut.dst core then some (bits cut.dst.toNat 0 19) else none

/-- The channel counts `n` bytes of destination `j` from byte index `b`. -/
def countInto (s : State) (x : Copy) (core : CoreId) (cut : Cut) (b n j : Nat) (c : Channel) : Channel :=
  let c := { c with arrived := c.arrived + n, sub := if x.form = .subscr then c.sub.map fun u => countTile u b n else c.sub }
  closeCount ((landsAt s x core cut j).elim c fun o => markRange c o n)

/-- The piece in flight that holds byte `b` changes; one of which every byte is accounted for is no longer in flight. -/
def modPiece (x : Copy) (b : Nat) (f : Served → Served) : Copy :=
  { x with served := x.served.filterMap fun p =>
      if p.1 ≤ b ∧ b < p.1 + p.2.len then
        let v := f p.2
        if copyWidth x * v.len ≤ v.got + v.gone then none else some (p.1, v)
      else some p }

/-- A copy of which every byte is counted is done. -/
def finishCopy (s : State) (i : SlotId) (id : Nat) : State :=
  match copyOn s i.core id with
  | some y =>
    let full := y.form != .subscr && y.served.isEmpty && decide (copyWidth y * boxSize y.geom ≤ spanSize y.counted)
    settleCopy (if full then modCopy s i.core id fun y => { y with dead := true } else s) i id
  | none => s

/-- A subscription that is over ends in the channel and, where it is older than the open region, in its shadow (20 R328 step 4). -/
def endSub (x : Copy) (l : Slot) : Slot :=
  let l' := subDone x.ch l
  if (chanAt l' x.ch).sub.isNone = true ∧ x.region ≠ l.regionNo then
    { l' with shadow := sset {} l'.shadow x.ch { sget {} l'.shadow x.ch with state := .complete, sub := none } }
  else l'

/-- What follows when bytes of a copy have been counted: it, or its subscription, may be over. -/
def afterCount (s : State) (i : SlotId) (x : Copy) : State :=
  if x.form = .subscr then
    let s := wake (modSlot s i (endSub x)) i
    if (chanAt (getSlot s i) x.ch).sub.isNone then settleCopy (modCopy s i.core x.id fun y => { y with dead := true }) i x.id
    else settleCopy s i x.id
  else finishCopy s i x.id

/-- What a buffered release store waits for changes with a copy that precedes it (10 R215; 11 R231). -/
def modCopyBefore (l : Slot) (id : Nat) (f : Before → Before) : Slot :=
  { l with storeBuf := l.storeBuf.map fun e => if e.before.copies.contains id then { e with before := f e.before } else e }

/-- `n` bytes of destination `j` of a copy, from byte index `b`, are counted; writes that leave the die or the device depart at the latest now
(18 R291; 11 R231). -/
def countBytes (s : State) (i : SlotId) (id b n j : Nat) : State :=
  match copyOn s i.core id with
  | none => s
  | some x =>
    let before := (chanAt (getSlot s i) x.ch).state
    let s := modChan s i x (countInto s x i.core (copyCut s i x b) b n j)
    let s := modCopy s i.core id fun y =>
      modPiece { y with counted := spanAdd y.counted (j * boxSize y.geom + b) (j * boxSize y.geom + b + n) } b
        fun v => { v with got := v.got + n }
    let s := modSlot s i fun l =>
      modCopyBefore { l with departDie := if x.farDie then some s.now else l.departDie
                             departDev := if x.farDev then some s.now else l.departDev } id fun b =>
        { b with departDie := if x.farDie then some s.now else b.departDie, departDev := if x.farDev then some s.now else b.departDev }
    let s := if before = .active ∧ (chanAt (getSlot s i) x.ch).state = .complete then postEvent s i x.ch 0 else s
    afterCount s i x

/-- `n` bytes of a copy from byte index `b` will not be counted (18 R301). -/
def loseBytes (s : State) (i : SlotId) (id b n : Nat) : State :=
  settleCopy (modCopy s i.core id fun y => modPiece y b fun v => { v with gone := v.gone + n }) i id

end Sys2Proof.Machine
end

