-- ==== Sys2Proof/Machine/System.lean ====
section
/-! DEFINITION. Special registers and system instructions (01 R18, R19; 04 R105 to R109), regions (20 R321 to R324), gangs (06
R122 to R126; 07 R153), events and messages (06 R127 to R133; 07 R154 to R159), fences, `probe` and `wait` (10 R216, R220,
R221), release groups (21 R342 to R345). -/

namespace Sys2Proof.Machine

/-! ### Special registers (01 Table 1-3) -/

def loopCount (o : Option Loop) : Word := o.elim 0 fun p => p.cnt

/-- Core-clock cycles since the tile task started (01 Table 1-3; log 4). -/
def cycles (s : State) : Word := BitVec.ofNat 64 (dieCycles s (dieOf s.cur.core) - s.slot.startTime)

/-- The value of a special register, if the number is assigned. -/
def readSpecial (s : State) (n : Nat) : Option Word :=
  let l := s.slot
  let w : Nat → Option Word := fun v => some (BitVec.ofNat 64 v)
  match n with
  | 0x000 => w l.tile.1
  | 0x001 => w l.tile.2.1
  | 0x002 => w l.tile.2.2
  | 0x004 => w l.ext.1
  | 0x005 => w l.ext.2.1
  | 0x006 => w l.ext.2.2
  | 0x008 => w s.cur.core.toNat
  | 0x009 => w s.cur.slot
  | 0x00A => w (l.gangPos * 16 + l.gangSize)
  | 0x00B => some l.capPos
  | 0x00C => some l.worldPos
  | 0x010 => some l.trCause
  | 0x011 => some l.trPc
  | 0x012 => some l.trValue
  | 0x018 => some l.part
  | 0x019 => some Config.netcap
  | 0x020 => some (cycles s)
  | 0x021 => some l.retired
  | 0x030 => some (loopCount l.outer)
  | 0x031 => some (loopCount l.inner)
  | _ => none

/-- `gets` (04 R105). -/
def execGets (d : BitVec 5) (n : BitVec 12) (s : State) : Out :=
  match readSpecial s n.toNat with
  | some v => done 4 (onSlot s fun l => setX l d v)
  | none => trap .special (BitVec.ofNat 64 n.toNat) s

/-- `puts` (04 R105; 01 R14, R18). The loop counters of a gang take the leader's value (06 R124). In the run of the listing of 05 R113 x22 holds
0x1040 when it is written to tr.pc, as 05 Table 5-4 has it for tr.pc, though the same table gives x22 as 0x103C (DEDUCED, log 85). -/
def execPuts (a : BitVec 5) (n : BitVec 12) (s : State) : Out :=
  match n.toNat with
  | 0x011 =>
    withX a s fun x =>
      if trapActive s.slot then done 4 (onSlot s fun l => { l with trPc := x &&& ~~~1 })
      else trap .special 0x011 s
  | 0x030 =>
    withLeaderX a s fun x => done 4 (onSlot s fun l => { l with outer := l.outer.map fun p => { p with cnt := x } })
  | 0x031 =>
    withLeaderX a s fun x => done 4 (onSlot s fun l => { l with inner := l.inner.map fun p => { p with cnt := x } })
  | _ => withX a s fun _ => trap .special (BitVec.ofNat 64 n.toNat) s

/-! ### nop, traps, ends (04 R106 to R109) -/

def execNop (s : State) : Out := done 4 s
def execNopC (s : State) : Out := done 2 s

/-- `trap n` raises TRAPI (04 R107). -/
def execTrap (imm : BitVec 15) (s : State) : Out := trap .trapi (imm.setWidth 64) s

/-- `brk n` raises BREAK (04 R107). -/
def execBrk (imm : BitVec 15) (s : State) : Out := trap .brk (imm.setWidth 64) s

/-- The word of `tret` (03 Table 3-8). -/
def tretWord : Word := 0x1800004B

/-- `tret` (04 R108): the leader's tr.pc is where a gang goes on. -/
def execTret (s : State) : Out :=
  if trapActive s.slot then .next (retireTo (leader s).trPc false (onSlot s leaveTrap)) else trap .illegal tretWord s

def execTexit (imm : BitVec 15) (s : State) : Out := texitOp imm.toNat s
def execTexitC (s : State) : Out := texitOp 0 s

/-- A fetched word that is no instruction (01 R25; 03 R68). -/
def execIllegalInstruction (word : BitVec 32) (s : State) : Out := trap .illegal (word.setWidth 64) s

/-- A fetch that no extent covers, or without X (01 R22): `addr` is the parcel's address. -/
def execFetchFault (rights : Bool) (addr : Word) (s : State) : Out := trap (if rights then .rights else .extent) addr s

/-! ### Regions (20 R322 to R324) -/

/-- `region mask`. -/
def execRegion (msk : BitVec 11) (s : State) : Out :=
  closeThen s fun s => .next (onSlot (retire 4 s) (openRegion msk false))

/-- `commit`. -/
def execCommit (s : State) : Out := closeThen s fun s => doneBoundary 4 s

/-- `abort` drops every held write and never stalls. -/
def execAbort (s : State) : Out := doneBoundary 4 (dropHeld s)

/-! ### Gangs (06 R123, R125; 07 R153) -/

/-- The intended members of `gang n` in the slot in hand, in order of position (06 R123). -/
def gangBlock (s : State) (n : Nat) : List SlotId :=
  let c0 := s.cur.core.toNat / n * n
  (List.range n).map fun i => ⟨BitVec.ofNat 11 (c0 + i), s.cur.slot⟩

/-- A member of the block has ended its tile task (06 R123). -/
def memberEnded (s : State) (i : SlotId) : Bool :=
  let l := getSlot s i
  i.slot != 4 && (l.capsule != s.slot.capsule || l.run == .exited || l.run == .faulted || l.run == .unbound)

/-- The lowest GANG value that holds at issue of `gang n` (07 Table 7-10). -/
def gangRefusal (s : State) (n : Nat) : Option Word :=
  if (capOf s).elim 1 (fun c => c.info.gang) < n then some 1
  else if s.slot.gangSize ≠ 1 then some 2
  else if s.slot.outer.isSome then some 3
  else if (gangBlock s n).any (memberEnded s) then some 4
  else if s.cur.slot = 4 then some 6 else none

/-- A member goes on in the gang that has formed: at the leader's next pc, with the leader's call records (06 R123, R124). -/
def joinGang (n : Nat) (lead : Slot) (pos : Nat) (l : Slot) : Slot :=
  let l := { l with pc := lead.pc + 4, run := .running, gangPos := pos, gangSize := n, calls := lead.calls
                    retired := l.retired + 1, condMet := none, wantRel := none, closing := false }
  openRegion l.region.mask false l

/-- `gang n` (06 R123). -/
def execGang (n : BitVec 15) (s : State) : Out :=
  match gangRefusal s n.toNat with
  | some v => trap .gang v s
  | none =>
    closeThen s fun s =>
      let n := n.toNat
      -- members that wait at a different `gang m` trap
      let me := s.cur
      let s := ((gangWaiters s).filter fun i => (getSlot s i).run != .atGang n).foldl (fun t i =>
        if atAnyGang (getSlot t i) then failFrom 8 i (takeTrapHere .gang 4 (focus t i)) else t) s
      let s := focus s me
      -- one that has ended its tile task by that is waited for by nobody
      match gangRefusal s n with
      | some v => trap .gang v s
      | none =>
        let s := onSlot s fun l => { l with run := .atGang n }
        let ms := gangBlock s n
        if ms.all fun i => (getSlot s i).run == .atGang n then
          if ms.all fun i => (getSlot s i).wbase == s.slot.wbase then
            let lead := getSlot s (ms.headD s.cur)
            .next (ms.zipIdx.foldl (fun t p => modSlot t p.1 (joinGang n lead p.2)) s)
          else
            .next (focus (ms.foldl (fun t i => takeTrapHere .gang 5 (focus t i)) s) me)
        else .next s

/-- `split` (06 R125): the members leave the gang; the step releases all of them together. -/
def execSplit (s : State) : Out :=
  if s.slot.gangSize = 1 then trap .gang 7 s
  else closeThen s fun s => doneBoundary 4 (onSlot s fun l => { l with gangPos := 0, gangSize := 1 })

/-! ### Events (06 R131 to R133; 07 R157 to R159) -/

/-- Every member's latch was set when the gang issued (06 R124). -/
def latchesSet (s : State) : Bool := s.slot.latchBit && s.latch.all fun m => m.2.latchBit

/-- `wfe` (06 R132): it falls through and clears the latch, or the slot sleeps behind it until the latch is set. The region
closes at issue and the next one opens behind the instruction (20 R317; log 17). -/
def wfeOp (len : Word) (s : State) : Out :=
  closeThen s fun s =>
    if latchesSet s then doneBoundary len (onSlot s fun l => { l with latchBit := false })
    else doneBoundary len (onSlot s fun l => { l with run := .asleep })

def execWfe (s : State) : Out := wfeOp 4 s
def execWfeC (s : State) : Out := wfeOp 2 s

/-- A held write that only names a tile task waits for the code verdict (08 R170), then for room. -/
def execSev (a : BitVec 5) (s : State) : Out :=
  withX a s fun x => if verdictPending s then stall s else holdWrite 4 (.sev x) x s

/-- `popev` (07 Table 7-12). -/
def execPopev (d : BitVec 5) (s : State) : Out :=
  closeThen s fun s =>
    let lost : Nat := if s.slot.evLost then 2 ^ 62 else 0
    let v : Nat := match s.slot.evq with
      | [] => lost
      | e :: _ => 2 ^ 63 + lost + e.kind * 2 ^ 40 + e.bytes % 2 ^ 32 * 2 ^ 8 + e.ch
    doneBoundary 4 (onSlot s fun l => setX { l with evq := l.evq.drop 1, evLost := false } d (BitVec.ofNat 64 v))

/-! ### Messages (07 R154, R155) -/

def execSend (a b : BitVec 5) (s : State) : Out :=
  withX a s fun x => if verdictPending s then stall s else holdWrite 4 (.send x (vval s.slot b)) x s

/-- The oldest message for the slot in hand: its inbox, or what is staged for the activation's target. -/
def nextMessage (s : State) : Option Vec :=
  if s.cur.slot = 4 then
    ((coreOf s s.cur.core).staged.find? fun m => some (m.slot, m.task) == s.slot.serves).map fun m => m.payload
  else s.slot.inbox.head?

/-- The list without its first element that meets `p`. -/
def dropFirst {α : Type} (p : α → Bool) : List α → List α
  | [] => []
  | a :: t => if p a then t else a :: dropFirst p t

/-- That message is freed; an inbox entry sets the latch of a service slot that serves this slot (06 R130). -/
def freeMessage (s : State) : State :=
  if s.cur.slot = 4 then
    modCore s s.cur.core fun k => { k with staged := dropFirst (fun m => some (m.slot, m.task) == s.slot.serves) k.staged }
  else
    let s := onSlot s fun l => { l with inbox := l.inbox.drop 1 }
    let sv : SlotId := ⟨s.cur.core, 4⟩
    if (getSlot s sv).serves = some (s.cur.slot, s.slot.task) then setLatch s sv else s

/-- `recv` never waits (07 R155). -/
def execRecv (d : BitVec 5) (s : State) : Out :=
  closeThen s fun s =>
    match nextMessage s with
    | none => doneBoundary 4 (onSlot s fun l => setX l 7 0)
    | some m => doneBoundary 4 (freeMessage (onSlot s fun l => setX (setV l d m) 7 1))

/-! ### Fences, probe, wait (10 R216, R220, R221) -/

def execFence (sc : Scope) (s : State) : Out := waitRel s sc (done 4 s)

/-- REMAIN, saturated (10 Table 10-7). -/
def probeRemain (n : Nat) : Nat := min n 0xFFFFFFFF

/-- `probe` (10 Table 10-7). -/
def probeValue (s : State) (a : Word) : Nat :=
  match spaceOf a with
  | 0 =>
    match rangeAt (rangesOf s) a.toNat with
    | some (i, e) =>
      2 ^ 63 + i * 2 ^ 50 + e.cls * 2 ^ 46 + e.rights.toNat * 2 ^ 32 + probeRemain (e.base + e.length - a.toNat)
    | none => 0
  | 1 =>
    let c := namedCore a s.cur.core
    let off := bits a.toNat 0 19
    match s.slot.capsule.bind fun cap => if sramFieldsOk a then scratchHolder s c cap off 1 else none with
    | some j =>
      let l := getSlot s ⟨c, j⟩
      2 ^ 63 + 3 * 2 ^ 32 + probeRemain (scratchBase l + scratchSize l - off)
    | none => 0
  | _ => 2 ^ 62 + if inRoster s (bits a.toNat 46 16) then 2 ^ 63 else 0

/-- `probe xd, xa` (10 R220): it never traps, but a marked xa traps POISON as at any reader (10 R209; DESIGN CHOICE, log 81). -/
def execProbe (d a : BitVec 5) (s : State) : Out :=
  withX a s fun x => done 4 (onSlot s fun l => setX l d (BitVec.ofNat 64 (probeValue s x)))

/-- Outstanding items of the four classes (10 Table 10-8): LD, ST, CP, MX. -/
def outLd (s : State) : Nat := s.slot.pending.length
/-- Stores, each once: those whose last part is in the store buffer, and those with a part in the combining buffer. -/
def outSt (s : State) : Nat :=
  (s.slot.storeBuf.filter fun e => e.last).length +
    (((s.net.filter fun p => ofTask s s.cur p.2 && p.2.hop == .combining && isWrite p.2.cargo).map fun p => p.2.req).dedup).length
/-- Copies, but for those whose channel has faulted. -/
def outCp (s : State) : Nat :=
  let mine := s.slot.cpQueue ++ (coreOf s s.cur.core).copies.filter fun c => c.slot == s.cur.slot
  (mine.filter fun c => !c.posted && !c.dead && c.form != .subscr && (sget {} s.slot.chans c.ch).state != .faulted).length
def outMx (s : State) : Nat := (busyCmds s s.cur).length

/-- `wait ld, st, cp, mx` (10 R221). -/
def execWait (ld st cp mx : BitVec 4) (s : State) : Out :=
  if outLd s ≤ ld.toNat ∧ outSt s ≤ st.toNat ∧ outCp s ≤ cp.toNat ∧ outMx s ≤ mx.toNat then done 4 s else stall s

/-! ### Release groups (21 R343 to R345) -/

/-- `grp g`; 16 selects none. -/
def execGrp (grp : BitVec 5) (s : State) : Out :=
  if s.cur.slot = 4 then trap .group (BitVec.ofNat 64 grp.toNat) s
  else done 4 (onSlot s fun l => { l with group := if grp.toNat < 16 then some grp.toNat else none })

/-- A flag's place has a performer with an arrival table and is not this core's pool (21 R344 step 4). -/
def flagPlaceOk (s : State) : Place → Bool
  | .mem cls _ _ => cls == 0 || cls == 3
  | .pool c _ => c != s.cur.core
  | .peer _ => true

/-- `rel xa, xb` (21 R344). It is held, and does not wait for an acquire or atomic whose data is still out: a commit can send its flag before
(DESIGN CHOICE, log 18). -/
def execRel (a b : BitVec 5) (s : State) : Out :=
  withReady [a, b] s <| withX a s fun x => withX b s fun v =>
    match s.slot.group with
    | none => trap .group 16 s
    | some g =>
      let gv := BitVec.ofNat 64 g
      if v.getLsbD 63 then trap .group gv s
      else
        match resolve s x 8 .store with
        | .error (c, t) => trap c t s
        | .ok p =>
          withAts s p 8 .store fun s =>
            if x.toNat % 8 ≠ 0 ∨ flagPlaceOk s p = false then trap .group gv s
            else if groupOk (groupView s g) (bindKey s p) 0 = false then trap .group gv s
            else if verdictPending s then stall s
            else holdWrite 4 (.rel g p v) x s

/-- T_orphan and T_reuse in ticks (21 Table 21-8). -/
def tOrphan (s : State) : Nat := 4 * s.hub.twait * 1000 * Config.nanosecond

def tReuse (s : State) : Nat := max (500000 * Config.nanosecond) (tOrphan s + Config.lifeMax)

/-- T_reuse has passed for the group's sequence (21 R344, R345). -/
def groupReady (s : State) (v : Group) : Bool := passedSince s (sfind v.last v.seq) (tReuse s)

/-- The result of `grpq` (21 Table 21-4). -/
def grpqValue (s : State) (g : Nat) : Nat :=
  let v := groupView s g
  let sel := if s.slot.group = some g then 2 ^ 62 else 0
  let rdy := if groupReady s v then 2 ^ 60 else 0
  let key := match v.bind with
    | none => 0
    | some (dev, some d) => 2 ^ 63 + d * 2 ^ 53 + dev * 2 ^ 37
    | some (dev, none) => 2 ^ 63 + 2 ^ 61 + dev * 2 ^ 37
  key + sel + rdy + v.seq * 2 ^ 56 + v.bytes

/-- `grpq` (21 R345): 0 in the service slot. -/
def execGrpq (d grp : BitVec 5) (s : State) : Out :=
  done 4 (onSlot s fun l => setX l d (if s.cur.slot = 4 then 0 else BitVec.ofNat 64 (grpqValue s grp.toNat)))

end Sys2Proof.Machine
end

