-- ==== Sys2Proof/Machine/Journal.lean ====
section
/-! DEFINITION. The journal, receipts and signed roots (08 R418; 25 R384, R395 to R398). -/

namespace Sys2Proof.Machine

/-- Bytes of memory under the clear key at a BAR2 offset. -/
def hostRead (s : State) (addr n : Nat) : List Byte := s.mem.read .clear n (memKey 0 addr)

def hostWrite (s : State) (addr : Nat) (data : List Byte) : State := landMem s 0 addr .clear data false

/-- The identity digest as bytes (25 R383). -/
def identityBytes : List Byte := beBytes 32 identityDigest.toNat

/-- The image in force of a controller: 0 the hub, 1 + d die d. One for which the boot ROM finds no image has none (DESIGN CHOICE, log 8). -/
def imageOf (s : State) (n : Nat) : Image :=
  match sfind s.hub.images n with
  | some i => i
  | none => (Config.bootImage n).elim ⟨0, 0, 0⟩ fun i => ⟨digest256 i, (Config.imageRange i).1, (Config.imageRange i).2⟩

/-- The firmware measurement (25 R384). -/
def fwMeasure (s : State) : List Byte := sha256 ((List.range 9).flatMap fun n => beBytes 32 (imageOf s n).digest.toNat)

/-- The first 16 bytes of a digest as a little-endian number. -/
def digest16 (bs : List Byte) : Nat := leNat (bs.take 16)

/-! ### The journal (25 R395, R396) -/

/-- The bytes of an entry (25 Table 25-4). -/
def entryBytes (pos time : Nat) (e : Event) (link : List Byte) : List Byte :=
  leBytes 8 pos ++ leBytes 8 time ++ leBytes 2 e.code ++ leBytes 2 e.source ++ leBytes 4 e.detail ++ leBytes 8 e.cookie
    ++ leBytes 16 e.digest ++ link

/-- LINK of the next entry. -/
def journalLink (s : State) : List Byte :=
  if s.hub.jhead = 0 then List.replicate 16 0 else (sha256 s.hub.jlast).take 16

/-- An entry is written at the head. -/
def writeEntry (s : State) (e : Event) : State :=
  let h := s.hub
  let bs := entryBytes h.jhead (s.now / Config.nanosecond) e (journalLink s)
  let s := hostWrite s (h.jbase + 64 * (h.jhead % 2 ^ h.jlog)) bs
  { s with hub := { s.hub with jhead := h.jhead + 1, jlast := bs, uncovered := some (h.uncovered.getD s.now) } }

/-- The ring holds as many entries as it can (25 R396). -/
def journalFull (s : State) : Bool := 2 ^ s.hub.jlog ≤ s.hub.jhead - s.hub.jconsumed

/-- The place of the next entry takes no write now: it is tried again (23 R365). -/
def headBlocked (s : State) : Bool := landBlocked s 0 (s.hub.jbase + 64 * (s.hub.jhead % 2 ^ s.hub.jlog)) 64

/-- An entry can be written at once. -/
def journalOpen (s : State) : Bool := !journalFull s && !headBlocked s && s.hub.jqueue.isEmpty && s.hub.jlost == 0

/-- The BOOT entry (25 Table 25-5). -/
def bootEvent (s : State) : Event := { code := 0x01, source := 0xFFFF, digest := digest16 (fwMeasure s) }

/-- An event is journalled: written, held in the queue, or counted (25 R396). Position 0 is BOOT (25 R395). -/
def journal (s : State) (e : Event) : State :=
  let s := if s.hub.jhead = 0 then writeEntry s (bootEvent s) else s
  if journalOpen s then writeEntry s e
  else if s.hub.jqueue.length < 1024 then { s with hub := { s.hub with jqueue := s.hub.jqueue ++ [e] } }
  else { s with hub := { s.hub with jlost := s.hub.jlost + 1 } }

/-- The position that the next event will have. -/
def nextPosition (s : State) : Nat :=
  let n := max 1 s.hub.jhead
  n + s.hub.jqueue.length + if s.hub.jlost = 0 then 0 else 1

/-- An event of a capsule (08 Table 8-11). -/
def capsuleEvent (c : Capsule) (code detail : Nat) : Event :=
  { code := code, source := c.source, detail := detail, cookie := c.cookie.toNat, digest := c.recDigest }

/-- WORLD_OPEN and WORLD_CLOSE (08 Table 8-11). -/
def worldEvent (w : World) (code : Nat) : Event :=
  { code := code, source := 0xFFFF, cookie := w.chain.toNat, digest := digest16 (beBytes 32 w.tag.toNat) }

/-! ### Receipts (25 R397) -/

/-- A receipt (25 Table 25-6). -/
def receiptBytes (s : State) (w : World) (close : Nat) : List Byte :=
  leBytes 4 0x54434552 ++ leBytes 2 1 ++ leBytes 2 w.ends.toNat ++ identityBytes ++ fwMeasure s ++ leBytes 8 w.chain.toNat
    ++ beBytes 32 w.tag.toNat ++ leBytes 8 w.completed ++ beBytes 32 w.measure.toNat ++ leBytes 8 w.openPos.toNat
    ++ leBytes 8 close ++ List.replicate 24 0

/-- Where the next receipt goes. -/
def receiptAt (s : State) : Nat := s.hub.rcptBase + 256 * (s.hub.rcptHead % 2 ^ s.hub.rcptLog)

/-- No receipt can be issued now: a full batch waits for its root (25 R398), or the place takes no write (23 R365). -/
def receiptShut (s : State) : Bool := decide (4096 ≤ s.hub.batch.length) || landBlocked s 0 (receiptAt s) 256

/-- The receipt of a world whose WORLD_CLOSE stands at `close`: it is written, joins the batch, and is journalled. -/
def issueReceipt (s : State) (w : World) (close : Nat) : State :=
  let h := s.hub
  let bs := receiptBytes s w close
  let at0 := receiptAt s
  let s := hostWrite s at0 bs
  let s := { s with hub := { s.hub with rcptHead := h.rcptHead + 1, batch := h.batch ++ [bs] } }
  journal s { code := 0x51, source := 0xFFFF, detail := min w.completed 0xFFFFFFFF, cookie := at0, digest := digest16 (sha256 bs) }

/-- WORLD_CLOSE of a world, and its receipt: at once, or when the held entry is written and its position is known. An entry that is dropped has
no position; the receipt then gives the one that it would have had (DESIGN CHOICE, log 43). -/
def closeEntry (s : State) (w : World) : State :=
  let e := worldEvent w 0x34
  if journalOpen s = false ∧ s.hub.jqueue.length < 1024 then journal s { e with receipt := some w }
  else issueReceipt (journal s e) w (nextPosition s)

/-! ### Held events (25 R396) -/

/-- Held events are written while there is room; `fuel` bounds their number. -/
def drainQueue : Nat → State → State
  | 0, s => s
  | fuel + 1, s =>
    if journalFull s || headBlocked s then s
    else
      match s.hub.jqueue with
      | [] => s
      | e :: t =>
        let u := writeEntry { s with hub := { s.hub with jqueue := t } } { e with receipt := none }
        match e.receipt with
        | none => drainQueue fuel u
        | some w => if receiptShut s then s else drainQueue fuel (issueReceipt u w s.hub.jhead)

/-- Room has returned: JOURNAL_LOST first, if events were dropped, and then the held events in order, each WORLD_CLOSE with its receipt (25
R396, R397). -/
def drainJournal (s : State) : State :=
  if journalFull s || headBlocked s then s
  else
    let s := if s.hub.jlost = 0 then s
             else writeEntry { s with hub := { s.hub with jlost := 0 } }
               { code := 0x53, source := 0xFFFF, detail := min s.hub.jlost 0xFFFFFFFF }
    drainQueue (2 * s.hub.jqueue.length) s

/-! ### Roots (25 R398) -/

/-- The largest power of two below `n`, for n above 1. -/
def splitPoint (n : Nat) : Nat := 2 ^ Nat.log2 (n - 1)

/-- The Merkle tree hash of RFC 6962; `fuel` bounds the depth. -/
def merkle : Nat → List (List Byte) → List Byte
  | 0, _ => []
  | _, [] => sha256 []
  | _, [d] => sha256 (0 :: d)
  | fuel + 1, ds =>
    let k := splitPoint ds.length
    sha256 (1 :: (merkle fuel (ds.take k) ++ merkle fuel (ds.drop k)))

/-- The signed bytes of a root record (25 Table 25-7). -/
def rootBytes (s : State) : List Byte :=
  let h := s.hub
  leBytes 8 h.batchNo ++ leBytes 8 (h.jhead - 1) ++ sha256 h.jlast ++ merkle (h.batch.length + 1) h.batch
    ++ leBytes 4 h.batch.length ++ List.replicate 4 0 ++ leBytes 8 (s.now / Config.nanosecond) ++ identityBytes ++ fwMeasure s

/-- A root is due (25 R398). -/
def rootDue (s : State) : Bool :=
  decide (4096 ≤ s.hub.batch.length) ||
    s.hub.uncovered.elim false fun t => t + 1000000 * Config.nanosecond ≤ s.now

/-- Where the next root goes: one of the eight root slots behind the receipts. -/
def rootAt (s : State) : Nat := s.hub.rcptBase + 256 * 2 ^ s.hub.rcptLog + 32768 * (s.hub.batchNo % 8)

/-- The root of the batch is signed, written and journalled. -/
def signRoot (s : State) : State :=
  let h := s.hub
  let m := rootBytes s
  let bs := m ++ (List.range 17088).map (Config.rootSignature identitySeed m)
  let at0 := rootAt s
  let s := hostWrite s at0 bs
  let s := { s with hub := { s.hub with batch := [], batchNo := h.batchNo + 1, rootAddr := at0, uncovered := none } }
  journal s { code := 0x50, source := 0xFFFF, detail := h.batchNo % 2 ^ 32, cookie := at0, digest := digest16 (sha256 bs) }

/-- ROOT_SIGN (25 R398), where a root is due. Events that waited for their place, or for a root, are written then. -/
def execRootSign (s : State) : Out :=
  let s := drainJournal s
  if rootDue s = false ∨ s.hub.jhead = 0 ∨ landBlocked s 0 (rootAt s) 17248 = true then .next s
  else .next (drainJournal (signRoot s))

/-- JCONSUMED_WRITE (25 R396): the host has consumed the entries below State.arg.value. -/
def execJconsumedWrite (s : State) : Out := .next (drainJournal { s with hub := { s.hub with jconsumed := s.arg.value % 2 ^ 64 } })

end Sys2Proof.Machine
end

