-- ==== Sys2Proof/Machine/Worlds.lean ====
section
/-! DEFINITION. Keys of extents, what the hub reads and writes through a record's extents, slots of a capsule, worlds and their
end, the removal of a capsule (08 R164, R168, R173 to R179; 25 R388, R389, R392, R393). -/

namespace Sys2Proof.Machine

/-! ### Targets (09 R200 to R202; 26 R406) -/

/-- Bytes of the class-1 map (26 R406). -/
def cxlBytes (s : State) : Nat := s.hub.cxl.foldl (fun n p => if p.2.on then n + p.2.capacity * 2 ^ 30 else n) 0

/-- `n` bytes at an address of a class lie in its map (09 Table 9-6). -/
def targetOk (s : State) (cls addr n : Nat) : Bool :=
  match cls with
  | 0 =>
    decide (addr + n ≤ 2 ^ 40) && (List.range ((addr + n - 1) / 2 ^ 35 - addr / 2 ^ 35 + 1)).all fun i =>
      let g := addr / 2 ^ 35 + i
      s.hub.physmap.testBit g && !(poolGroups s).contains g
  | 1 => addr + n ≤ cxlBytes s
  | 2 => true
  | 3 => addr + n ≤ s.hub.spool * 2 ^ 35
  | _ => false

/-- Where a byte of a class stands in memory; a host page that is not translated has no place. -/
def targetKey (s : State) (cls addr : Nat) : Option Nat := if cls = 2 then hostByte s addr else some (memKey cls addr)

/-- How the host pages of an access of the hub stand (09 R203); other classes need no translation. -/
def targetView (s : State) (k : Kind) (cls addr n : Nat) : AtsView := if cls = 2 then atsView s k addr n else .ready

/-- The hub uses the pages of an access (09 R203). -/
def touchTarget (s : State) (cls addr n : Nat) : State := if cls = 2 then touchPages s addr n else s

/-- `n` bytes that the hub reads at a target under a key: none where it cannot read them all. -/
def readTarget (s : State) (cls addr : Nat) (key : KeyId) (n : Nat) : Option (List Byte) :=
  if targetOk s cls addr n = false then none
  else if cls = 2 then
    if targetView s .load 2 addr n = .ready then
      (List.range n).mapM fun i => (hostByte s (addr + i)).bind fun k =>
        if s.mem.poisoned k then none else some (s.mem.byte k (hostKey key (addr + i)))
    else none
  else if s.mem.anyPoison (memKey cls addr) n || (cls == 1 && expanderFailed s addr n) then none
  else some (s.mem.read key n (memKey cls addr))

/-- `n` bytes of a host page as the hub reads them to hash them; of a page that the host refuses it has none (log 87). -/
def hostPlain (s : State) (key : KeyId) (a n : Nat) : List Byte :=
  (List.range n).map fun i => match hostByte s (a + i) with
    | some k => s.mem.byte k (hostKey key (a + i))
    | none => Config.unreadable s.fresh (a + i)

/-- The hub reads on in host memory, page by page, up to a page that waits for its translation (09 R203): the state, and the bytes it has. -/
def gatherHost (key : KeyId) : Nat → State → Nat → Nat → List Byte → State × List Byte
  | 0, s, _, _, got => (s, got)
  | fuel + 1, s, a, n, got =>
    let k := min n (4096 - a % 4096)
    if n = 0 then (s, got)
    else
      match atsView s .load a k with
      | .missing => (s, got)
      | .refused => gatherHost key fuel s (a + k) (n - k) (got ++ (List.range k).map fun i => Config.unreadable s.fresh (a + i))
      | .ready => gatherHost key fuel (touchPages s a k) (a + k) (n - k) (got ++ hostPlain s key a k)

/-- Capsule `n` gathers an extent, kept under number `no`; one of another class is read at once. -/
def gatherExtent (s : State) (n no : Nat) (e : Extent) : State :=
  match capAt s n with
  | none => s
  | some c =>
    if e.cls ≠ 2 then s
    else
      let got := sget [] c.gathered no
      let (s, bs) := gatherHost (extentKey c.payload c.info.chain e) (e.length / 4096 + 2) s (e.target + got.length) (e.length - got.length) got
      modCap s n fun c => { c with gathered := sset [] c.gathered no bs }

/-- All bytes of an extent are at hand. -/
def isGathered (c : Capsule) (no : Nat) (e : Extent) : Bool := e.cls != 2 || (sget [] c.gathered no).length == e.length

/-- The plaintext of an extent of a capsule (25 R393). A poisoned granule gives the bytes that it holds: neither 08 R170 nor 25 R393 says what
the hash of one is (DESIGN CHOICE, log 44). -/
def extentBytes (s : State) (c : Capsule) (no : Nat) (e : Extent) : List Byte :=
  if e.cls = 2 then sget [] c.gathered no else s.mem.read (extentKey c.payload c.info.chain e) e.length (memKey e.cls e.target)

/-- A write that the hub makes at a target; of host memory it reaches the pages that the host lets it write. -/
def writeTarget (s : State) (cls addr : Nat) (key : KeyId) (data : List Byte) : State :=
  if cls = 2 then
    (hostGranules addr data).foldl (fun t p => match hostByte t p.1, atsPage t .store (p.1 / 4096) with
      | some k, .ready => { t with mem := t.mem.write k p.2 (hostKey key p.1) false }
      | _, _ => t) (touchPages s addr data.length)
  else landMem s cls addr key data false

/-! ### Windows of a record (08 R168) -/

/-- The entries that cover a window address. -/
def covers (es : List Extent) (a : Nat) : List Extent := es.filter fun e => e.base ≤ a && a < e.base + e.length

/-- The first entry that covers `n` bytes at a window address. -/
def covering (es : List Extent) (a n : Nat) : Option Extent := es.find? fun e => e.base ≤ a && a + n ≤ e.base + e.length

/-- The target of a window address in the entry that covers it. -/
def targetIn (e : Extent) (a : Nat) : Nat := e.target + (a - e.base)

/-- Class and address as one number (08 Table 8-3). -/
def targetForm (cls addr : Nat) : Nat := cls * 2 ^ 60 + addr

/-! ### Slots of a capsule -/

/-- Every slot whose record is not the reset record, and the slot in hand. -/
def listedSlots (s : State) : List SlotId := s.cur :: s.others.map fun p => ⟨BitVec.ofNat 11 (p.1 / 5), p.1 % 5⟩

/-- The task slots bound to a capsule, by rising linear index (20 R329). -/
def capsuleSlots (s : State) (cap : Nat) : List SlotId :=
  ((listedSlots s).filter fun i =>
      let l := getSlot s i
      i.slot != 4 && l.capsule == some cap && l.run != .unbound).mergeSort
    fun a b => decide ((getSlot s a).linear ≤ (getSlot s b).linear)

/-- The service slots in an activation for a capsule. -/
def activations (s : State) (cap : Nat) : List SlotId :=
  (listedSlots s).filter fun i => i.slot == 4 && (getSlot s i).capsule == some cap && (getSlot s i).run != .unbound

/-- Task slots that are bound to a capsule's tile task. -/
def boundSlots (s : State) : List SlotId :=
  (listedSlots s).filter fun i =>
    let l := getSlot s i
    i.slot != 4 && l.capsule.isSome && l.run != .unbound && l.run != .exited

/-- Every ring is charged for its bound slots up to now. -/
def chargeAll (s : State) : State := settleDeficits ((boundSlots s).foldl chargeSlot s)

/-- Bytes of a partition (09 R189). -/
def partBytes (l : Slot) : Nat := 4096 * (partRegs l + partScratch l + partAcc l + partHold l)

/-- A range of memory zeroed, with its poison marks: whole granules. -/
def Memory.zero (m : Memory) (k n : Nat) : Memory :=
  { m with cells := m.cells.filter fun c => !(k ≤ c.1 && c.1 < k + n)
           poison := m.poison.filter fun p => !(k ≤ 64 * p.1 && 64 * p.1 < k + n) }

/-- The record of a slot without its tile task: what belongs to the physical slot stays (21 R346). -/
def emptySlot (now : Nat) (l : Slot) : Slot := { groups := (leaveGroups now l).groups }

/-- A range of memory zeroed but for some ranges in it. -/
def Memory.zeroBut (m : Memory) (keep : List (Nat × Nat)) (k n : Nat) : Memory :=
  let kept : Nat → Bool := fun a => keep.any fun r => r.1 ≤ a && a < r.1 + r.2
  { m with cells := m.cells.filter fun c => !(k ≤ c.1 && c.1 < k + n) || kept c.1
           poison := m.poison.filter fun p => !(k ≤ 64 * p.1 && 64 * p.1 < k + n) || kept (64 * p.1) }

/-- Partitions on the core that tile tasks of other slots hold now: a slot whose task has exited may have lost its own to them. -/
def otherRuns (s : State) (i : SlotId) : List (Nat × Nat) :=
  (List.range 4).filterMap fun j =>
    let l := getSlot s ⟨i.core, j⟩
    if j = i.slot ∨ l.run = .unbound ∨ l.run = .exited then none else some (poolKey i.core l.partBase, partBytes l)

/-- A slot is freed and its partition zeroed (08 R179; 20 R328 step 6). -/
def freeSlot (s : State) (i : SlotId) : State :=
  let l := getSlot s i
  let s := { s with mem := s.mem.zeroBut (otherRuns s i) (poolKey i.core l.partBase) (partBytes l) }
  setSlot s i (emptySlot s.now l)

/-! ### Submission rings (08 R181, R182) -/

def ringAt (s : State) (n : Nat) : Ring := sget {} s.hub.rings n

/-- The ring's bytes lie in the published map. -/
def ringMapped (s : State) (r : Ring) : Bool := targetOk s 0 r.base (0x40 + 32 * 2 ^ r.log)

/-- The hub takes entries from the host ring. -/
def ringTaking (s : State) (n : Nat) : Bool := (ringAt s n).on && sget false s.hub.scanning n && ringMapped s (ringAt s n)

/-- The read index of a host ring. -/
def readIndex (s : State) (n : Nat) : Nat := leNat (hostRead s ((ringAt s n).base + 8) 8)

/-- The 32 bytes of entry number `i` of a host ring; none where its ticket does not match. In a poisoned granule an entry, a ticket or an index
reads as the bytes that it holds: 08 R182 does not say (DESIGN CHOICE, log 44). -/
def ringBytes (s : State) (n i : Nat) : Option (List Byte) :=
  let r := ringAt s n
  let e := hostRead s (r.base + 0x40 + 32 * (i % 2 ^ r.log)) 32
  if leNat ((e.drop 0x18).take 8) = (i + 1) % 2 ^ 64 then some e else none

/-- The first entry number from `i` on whose ticket does not match; `fuel` bounds their number. -/
def pendingEnd (s : State) (n : Nat) : Nat → Nat → Nat
  | 0, i => i
  | fuel + 1, i => if (ringBytes s n i).isSome then pendingEnd s n fuel (i + 1) else i

/-- The entries that wait in the host rings when a world closes: if their handle carries its EPOCH, they are rejected (25 R392). -/
def lateEntries (s : State) (w : World) : List Late :=
  (s.hub.scanning.filter fun p => ringTaking s p.1).filterMap fun p =>
    let i := readIndex s p.1
    let k := pendingEnd s p.1 (2 ^ (ringAt s p.1).log) i
    if w.chain = 0 ∨ k = i then none else some ⟨p.1, k, w.tag, w.chain, w.epoch⟩

/-! ### Worlds (08 R178, R179; 25 R392) -/

/-- The open world of a tag and a chain id other than 0. -/
def worldOf (s : State) (tag : BitVec 256) (chain : Word) : Option Nat :=
  if chain = 0 then none else (s.hub.worlds.find? fun p => p.2.tag == tag && p.2.chain == chain).map fun p => p.1

/-- The world whose port key a packet carries (25 R390). -/
def worldOfKey (s : State) (k : PortKey) : Option Nat := (s.hub.worlds.find? fun p => worldPort s p.2 == k).map fun p => p.1

/-- The world tag (25 R386). -/
def worldTag (rootKey : BitVec 256) : BitVec 256 :=
  digest256 (("T9 world".toList.map fun c => BitVec.ofNat 8 c.toNat) ++ beBytes 32 rootKey.toNat)

/-- The slot belongs to world `n` or to none. -/
def inWorld (s : State) (n : Nat) (l : Slot) : Bool := (l.capsule.bind (capAt s)).elim true fun c => c.world == n

/-- The partitions on a core that tasks of other worlds hold now: first key and bytes. -/
def foreignRuns (s : State) (n : Nat) (c : CoreId) : List (Nat × Nat) :=
  (List.range 4).filterMap fun j =>
    let l := getSlot s ⟨c, j⟩
    if l.run = .unbound ∨ inWorld s n l = true then none else some (poolKey c l.partBase, partBytes l)

/-- A request of `n` bytes with number `id` may leave through the host link: no other waits before it, and the bucket holds its tokens (25
R399). -/
def bucketLets (w : World) (id n : Nat) : Bool := !w.guarded || ((w.waiting.head?.elim true fun h => h == id) && decide (n ≤ w.tokens))

/-- It waits among the requests of its world. -/
def joinBucket (id : Nat) (w : World) : World :=
  if w.guarded && !w.waiting.contains id then { w with waiting := w.waiting ++ [id] } else w

/-- It takes its tokens, and waits no more. -/
def payBucket (id n : Nat) (w : World) : World :=
  if w.guarded then { w with tokens := w.tokens - n, waiting := w.waiting.filter fun i => i != id } else w

/-- Of `n` zero bytes those for which there are tokens: they leave in requests of whole granules, as small as need be (DESIGN CHOICE, log 49). -/
def scrubLets (w : World) (n : Nat) : Nat :=
  if w.guarded = false then n
  else if (w.waiting.head?.elim true fun h => w.scrubNo == some h) then min n (w.tokens / 64 * 64)
  else 0

/-- They take their tokens. -/
def payScrub (n : Nat) (w : World) : World := if w.guarded then { w with tokens := w.tokens - n } else w

/-- A host range is zeroed for world `n` as far as its pages have a translation or a refusal and its bucket has tokens: the state, and the
address and the length of the rest, which waits (09 R203; 25 R399). -/
def zeroHost (n : Nat) (key : KeyId) : Nat → State → Nat → Nat → State × Nat × Nat
  | 0, s, a, len => (s, a, len)
  | fuel + 1, s, a, len =>
    let k := min len (4096 - a % 4096)
    if len = 0 then (s, a, 0)
    else
      match atsView s .store a k with
      | .missing => (s, a, len)
      | .refused => zeroHost n key fuel s (a + k) (len - k)
      | .ready =>
        let j := (worldAt s n).elim 0 fun w => scrubLets w k
        if j = 0 then (s, a, len)
        else zeroHost n key fuel (modWorld (writeTarget s 2 a key (List.replicate j 0)) n (payScrub j)) (a + j) (len - j)

/-- The S extents of world `n` are zeroed (08 R179 step 2): the state, and what waits for a translation, for tokens, or for an intake or a
doorbell that takes no write now (23 R365). -/
def scrubAll (n : Nat) : List (Nat × Nat × Nat × KeyId) → State → State × List (Nat × Nat × Nat × KeyId)
  | [], s => (s, [])
  | (cls, a, len, key) :: t, s =>
    if cls = 2 then
      let (s, a, len) := zeroHost n key (len / 4096 + 3) s a len
      let (s, rest) := scrubAll n t s
      (s, if len = 0 then rest else (2, a, len, key) :: rest)
    else if landBlocked s cls a len then
      let (s, rest) := scrubAll n t s
      (s, (cls, a, len, key) :: rest)
    else scrubAll n t (writeTarget s cls a key (List.replicate len 0))

/-- What is left of a world's zeros waits, those of host memory with a number among its requests (25 R399). -/
def holdScrub (s : State) (n : Nat) (rest : List (Nat × Nat × Nat × KeyId)) : State :=
  let numbered := (worldAt s n).elim false fun w => w.guarded && w.scrubNo.isNone && rest.any fun r => r.1 == 2
  let no := s.fresh
  let s := modWorld s n fun w => { w with scrub := rest, used := [] }
  if numbered then bump (modWorld s n fun w => joinBucket no { w with scrubNo := some no }) else s

/-- The four steps of a close, and its entries (08 R179; 25 R392, R397). While some of the zeros of step 2 cannot be written, or no receipt can
be issued, the world stays listed with a live count of 0. -/
def closeWorld (s : State) (n : Nat) : State :=
  match worldAt s n with
  | none => s
  | some w =>
    -- partitions, accumulator stores, hold areas and inboxes of the slots that it used
    let s := w.used.foldl (fun t u =>
      let t := { t with mem := t.mem.zeroBut (foreignRuns t n u.1.core) (poolKey u.1.core u.2.1) u.2.2 }
      let l := getSlot t u.1
      if inWorld t n l = true ∧ (l.run = .unbound ∨ l.run = .exited) then setSlot t u.1 (emptySlot t.now l) else t) s
    -- S extents
    let (s, rest) := scrubAll n w.scrub s
    if rest.isEmpty && !receiptShut s then
      -- code cache and keys
      closeEntry { s with hub := { s.hub with worlds := serase s.hub.worlds n, late := s.hub.late ++ lateEntries s w } } w
    else holdScrub s n rest

/-- Worlds that are closing and wait. -/
def closingWorlds (s : State) : List Nat := (s.hub.worlds.filter fun w => w.2.live == 0).map fun w => w.1

/-- They go on. -/
def closeMore (s : State) : State := (closingWorlds s).foldl closeWorld s

/-- The live count of a world falls by one; at 0 the world closes (08 R178). -/
def leaveWorld (s : State) (n : Nat) : State :=
  let s := modWorld s n fun w => { w with live := w.live - 1 }
  match worldAt s n with
  | some w => if w.live = 0 then closeWorld s n else s
  | none => s

/-- The extent tables, placement tables and host translations of a capsule are cleared (08 R173 step 7), and cellar engines forget
its binding (23 R361). -/
def clearTables (s : State) (cap : Nat) (r : Record) : State :=
  let hosts := r.extents.filter fun e => e.cls == 2
  let gone : Nat → Bool := fun p => hosts.any fun e => e.target / 4096 ≤ p && p ≤ (e.target + e.length - 1) / 4096
  let watch := s.mem.watch.filter fun w => w.1 != cap
  { s with
    cores := s.cores.filterMap fun p =>
      let k := { p.2 with ranges := serase p.2.ranges cap }
      if k = {} then none else some (p.1, k)
    hub := { s.hub with
      atc := s.hub.atc.filter fun p => !gone p.1
      atcOrder := s.hub.atcOrder.filter fun p => !gone p
      freed := s.hub.freed.filter fun p => p.2 != cap
      cohort := s.hub.cohort.filter fun p => p.1 != cap }
    bindings := serase s.bindings cap
    engines := s.engines.filter fun p => p.2.cap != some cap
    mem := { s.mem with watch := watch
                        past := s.mem.past.filterMap fun p =>
                          match p.2.filter fun v => v.1 != cap with
                          | [] => none
                          | l => some (p.1, l) } }

/-- The capsule is gone (08 R174). -/
def removeCapsule (s : State) (cap : Nat) : State :=
  match capAt s cap with
  | none => s
  | some c =>
    let s := clearTables s cap c.info
    let s := settleDeficits { s with hub := { s.hub with capsules := serase s.hub.capsules cap } }
    leaveWorld s c.world

/-! ### Measurement (25 R393) -/

def extendMeasure (m : BitVec 256) (ty : Nat) (d : List Byte) : BitVec 256 :=
  digest256 (beBytes 32 m.toNat ++ [BitVec.ofNat 8 ty] ++ d)

/-- What a completing capsule extends its world's measurement by, in order. -/
def measureSteps (s : State) (c : Capsule) : List (Nat × List Byte) :=
  let r := c.info
  let args : List Byte :=
    if r.flags.getLsbD 3 then
      match r.extents[leNat (r.args.take 2)]? with
      | some e => extentBytes s c (leNat (r.args.take 2)) e
      | none => []
    else r.args
  (1, beBytes 32 r.digest.toNat) :: (2, sha256 args) ::
    (r.extents.zipIdx.filterMap fun p =>
      if r.measure.getLsbD p.2 then
        some (3, sha256 (leBytes 2 p.2 ++ leBytes 8 p.1.length ++ extentBytes s c p.2 p.1))
      else none)

/-- The extents that the measurement reads: those of the measure mask, and under ARGEXTENT the argument extent. -/
def measuredExtents (c : Capsule) : List (Nat × Extent) :=
  c.info.extents.zipIdx.filterMap fun p =>
    if c.info.measure.getLsbD p.2 || (c.info.flags.getLsbD 3 && p.2 == leNat (c.info.args.take 2)) then some (p.2, p.1) else none

/-- Capsule `n` gathers them. -/
def gatherMeasured (s : State) (n : Nat) : State :=
  ((capAt s n).elim [] measuredExtents).foldl (fun t p => gatherExtent t n p.1 p.2) s

/-- They are all at hand (08 R173 step 4). -/
def measureReady (c : Capsule) : Bool := (measuredExtents c).all fun p => isGathered c p.1 p.2

def measureCapsule (s : State) (c : Capsule) : State :=
  let steps := measureSteps s c
  modWorld s c.world fun w =>
    { w with measure := steps.foldl (fun m e => extendMeasure m e.1 e.2) w.measure, completed := w.completed + 1 }

end Sys2Proof.Machine
end

