-- ==== Sys2Proof/Machine/Fabric.lean ====
section
/-! DEFINITION. Packets: forwarding, arrival at performers, arrival tables, responses, messages (06 R127 to R130; 09 R196, R197;
10 R209; 11 R223; 21 R335 to R349; 25 R390, R399). -/

namespace Sys2Proof.Machine

/-! ### Packets in flight -/

/-- AGE (21 R336): one for each 160 ns, at most 255. -/
def packetAge (s : State) (p : Packet) : Nat := min 255 (p.age0 + (s.now - p.born) / (160 * Config.nanosecond))

def dropPacket (s : State) (id : Nat) : State := { s with net := serase s.net id }

def putPacket (s : State) (id : Nat) (p : Packet) : State := { s with net := sput s.net id p }

/-! ### Checks at the target (09 R196, R197) -/

/-- The packet writes bytes of a copy into the scratchpad of the exited tile task that issued it (04 R109; log 75). -/
def leftPool (s : State) (p : Packet) (c : CoreId) (off n : Nat) : Bool :=
  p.piece.isSome && p.ofDev.isNone && leftScratch s p.src c off n

/-- Where a packet of `n` bytes is performed. -/
def landing (s : State) (p : Packet) (n : Nat) (k : Kind) : Landing :=
  match p.dest with
  | .mem cls a => .at0 (.mem cls a p.key)
  | .pool c off =>
    if (scratchHolder s c p.capsule off n).isSome || leftPool s p c off n then .at0 (.pool c off) else .refused (dieOf c)
  | .peer a =>
    match worldOfKey s p.portKey with
    | some w =>
      let c : CoreId := BitVec.ofNat 11 (bits a.toNat 35 11)
      let off := bits a.toNat 0 19
      if spaceOf a = 2 ∧ leftPool s p c off n = true then .at0 (.pool c off) else peerLanding s w a n k p.header.isSome
    | none => .stray 0
  | .issuer a =>
    if p.ofDev.isSome then .stray 0
    else if spaceOf a = 0 then windowLanding s p.capsule a n k p.header.isSome
    else
      let c := namedCore a p.src.core
      let off := bits a.toNat 0 19
      if sramFieldsOk a = true ∧ ((scratchHolder s c p.capsule off n).isSome || leftPool s p c off n) = true then .at0 (.pool c off)
      else .refused (dieOf c)
  | .task _ => .stray 0
  | .reply _ => .stray 0

/-- Size and kind of a packet's access. -/
def cargoAccess : Cargo → Nat × Kind
  | .write d _ => (d.length, .store)
  | .read n => (n, .load)
  | .atomic _ sz _ _ => (asizeBytes sz, .atomic)
  | .flag _ _ => (8, .store)
  | .piece _ _ n _ _ => (n, .load)
  | _ => (0, .load)

/-! ### Routes (21 R335, R336) -/

/-- A place of the module as the fabric reaches it: the die, 8 for the hub; the cluster of a core; the port of the last switch. -/
structure Bound where
  die : Nat
  cl : Option Nat := none
  port : Nat := 0
  deriving DecidableEq, Repr

def coreBound (c : CoreId) : Bound := ⟨dieOf c, some (clusterOf c), coreNumOf c⟩

/-- The CXL port that owns a class-1 address (09 R202). -/
def cxlPortOf (s : State) (addr : Nat) : Nat :=
  (s.hub.cxl.foldl (fun (a : Nat × Nat) p =>
    if p.2.on then
      let hi := a.1 + p.2.capacity * 2 ^ 30
      (hi, if a.1 ≤ addr ∧ addr < hi then p.1 else a.2)
    else a) (0, 0)).2

/-- Where a place lies; at the package switch port 8 is the hub's, 10 the host link's, 12 + p that of CXL port p (21 Table 21-1). -/
def placeBound (s : State) : Place → Bound
  | .mem cls a _ =>
    if cls = 0 ∨ cls = 3 then ⟨memDie s cls a, none, 16 + sliceOf s cls a % 32⟩
    else ⟨8, none, if cls = 1 then 12 + cxlPortOf s a else 10⟩
  | .pool c _ => coreBound c
  | .peer _ => ⟨8, none, 8⟩

/-- Where a packet is bound within the module. A device's address is looked up at the hub, as at any peer (09 R197). -/
def boundFor (s : State) (p : Packet) : Bound :=
  match p.dest with
  | .mem cls a => placeBound s (.mem cls a p.key)
  | .pool c _ => coreBound c
  | .peer _ | .issuer _ =>
    match landing s p (cargoAccess p.cargo).1 (cargoAccess p.cargo).2 with
    | .at0 pl => placeBound s pl
    | .refused d => ⟨d, none, 0⟩
    | .stray _ => ⟨8, none, 8⟩
  | .task n => ((placedAt s p.capsule n).map fun i => coreBound i.core).getD ⟨p.srcDie, none, 0⟩
  | .reply i => coreBound i.core

/-- The die of a destination: 8 the hub. -/
def destDie (s : State) (p : Packet) : Nat := (boundFor s p).die

/-- The level of the lowest switch above a place on `die` and cluster `cl` and the packet's destination. -/
def levelFrom (s : State) (p : Packet) (die : Nat) (cl : Option Nat) : Nat :=
  if leaves s p then 3
  else
    let b := boundFor s p
    if die = 8 ∨ b.die ≠ die then 2 else if b.cl.isSome = true ∧ b.cl = cl then 0 else 1

/-- A packet as it enters the fabric at a place of the module: a core's, a slice's or the hub's. A device's address goes through the hub. -/
def enterAt (s : State) (b : Bound) (p : Packet) : Packet :=
  let hop : Hop := if b.die = 8 then .package else if b.cl.isSome then .cluster else .spine
  let level := match p.dest with
    | .peer _ => max 2 (levelFrom s p b.die b.cl)
    | _ => levelFrom s p b.die b.cl
  { p with hop := hop, climb := level - hopLevel hop, srcDie := b.die, srcCl := b.cl.getD 16, inPort := b.port, home := b.die, away := false
           flow := none, age0 := 0, born := s.now }

/-- The switch where a packet stands: its level, its die and its cluster. -/
def switchOf (s : State) (p : Packet) : Nat × Nat × Nat :=
  let b := boundFor s p
  match p.hop with
  | .cluster => if p.climb = 0 then (0, b.die, b.cl.getD 16) else (0, p.srcDie, p.srcCl)
  | .spine => (1, if p.climb = 0 then b.die else p.srcDie, 0)
  | .package => (2, 8, 0)
  | .port n => (3, n, 0)
  | .target => (4, 0, 0)
  | .combining => (5, p.srcDie, p.srcCl)

/-- The output port that it wants: upward, or the one that leads to its destination. -/
def outPort (s : State) (p : Packet) : Nat :=
  let b := boundFor s p
  if p.climb ≠ 0 then 1000
  else
    match p.hop with
    | .cluster => b.port
    | .spine => b.cl.getD b.port
    | .package => if b.die = 8 then b.port else b.die
    | _ => 0

/-- The die in whose counters a packet's events at a switch are counted: that of the switch, and above the dies the one that it came from
(log 20). -/
def switchDie (s : State) (p : Packet) : Nat :=
  let d := (switchOf s p).2.1
  match p.hop with
  | .cluster | .spine => d % 8
  | _ => p.srcDie % 8

/-! ### Departures and completions (10 R209, R213; 18 R291) -/

/-- What a release store in the buffer of a slot waits for changes with a packet that precedes it: one with a lower number, or one of a copy that
was issued before it (10 R215; 11 R231). -/
def modBefore (l : Slot) (id : Nat) (p : Packet) (f : Before → Before) : Slot :=
  { l with storeBuf := l.storeBuf.map fun e =>
      if id < e.before.mark ∨ (p.piece.elim false fun c => e.before.copies.contains c.1) = true then { e with before := f e.before } else e }

/-- The write counts for its slot: it is not another device's, nor a unit's, and its task still has the slot. -/
def slotWrite (s : State) (p : Packet) : Bool := isWrite p.cargo && p.src.slot != 5 && p.ofDev.isNone && ofTask s p.src p

/-- The class of host or CXL memory in which a place lies, else 0. -/
def tierAt : Landing → Nat
  | .at0 (.mem 1 _ _) => 1
  | .at0 (.mem 2 _ _) => 2
  | _ => 0

/-- Its destination is on the die where it entered the fabric: it does not depart, though it may leave that die on its way (18 R291). -/
def stays (s : State) (p : Packet) : Bool := !leaves s p && destDie s p == p.home

/-- The packet as it is when it has departed; a write to the host or the CXL tier is marked as one for whose completion its slot waits. -/
def departed (s : State) (p : Packet) : Packet :=
  let (n, k) := cargoAccess p.cargo
  if p.away || stays s p then p
  else { p with away := true
                tier := if p.piece.isNone && slotWrite s p && !leaves s p then tierAt (landing s p n k) else p.tier }

/-- A write that its slot waits for in scope .sys leaves (10 R213). -/
def noteTier (s : State) (id : Nat) (p : Packet) : State :=
  modSlot s p.src fun l =>
    if p.tier = 1 then modBefore { l with outCxl := l.outCxl + 1 } id p fun b => { b with outCxl := b.outCxl + 1 }
    else modBefore { l with outHost := l.outHost + 1 } id p fun b => { b with outHost := b.outHost + 1 }

/-- A slot's write departs: its die hands it to a die-to-die link (10 R213). Those of a copy depart when its channel has counted them. -/
def noteDeparture (s : State) (id : Nat) (p : Packet) : State :=
  let q := departed s p
  if slotWrite s p = false ∨ p.piece.isSome = true then s
  else if q.tier ≠ 0 then noteTier s id q
  else
    modSlot s p.src fun l =>
      if leaves s p then modBefore { l with departDev := some s.now } id p fun b => { b with departDev := some s.now }
      else modBefore { l with departDie := some s.now } id p fun b => { b with departDie := some s.now }

/-- A write of a slot to the host or the CXL tier is complete (10 R213), or gone: one that has not departed was never waited for. -/
def noteComplete (s : State) (id : Nat) (p : Packet) : State :=
  if slotWrite s p = false ∨ p.tier = 0 then s
  else
    modSlot s p.src fun l =>
      if p.tier = 1 then modBefore { l with outCxl := l.outCxl - 1 } id p fun b => { b with outCxl := b.outCxl - 1 }
      else modBefore { l with outHost := l.outHost - 1 } id p fun b => { b with outHost := b.outHost - 1 }

/-- The bytes of a copy that a packet carries are counted: a message goes from the streamer's die to the channel (18 R291). -/
def sendCount (s : State) (p : Packet) : State :=
  match p.piece with
  | some (id, b, j) =>
    launch s (enterAt s ⟨p.home, none, 0⟩
      { p with cargo := .count id b (cargoAccess p.cargo).1 j, dest := .reply p.src, header := none, piece := none, inbound := false
               srcDev := BitVec.ofNat 16 ((ownDevice s).getD 0) })
  | none => s

/-- A packet leaves the die where it entered the fabric, or the hub, for another. -/
def depart (s : State) (id : Nat) (p : Packet) : State :=
  if p.away || stays s p then s else sendCount (noteDeparture s id p) p

/-- A request to a device leaves, or passes the hub where it names this one: its time-out runs from here (10 R209; 18 Table 18-7). -/
def noteRequest (s : State) (p : Packet) : State :=
  if p.ofDev.isSome then s
  else
    match p.cargo with
    | .read _ | .atomic _ _ _ _ =>
      modSlot s p.src fun l =>
        { l with pending := l.pending.map fun q =>
            if (q.parts.any fun r => r.1 == p.req) ∧ q.left.isNone = true then { q with left := some s.now } else q }
    | .piece _ _ _ c b =>
      modCopy s p.src.core c fun x => { x with served := x.served.map fun v => if v.1 = b then (v.1, { v.2 with left := some s.now }) else v }
    | _ => s

/-- An access by this device's own number: the hub stands for the port by which it would leave (09 R197). -/
def namesUs (s : State) (p : Packet) : Bool :=
  match p.dest with
  | .peer a => some (bits a.toNat 46 16) == ownDevice s
  | _ => false

/-- The flow in which a packet leaves: its port, and the device and port for which it is bound, the latter as State.arg.link says (25 R390). -/
def flowTo (s : State) (port : Nat) (p : Packet) : Nat :=
  let dev := match p.dest with
    | .peer a => bits a.toNat 46 16
    | _ => (p.ofDev.map fun d => d.toNat).getD 0
  (dev * 96 + port % 96) * 96 + s.arg.link % 96

/-- A packet leaves the module by a Skelser port, sealed under the next counter of its flow; the 4,097th of a flow within L_max waits (25 R390).
A device without a number of its own sends none (21 R339). -/
def leaveModule (s : State) (id port : Nat) (p : Packet) : State :=
  match ownDevice s, worldOfKey s p.portKey with
  | some own, some w =>
    let k := flowTo s port p
    let f : SentFlow := ((worldAt s w).map fun x => sget {} x.sent k).getD {}
    let recent := f.times.filter fun t => decide (s.now < t + Config.lifeMax)
    if 4096 ≤ recent.length then s
    else
      let s := modWorld (dropPacket s id) w fun x => { x with sent := sset {} x.sent k ⟨f.next + 1, recent ++ [s.now]⟩ }
      let s := noteRequest s p
      { s with outbox := s.outbox ++ [.packet { p with seq := f.next, age0 := packetAge s p, hop := .port port
                                                       ofDev := some (p.ofDev.getD (BitVec.ofNat 16 own)) }] }
  | _, _ => dropPacket s id

/-! ### Links (21 R337) -/

/-- The link that a packet takes next: to or from a die, a Skelser port, the host link or a CXL port. `port` is the port that an outbound packet
is given. -/
def nextLink (s : State) (port : Nat) (p : Packet) : Option Nat :=
  match p.hop with
  | .spine => if p.climb = 0 then none else some (p.srcDie % 8)
  | .package =>
    if p.climb ≠ 0 then some (8 + port % 96)
    else if destDie s p < 8 then some (destDie s p) else none
  | .port n => if leaves s p then some (8 + n) else none
  | .target =>
    let b := boundFor s p
    if b.die ≠ 8 then none else if b.port = 10 then some 104 else if 12 ≤ b.port ∧ b.port < 20 then some (93 + b.port) else none
  | _ => none

/-- A link delivers nothing: it is down, or its receiver discards every flit until the replay (21 R337). -/
def linkShut (s : State) (n : Nat) : Bool := (sget {} s.hub.links n : Link).down || (sget {} s.hub.links n : Link).nak

/-- The packet cannot take that link. -/
def linkDown (s : State) (port : Nat) (p : Packet) : Bool := (nextLink s port p).elim false (linkShut s)

/-! ### Forwarding (21 R336) -/

/-- The cipher port at a place: a cluster's, a slice's, or that of the hub's memory unit (25 R390). -/
def cipherPort (die : Nat) (cl : Option Nat) (port : Nat) : Nat := 64 * die + cl.getD port

/-- The port at which the packet is sealed now for another port of the module, as it leaves its cluster, its slice or the hub: the flow of the
two; none where it is sealed already, stays in its cluster, or travels between devices, when a Skelser port seals it (25 R390; log 54). -/
def sealsNow (s : State) (p : Packet) : Option Nat :=
  let out := match p.hop with
    | .cluster => p.climb != 0
    | .spine | .package => true
    | _ => false
  if p.flow.isSome || p.inbound || leaves s p || !out then none
  else
    let b := boundFor s p
    some (cipherPort p.srcDie (if p.srcCl < 16 then some p.srcCl else none) (p.inPort % 64) * 1024 + cipherPort b.die b.cl b.port)

/-- The packet under the next counter of its flow within the module, which its world's port key seals; none where 4,096 of the flow have left
within L_pkg: it waits at its port (25 R390). -/
def sealPacket (s : State) (p : Packet) : Option (State × Packet) :=
  match sealsNow s p, worldOfKey s p.portKey with
  | some k, some w =>
    let f : SentFlow := ((worldAt s w).map fun x => sget {} x.innerSent k).getD {}
    let recent := f.times.filter fun t => decide (s.now < t + Config.lifePkg)
    if 4096 ≤ recent.length then none
    else some (modWorld s w fun x => { x with innerSent := sset {} x.innerSent k ⟨f.next + 1, recent ++ [s.now]⟩ }, { p with flow := some k, seq := f.next })
  | _, _ => some (s, p)

/-- A sealed packet that nothing holds back goes to its next hop; `port` is the Skelser port that an outbound one takes. -/
def advanceSealed (s : State) (id port : Nat) (p : Packet) : State :=
  match p.hop with
  | .combining =>
    let q := { p with hop := .cluster, born := s.now }
    putPacket s id (if leaves s q then { q with due := some (lifeEnd s q) } else q)
  | .target => s
  | .port n => if leaves s p then leaveModule s id n p else putPacket s id { p with hop := .package, inPort := 32 + n }
  | .cluster =>
    if p.climb = 0 then putPacket s id { p with hop := .target }
    else putPacket s id { p with hop := .spine, climb := p.climb - 1, inPort := p.srcCl }
  | .spine =>
    if p.climb = 0 then
      if (boundFor s p).cl.isSome then putPacket s id { p with hop := .cluster, inPort := 16 } else putPacket s id { p with hop := .target }
    else putPacket (depart s id p) id { departed s p with hop := .package, climb := p.climb - 1, inPort := p.srcDie }
  | .package =>
    if p.climb = 0 then
      let s := if namesUs s p then noteRequest s p else s
      if destDie s p = 8 then putPacket s id { p with hop := .target }
      else putPacket (depart s id p) id { departed s p with hop := .spine, inPort := 48 }
    else putPacket (depart s id p) id { departed s p with hop := .port (port % 96), climb := p.climb - 1 }

/-- A packet that nothing holds back is sealed where it passes a cipher port, and goes to its next hop. -/
def advance (s : State) (id port : Nat) (p : Packet) : State :=
  match sealPacket s p with
  | none => s
  | some (t, q) => advanceSealed t id port q

/-- The upward port of a switch; of the package switch that of Skelser port q is 1000 + q. -/
def upPort : Nat := 1000

/-- The output ports of the switch of a packet that lead to another switch and whose link is up, downward ones by number (21 Table 21-1). -/
def switchPorts (s : State) (p : Packet) : List Nat :=
  match p.hop with
  | .cluster => [upPort]
  | .spine => (if linkShut s ((switchOf s p).2.1 % 8) then [] else [upPort]) ++ List.range 16
  | .package => ((List.range 8).filter fun d => !linkShut s d) ++ ((List.range 96).filter fun q => !linkShut s (8 + q)).map fun q => upPort + q
  | _ => []

/-- The output port that a packet takes when it goes on. -/
def takenPort (s : State) (port : Nat) (p : Packet) : Nat :=
  outPort s p + if p.hop == .package && p.climb != 0 then port % 96 else 0

/-- The switch to which a packet is deflected by output port `o` (21 R336), with the input port there; without a port to another switch it leaves
by one that leads to none, and comes back to its own (log 71). -/
def deflectTo (s : State) (o : Option Nat) (p : Packet) : Hop × Nat × Nat × Nat :=
  let (_, d, c) := switchOf s p
  match p.hop, o with
  | .cluster, some _ => (.spine, d, c, c)
  | .spine, some o => if o = upPort then (.package, 8, c, d) else (.cluster, d, o, 16)
  | .package, some o => if o < upPort then (.spine, o, c, 48) else (.port (o - upPort), 8, c, p.inPort)
  | h, _ => (h, d, c, p.inPort)

/-- A deflected packet climbs again from the switch where it comes to stand. One that is deflected across a die-to-die link departs. -/
def deflect (s : State) (id : Nat) (o : Option Nat) (p : Packet) : State :=
  if hopLevel p.hop = 3 then putPacket s id p
  else
    let (hop, die, cl, port) := deflectTo s o p
    let crossed := (hop == .package) != (p.hop == .package)
    let q := if crossed then departed s p else p
    let s := if crossed then depart s id p else s
    putPacket s id { q with hop := hop, climb := levelFrom s p die (if hop = .cluster then some cl else none) - hopLevel hop
                            srcDie := if die = 8 then p.srcDie else die, srcCl := cl, inPort := port }

/-- The losers at a switch leave by its free output ports, each by one of its own: the one that `wish` names, in their order, or the first that is
free (21 R336). -/
def deflectAll (s : State) : List Nat → List Nat → List (Nat × Packet) → State
  | _, _, [] => s
  | wish, used, (id, p) :: t =>
    let free := (switchPorts s p).filter fun o => !used.contains o
    let o := (wish.head?.filter free.contains).or free.head?
    deflectAll (deflect s id o p) (wish.drop 1) (used ++ o.toList) t

/-- A packet that cannot be performed or dropped in time may now travel until AGE 250 (log 71). -/
def prolong (s : State) (p : Packet) : Packet :=
  if p.due.elim false fun t => decide (t ≤ s.now) then { p with due := some (p.born + (250 - p.age0) * (160 * Config.nanosecond)) } else p

/-- A packet that its target cannot take is deflected back into the spine and tried again (06 R129; 21 R348; 23 R365): it may now travel until
AGE 250 (log 71). -/
def bounce (s : State) (id : Nat) (p : Packet) : State :=
  let b := boundFor s p
  putPacket s id { p with hop := if b.die = 8 then .package else .spine
                          inPort := b.cl.getD b.port
                          due := some (p.born + (250 - p.age0) * (160 * Config.nanosecond)) }

/-- The packet with the largest AGE, on a tie from the lowest port (21 R336). -/
def arbitrate (s : State) : List (Nat × Packet) → Option (Nat × Packet)
  | [] => none
  | p :: t =>
    match arbitrate s t with
    | none => some p
    | some q =>
      let a := packetAge s p.2
      let b := packetAge s q.2
      if b < a ∨ (a = b ∧ p.2.inPort ≤ q.2.inPort) then some p else some q

/-- A packet is gone: a copy of which it was the last may be done. -/
def removePacket (s : State) (id : Nat) (p : Packet) : State :=
  let s := dropPacket s id
  match p.piece, p.ofDev with
  | some (c, _, _), none => settleCopy s p.src c
  | _, _ => s

/-- What a copy of this device loses with a packet of it: the bytes that the packet carried uncounted, those that a count spoke of, and those of a piece
whose request never left the device; of one that did COPY_PIECE_LOST tells (18 R293, R301, Table 18-7; log 71). -/
def loseCargo (s : State) (p : Packet) : State :=
  match p.cargo, p.dest, p.piece with
  | .count c b n _, .reply i, _ => loseBytes s i c b n
  | .piece _ _ n c b, _, _ =>
    match copyOn s p.src.core c with
    | some x => if (sfind x.served b).elim false fun v => v.left.isNone then loseBytes s p.src c b (copyWidth x * n) else s
    | none => s
  | _, _, some (c, b, _) => if p.away then s else loseBytes s p.src c b (cargoAccess p.cargo).1
  | _, _, _ => s

/-- A packet is lost: a write completes nowhere, and what of a copy it carried is not counted any more (log 71). -/
def losePacket (s : State) (id : Nat) (p : Packet) : State :=
  let s := removePacket (noteComplete s id p) id p
  if p.ofDev.isSome then s else loseCargo s p

/-- SWITCH_FORWARD (21 R336): packets of State.arg.pkts that stand at one switch and want one output port. The old ones are dropped,
one goes on, the others are deflected by free ports, those that State.arg.pools names where they are free. Where the link of that port is down
none goes on (R337; log 71). -/
def execSwitchForward (s : State) : Out :=
  let all := (s.arg.pkts.filterMap fun i => (sfind s.net i).map fun p => (i, p)).filter fun p => p.2.hop != .target
  let here := all.filter fun p => (all.head?.map fun q => (switchOf s q.2, outPort s q.2)) == some (switchOf s p.2, outPort s p.2)
  let dead := here.filter fun p => p.2.hop != .combining && 250 ≤ packetAge s p.2
  let live := here.filter fun p => p.2.hop == .combining || packetAge s p.2 < 250
  let port := s.arg.port
  let wish := s.arg.pools
  let s := dead.foldl (fun t p =>
    modDie (losePacket t p.1 p.2) (switchDie t p.2) fun d => { d with lifetime := d.lifetime + 1 }) s
  match arbitrate s (live.filter fun p => !linkDown s port p.2) with
  | none => .next (deflectAll s wish ((live.head?.map fun p => takenPort s port p.2).toList) (live.map fun p => (p.1, prolong s p.2)))
  | some w => .next (deflectAll (advance s w.1 port w.2) wish [takenPort s port w.2] (live.filter fun p => p.1 != w.1))

/-! ### Seals (25 R390) -/

/-- A packet has come through no cipher port: it has stayed within a cluster. -/
def unsealed (p : Packet) : Bool :=
  !p.inbound && decide (p.inPort < 16) && match p.dest with
    | .pool _ _ => true
    | .task _ => true
    | _ => false

/-- The flow with a counter marked as seen, if it lies in the window and has not been seen. -/
def admitCounter (f : Flow) (n : Nat) : Option Flow :=
  if n + 4096 < f.next ∨ f.seen.contains n = true then none
  else
    let next := max f.next (n + 1)
    some { next := next, seen := n :: f.seen.filter fun k => decide (next ≤ k + 4096) }

/-- What the port of arrival keeps of the packet's flow within the module, when it has taken it: none where the packet's counter has left the window
or been seen; a packet without such a flow leaves nothing (25 R390). -/
def admitFlow (s : State) (p : Packet) : Option (Option (Nat × Nat × Flow)) :=
  match p.flow, worldOfKey s p.portKey with
  | some k, some w =>
    ((worldAt s w).bind fun x => admitCounter (sget ⟨0, []⟩ x.innerSeen k) p.seq).map fun f => some (w, k, f)
  | _, _ => some none

/-- No open world's key opens the packet's tag, or its counter is refused. -/
def sealFails (s : State) (p : Packet) : Bool := ((worldOfKey s p.portKey).isNone && !unsealed p) || (admitFlow s p).isNone

/-- The port has taken the packet, whose counter is seen from now on (25 R390). -/
def seenAt (s : State) (p : Packet) : State :=
  match admitFlow s p with
  | some (some (w, k, f)) => modWorld s w fun x => { x with innerSeen := sput x.innerSeen k f }
  | _ => s

/-- The end of an arrival that has made `t`: unless the packet has been deflected, to come again, the port has taken it. -/
def arrived (id : Nat) (p : Packet) (t : State) : State :=
  if (sfind t.net id).elim false fun q => q.flow.isSome then t else seenAt t p

/-- A drop whose tag no open world's key opens (25 R390). -/
def dropSealed (s : State) (id : Nat) (p : Packet) : State :=
  modDie (losePacket s id p) (destDie s p % 8) fun d => { d with cipher := d.cipher + 1 }

/-! ### Performing (11 R223) -/

/-- Bytes written to host memory through the translations of their pages. -/
def hostBytes (s : State) (a : Nat) (key : KeyId) (poison : Bool) (data : List Byte) : State :=
  let put : State → Nat × List Byte → State := fun t p => match hostByte t p.1 with
    | some k => { t with mem := t.mem.write k p.2 (hostKey key p.1) poison }
    | none => t
  touchPages ((hostGranules a data).foldl put s) a data.length

/-- A write at its performer. A poisoned one in a pool meets the commands accepted there (16 R269). -/
def writePlace (s : State) (p : Place) (data : List Byte) (poison : Bool) : State :=
  match p with
  | .mem 2 a key => hostBytes s a key poison data
  | .mem cls a key => landMem s cls a key data poison
  | .pool c off =>
    let s := { s with mem := s.mem.write (poolKey c off) data .clear poison }
    if poison && !data.isEmpty then strike s c (meetsGranule c (poolGranules c off data.length)) else s
  | .peer _ => s

/-- Bytes read at their performer, and whether they are poisoned. -/
def readPlace (s : State) (p : Place) (n : Nat) : List Byte × Bool :=
  match p with
  | .mem 2 a key =>
    let ks := (List.range n).map fun i => hostByte s (a + i)
    (ks.zipIdx.map fun k => k.1.elim 0 fun b => s.mem.byte b (hostKey key (a + k.2)), ks.any fun k => k.elim true fun k => s.mem.poisoned k)
  | .mem cls a key =>
    let k := memKey cls a
    (s.mem.read key n k, s.mem.anyPoison k n || (cls == 1 && expanderFailed s a n))
  | .pool c off => (s.mem.raws n (poolKey c off), s.mem.anyPoison (poolKey c off) n)
  | .peer _ => (List.replicate n 0, true)

/-- Bytes of a write that are performed, poisoned granules of a slice apart (10 R209; 21 R348). -/
def countedBytes (s : State) (p : Place) (n : Nat) : Nat :=
  match p with
  | .mem cls a _ => keptBytes s.mem (memKey cls a) n
  | _ => n

/-- A write that its target cannot take now (23 R365). -/
def writeBlocked (s : State) (p : Place) (n : Nat) : Bool :=
  match p with
  | .mem cls a _ => landBlocked s cls a n
  | _ => false

/-- The answer to a packet: bytes for the slot that waits, from the unit that performed it. -/
def answer (s : State) (p : Packet) (bytes : List Byte) (poison : Bool) : State :=
  launch s (enterAt s (boundFor s p)
    { p with cargo := .data bytes poison, dest := .reply p.src, header := none, inbound := false
             srcDev := BitVec.ofNat 16 ((ownDevice s).getD 0) })

/-- What a class-2 access meets at the hub: translations again, and for writes of a guarded world the egress bucket (25 R399). -/
inductive HubView where
  | go | wait | fail
  deriving DecidableEq, Repr

/-- The bytes of a metered request: all of a copy's piece, of which the packet carries a part (25 R399). -/
def meterOf (p : Packet) (n : Nat) : Nat := (p.meter.map fun m => m.2).getD n

/-- The piece of which a part has already taken the tokens: what of it is still to leave. -/
def paidFor (w : World) (p : Packet) : Option Nat :=
  match p.piece, p.meter with
  | some (c, _, _), some (b, _) => (w.paid.find? fun q => q.1 == p.src && q.2.1 == c && q.2.2.1 == b).map fun q => q.2.2.2
  | _, _ => none

/-- A metered request takes its tokens: a piece with its first part. -/
def takeTokens (p : Packet) (n : Nat) (w : World) : World :=
  match p.piece, p.meter, paidFor w p with
  | some (c, _, _), some (b, _), some left =>
    { w with paid := w.paid.filterMap fun q =>
        if q.1 = p.src ∧ q.2.1 = c ∧ q.2.2.1 = b then (if left ≤ n then none else some (q.1, c, b, left - n)) else some q }
  | some (c, _, _), some (b, m), none =>
    { w with tokens := w.tokens - m, paid := if m ≤ n then w.paid else w.paid ++ [(p.src, c, b, m - n)] }
  | _, _, _ => { w with tokens := w.tokens - n }

def hubView (s : State) (id : Nat) (p : Packet) (pl : Place) (n : Nat) (k : Kind) : HubView :=
  match pl with
  | .mem 2 a _ =>
    match atsView s k a n with
    | .refused => .fail
    | .missing => .wait
    | .ready =>
      if k = .load then .go
      else
        match (worldOfKey s p.portKey).bind (worldAt s) with
        | some w =>
          if (paidFor w p).isSome || bucketLets w id (meterOf p n) then .go else .wait
        | none => .go
  | _ => .go

/-- A metered packet waits in issue order at the hub, which has taken it through its port. -/
def joinQueue (s : State) (id : Nat) (p : Packet) : State :=
  let s := putPacket s id { p with flow := none }
  match worldOfKey s p.portKey with
  | some w => modWorld s w (joinBucket id)
  | none => s

/-- The access sends data to the host: a load asks for some (25 R399). -/
def isMetered : Cargo → Bool
  | .write _ _ | .flag _ _ | .atomic _ _ _ _ => true
  | _ => false

/-- A metered packet takes its tokens and leaves the queue. -/
def payTokens (s : State) (id : Nat) (p : Packet) (pl : Place) (n : Nat) : State :=
  match pl, worldOfKey s p.portKey with
  | .mem 2 _ _, some w =>
    modWorld s w fun x =>
      if x.guarded && isMetered p.cargo then { takeTokens p n x with waiting := x.waiting.filter fun i => i != id } else x
  | _, _ => s

/-- A piece of a copy of this device fails its check: the channel faults (18 R301). -/
def pieceFault (s : State) (p : Packet) (cause : ChCause) : State :=
  match p.piece, p.ofDev with
  | some (c, b, _), none =>
    let s := match copyOn s p.src.core c with
      | some x => faultChannel s p.src x cause
      | none => s
    if p.away then s else loseBytes s p.src c b (cargoAccess p.cargo).1
  | _, _ => s

/-- A piece meets a range lock of the pool of its own core (18 R298; Table 18-7). -/
def pieceLocked (s : State) (p : Packet) (pl : Place) (n : Nat) : Bool :=
  match pl with
  | .pool c off =>
    p.piece.isSome && p.ofDev.isNone && c == p.src.core && (coreOf s c).locks.any fun l => overlaps off n l.lo (l.hi - l.lo)
  | _ => false

/-- A write packet is performed: the bytes of a copy are counted where it has not left its streamer's die. -/
def performWrite (s : State) (p : Packet) (pl : Place) (d : List Byte) (bad : Bool) : State :=
  if pieceLocked s p pl d.length then pieceFault s p .range
  else
    let s := writePlace s pl d bad
    if p.away then s else sendCount s p

/-- A packet dropped at its target is counted as a stray; a load or atomic gets zeros: poisoned ones from a device (09 R196, R197). A copy
hears of it on its streamer's die only (18 R291, R301). -/
def dropStray (s : State) (id : Nat) (p : Packet) (die : Nat) : State :=
  let s := stray (removePacket (noteComplete s id p) id p) die
  let peer := match p.dest with | .peer _ => true | _ => false
  match p.cargo with
  | .read n => answer s p (List.replicate n 0) peer
  | .atomic _ sz _ _ => answer s p (List.replicate (asizeBytes sz) 0) peer
  | .write _ _ => if p.away then s else pieceFault s p .rights
  | _ => s

/-- The tile task or activation in slot `i` faults for what a write of it meets (20 R326, R327); its gang is dissolved (06 R126). -/
def faultTask (s : State) (i : SlotId) (code : BitVec 16) : State :=
  let me := s.cur
  let ms := gangOf s i
  let s := focus s i
  let s := if i.slot = 4 then failActivation s code else endFault (failWaiters s) code
  focus (ms.foldl (fun t m => modSlot t m fun l => { l with gangPos := 0, gangSize := 1 }) s) me

/-- A held write of a tile task fails after its release: the task faults, or, where it has exited or faulted, its capsule (10 R209; 20 R326). -/
def failWrite (s : State) (p : Packet) : State :=
  let l := getSlot s p.src
  let here := ofTask s p.src p
  if here = true ∧ l.capsule.isSome = true ∧ l.run ≠ .unbound ∧ l.run ≠ .exited ∧ l.run ≠ .faulted then faultTask s p.src 0x8200
  else noteFault s (some p.capsule) ⟨0x8200, p.linear, if here then l.trPc else 0, if here then l.trValue else 0⟩

/-- A class-2 access whose re-translation fails: a held write is dropped and its task faults (10 R209), a copy's write faults its channel
(18 Table 18-7); a load or an atomic returns poisoned zeros (log 21). -/
def failHost (s : State) (id : Nat) (p : Packet) : State :=
  let s := noteComplete s id p
  match p.cargo with
  | .read n => answer (dropPacket s id) p (List.replicate n 0) true
  | .atomic _ sz _ _ => answer (dropPacket s id) p (List.replicate (asizeBytes sz) 0) true
  | _ =>
    if p.piece.isSome then removePacket (pieceFault s p .ats) id p
    else if p.ofDev.isSome then dropPacket s id
    else failWrite (dropPacket s id) p

/-- An atomic that no unit performs: one of the host that is no PCIe AtomicOp, and one that the host completes with an error, where
State.arg.value is 1 (10 R218). -/
def atomicFails (s : State) (pl : Place) (op : AtomOp) (sz : ASize) : Bool :=
  match pl with
  | .mem 2 _ _ => !hostAtomic op sz || s.arg.value == 1
  | _ => false

/-- The access of a packet at its performer. -/
def performPacket (s : State) (id : Nat) (p : Packet) (pl : Place) : State :=
  let (n, k) := cargoAccess p.cargo
  match hubView s id p pl n k with
  | .fail => failHost s id p
  | .wait => joinQueue s id p
  | .go =>
    if k ≠ .load ∧ writeBlocked s pl n = true then bounce s id p
    else
      let s := touchPlace (payTokens s id p pl n) pl n
      match p.cargo with
      | .write d bad => removePacket (noteComplete (performWrite s p pl d bad) id p) id p
      | .read n => let (bs, bad) := readPlace s pl n; answer (dropPacket s id) p bs bad
      | .atomic op sz cmp arg =>
        let s' := dropPacket s id
        if atomicFails s pl op sz then answer s' p (List.replicate (asizeBytes sz) 0) true
        else
          let (bs, bad) := readPlace s' pl (asizeBytes sz)
          match (if bad then none else atomicNew op sz (leNat bs) cmp arg) with
          | some v => answer (writePlace s' pl (leBytes (asizeBytes sz) v) false) p bs bad
          | none => answer s' p bs bad
      | _ => dropPacket s id

/-- REMOTE_ACCESS_ARRIVAL (09 R196, R197; 11 R223): packet State.arg.pkt reaches its target; or, where State.arg.canRead, a load is performed
before its instruction issues (11 R226; log 74). -/
def execRemoteAccessArrival (s : State) : Out :=
  let id := s.arg.pkt
  match (if s.arg.canRead then none else sfind s.net id) with
  | none => .next (if s.arg.canRead then performEarly s else s)
  | some p =>
    let access := match p.cargo with
      | .write _ _ | .read _ | .atomic _ _ _ _ => true
      | _ => false
    if p.hop ≠ .target ∨ access = false ∨ p.header.isSome = true then .next s
    else if sealFails s p then .next (dropSealed s id p)
    else if linkDown s 0 p then .next (bounce s id p)
    else
      let (n, k) := cargoAccess p.cargo
      .next (arrived id p (match landing s p n k with
        | .at0 pl => performPacket s id p pl
        | .refused d => dropStray s id p d
        | .stray d => dropStray s id p d))

/-! ### Responses (10 R209) -/

/-- The part of a slot's outstanding access that a response answers has come; with the last one the data lands. A poisoned granule of the response
marks the register also where the slot's own write supplies every byte of it (DESIGN CHOICE, log 65). -/
def landResponse (l : Slot) (req : Nat) (bs : List Byte) (bad : Bool) : Slot :=
  match l.pending.find? fun q => q.parts.any fun r => r.1 == req with
  | some q =>
    let at0 := ((q.parts.find? fun r => r.1 == req).map fun r => r.2).getD 0
    let q' : Pending := { q with parts := q.parts.filter fun r => r.1 != req, bad := q.bad || bad
                                 got := (byteMap at0 bs).foldl (fun m b => sput m b.1 b.2) q.got }
    if q'.parts.isEmpty then
      landData q' (q'.got.map fun b => b.2) q'.bad { l with pending := l.pending.filter fun x => x.req != q.req }
    else { l with pending := l.pending.map fun x => if x.req = q.req then q' else x }
  | none => l

/-- The time of an outstanding access to another device has run out (10 R209). -/
def responseLate (s : State) (q : Pending) : Bool := q.left.elim false fun t => decide (t + 2 * Config.lifeMax < s.now)

/-- ACCESS_RESPONSE: the data of packet State.arg.pkt returns to its slot. Data that comes too late is not taken. -/
def execAccessResponse (s : State) : Out :=
  let id := s.arg.pkt
  match sfind s.net id with
  | none => .next s
  | some p =>
    match p.cargo, p.dest with
    | .data bs bad, .reply i =>
      if p.hop ≠ .target then .next s
      else if (admitFlow s p).isNone then .next (dropSealed s id p)
      else
        .next (modSlot (seenAt (dropPacket s id) p) i fun l =>
          if l.pending.any fun q => (q.parts.any fun r => r.1 == p.req) && responseLate s q then l else landResponse l p.req bs bad)
    | _, _ => .next s

/-- RESPONSE_TIMEOUT: the first request of access State.arg.copy of slot State.arg.slot left the device 2 x L_max ago. -/
def execResponseTimeout (s : State) : Out :=
  .next (modSlot s s.arg.slot fun l =>
    match l.pending.find? fun q => q.req == s.arg.copy with
    | some q =>
      match q.left with
      | some t =>
        if t + 2 * Config.lifeMax ≤ s.now then
          landData { q with own := [] } (List.replicate 16 0) true { l with pending := l.pending.filter fun x => x.req != q.req }
        else l
      | none => l
    | none => l)

/-! ### Arrival tables (21 R348, R349) -/

/-- The flag's address as a target or as the program address that names it. -/
def placeCookie (pl : Place) : Nat :=
  match pl with
  | .mem cls a _ => targetForm cls a
  | .pool c off => 0x4000000000000000 + c.toNat * 2 ^ 35 + off
  | .peer a => a.toNat

/-- A failure is counted and journalled (21 Table 21-7). -/
def noteFailure (s : State) (die code : Nat) (header : Word) (pl : Place) : State :=
  let s := modDie s die fun d =>
    if code = 1 then { d with overcount := d.overcount + 1 }
    else if code = 2 then { d with timeout := d.timeout + 1 }
    else { d with tablefull := d.tablefull + 1 }
  let event := if code = 1 then 0x41 else if code = 2 then 0x40 else 0x42
  journal s { code := event, source := 0x100 + die, cookie := placeCookie pl, digest := (header &&& 0x7FFFFFFFFFFFFFFF).toNat }

/-- PerformFlag: an aligned store of 8 bytes; where its check fails it is a stray. -/
def performFlag (s : State) (die : Nat) (p : Packet) (v : Word) : State :=
  match landing s p 8 .store with
  | .at0 pl => writePlace s pl (leBytes 8 v.toNat) false
  | _ => stray s die

/-- A flag whose target cannot take a write now (23 R365). -/
def flagBlocked (s : State) (p : Packet) : Bool :=
  match landing s p 8 .store with
  | .at0 pl => writeBlocked s pl 8
  | _ => false

/-- A packet's destination as a place. -/
def destPlace (p : Packet) : Place :=
  match p.dest with
  | .mem cls a => .mem cls a p.key
  | .pool c off => .pool c off
  | .peer a | .issuer a => .peer a
  | .task _ => .peer 0
  | .reply _ => .peer 0

/-- A failed flag: the value, the counter, the journal entry. -/
def failFlag (s : State) (die code : Nat) (p : Packet) : State :=
  let pl := match landing s p 8 .store with
    | .at0 pl => pl
    | .refused _ => destPlace p
    | .stray _ => destPlace p
  noteFailure (performFlag s die p (BitVec.ofNat 64 (2 ^ 63 + code))) die code (p.header.getD 0) pl

/-- The count and the value of a flag. -/
def flagOf (p : Packet) : Nat × Word :=
  match p.cargo with
  | .flag count v => (count, v)
  | _ => (0, 0)

/-- The entry with its flag, if its count decides it (21 R348); none where the flag's target cannot take it now: the packet that decides it is
deflected (23 R365; log 71). -/
def settle (s : State) (die : Nat) (e : Arrival) : Option State :=
  let keep (s : State) : State := modDie s die fun d => { d with arrivals := (d.arrivals.filter fun x => x.key != e.key) ++ [e] }
  let free (s : State) : State := modDie s die fun d => { d with arrivals := d.arrivals.filter fun x => x.key != e.key }
  match e.flag with
  | none => some (keep s)
  | some (f, _) =>
    let (count, v) := flagOf f
    if e.arrived < count then some (keep s)
    else if flagBlocked s f then none
    else some (free (if e.arrived = count then performFlag s die f v else failFlag s die 1 f))

/-- OnCounted (21 R348) for a packet at the die of its performer; none where it is deflected. -/
def onCounted (s : State) (die : Nat) (p : Packet) (l : Landing) : Option State :=
  let key := (p.header.getD 0) &&& 0x7FFFFFFFFFFFFFFF
  let d := dieAt s die
  let fresh : Arrival := ⟨key, 0, none, s.now, s.hub.twait⟩
  let flag := match p.cargo with | .flag _ _ => true | _ => false
  let view := match d.arrivals.find? fun e => e.key == key with
    | some e => some e
    | none => if 4096 ≤ d.arrivals.length then none else some fresh
  match view with
  | none =>
    if packetAge s p < 240 then none
    else if flag then if flagBlocked s p then none else some (failFlag s die 3 p)
    else some (let s := stray s die; if p.away then s else pieceFault s p .rights)
  | some e =>
    match p.cargo, l with
    | .write bs bad, .at0 pl =>
      if writeBlocked s pl bs.length then none
      else if pieceLocked s p pl bs.length then settle (pieceFault s p .range) die e
      else settle (performWrite s p pl bs bad) die { e with arrived := e.arrived + countedBytes s pl bs.length }
    | .write _ _, _ => settle (let s := stray s die; if p.away then s else pieceFault s p .rights) die e
    | _, _ => settle s die { e with flag := some (p, s.now) }

/-- COUNTED_PACKET_ARRIVAL (21 R348): packet State.arg.pkt. -/
def execCountedPacketArrival (s : State) : Out :=
  let id := s.arg.pkt
  match sfind s.net id with
  | none => .next s
  | some p =>
    let asks := match p.cargo with
      | .piece _ _ _ _ _ => true
      | _ => false
    if p.hop ≠ .target ∨ p.header.isNone = true ∨ asks = true then .next s
    else if sealFails s p then .next (dropSealed s id p)
    else
      let (n, k) := cargoAccess p.cargo
      let l := landing s p n k
      match l with
      | .stray d => .next (arrived id p (dropStray s id p d))
      | .at0 (.mem 1 _ _) => .next (arrived id p (dropStray s id p 0))
      | .at0 (.mem 2 _ _) => .next (arrived id p (dropStray s id p 0))
      | _ =>
        let die := match l with
          | .at0 pl => placeDie s pl
          | .refused d => d
          | .stray d => d
        match onCounted s die p l with
        | some t => .next (arrived id p (removePacket t id p))
        | none => .next (bounce s id p)

/-- An entry whose flag has waited T_wait and may be performed. -/
def timedOut (s : State) (e : Arrival) : Bool :=
  e.flag.elim false fun f => decide (f.2 + e.wait * 1000 * Config.nanosecond ≤ s.now) && !flagBlocked s f.1

/-- ARRIVAL_TIMEOUT (21 R348): the first entry of die State.arg.die whose flag has waited T_wait. -/
def execArrivalTimeout (s : State) : Out :=
  let die := s.arg.die
  match (dieAt s die).arrivals.find? (timedOut s) with
  | some e =>
    match e.flag with
    | some (f, _) =>
      .next (modDie (failFlag s die 2 f) die fun d => { d with arrivals := d.arrivals.filter fun x => x.key != e.key })
    | none => .next s
  | none => .next s

/-- ARRIVAL_ORPHAN (21 R348): the first entry of die State.arg.die without a flag that has existed for T_orphan. -/
def execArrivalOrphan (s : State) : Out :=
  let die := s.arg.die
  match (dieAt s die).arrivals.find? fun e => e.flag.isNone && decide (e.created + 4 * e.wait * 1000 * Config.nanosecond ≤ s.now) with
  | some e =>
    .next (modDie s die fun d =>
      { d with orphan := d.orphan + 1, arrivals := d.arrivals.filter fun x => x.key != e.key })
  | none => .next s

/-! ### Messages (06 R127 to R130) -/

/-- What becomes of a message at its target. -/
inductive Delivery where
  | taken (s : State)
  | bounced

/-- A message reaches the slot that runs a tile task of its capsule (06 R127 to R129; 20 R328 step 3). -/
def deliver (s : State) (cap linear die : Nat) (m : Vec) : Delivery :=
  match placedAt s cap linear with
  | none => .taken (stray s die)
  | some i =>
    let l := getSlot s i
    match capAt s cap with
    | none => .taken (stray s (dieOf i.core))
    | some c =>
      if l.inbox.length < 16 then .taken (setLatch (modSlot s i fun l => { l with inbox := l.inbox ++ [m] }) i)
      else if c.stopped.isSome then
        if (c.captured.filter fun x => x.1 == some i.core).length < 64 then
          .taken (modCap s cap fun c => { c with captured := c.captured ++ [(some i.core, linear, m)] })
        else .taken (stray s (dieOf i.core))
      else if c.info.overflow = 0xFFFFFFFF then .taken (stray s (dieOf i.core))
      else if (coreOf s i.core).staged.length < 64 then
        let s := modCore s i.core fun k => { k with staged := k.staged ++ [{ slot := i.slot, task := l.task, payload := m }] }
        let sv : SlotId := ⟨i.core, 4⟩
        .taken (if (getSlot s sv).serves = some (i.slot, l.task) then setLatch s sv else s)
      else .bounced

/-- MESSAGE_ARRIVAL: packet State.arg.pkt. A message whose target is placed nowhere is a stray of its sender's die (DESIGN CHOICE, log 67). -/
def execMessageArrival (s : State) : Out :=
  let id := s.arg.pkt
  match sfind s.net id with
  | none => .next s
  | some p =>
    match p.cargo, p.dest with
    | .message m, .task n =>
      if p.hop ≠ .target then .next s
      else if sealFails s p then .next (dropSealed s id p)
      else
        match deliver (dropPacket s id) p.capsule n (dieOf p.src.core) m with
        | .taken t => .next (arrived id p t)
        | .bounced => .next (bounce s id p)
    | _, _ => .next s

/-- SEV_ARRIVAL (07 R158): packet State.arg.pkt sets its target's latch; one whose target is placed nowhere is a stray of its sender's die
(DESIGN CHOICE, log 67). -/
def execSevArrival (s : State) : Out :=
  let id := s.arg.pkt
  match sfind s.net id with
  | none => .next s
  | some p =>
    match p.cargo, p.dest with
    | .event, .task n =>
      if p.hop ≠ .target then .next s
      else if sealFails s p then .next (dropSealed s id p)
      else
        let s := arrived id p (dropPacket s id)
        match placedAt s p.capsule n with
        | some i => .next (setLatch s i)
        | none => .next (stray s (dieOf p.src.core))
    | _, _ => .next s

/-- OVERFLOW_ACTIVATION (06 R130) on core State.arg.core, for the slot of the oldest staged message. It has no tile coordinate: id.tile and
id.ext are 0 (DESIGN CHOICE, log 68). -/
def execOverflowActivation (s : State) : Out :=
  let c := s.arg.core
  let sv : SlotId := ⟨c, 4⟩
  let old := getSlot s sv
  match (coreOf s c).staged.head?, old.run with
  | some m, .unbound =>
    let t := getSlot s ⟨c, m.slot⟩
    match t.capsule.bind (capAt s), t.capsule with
    | some cap, some n =>
      if t.task ≠ m.task then .next (dropStaged s c (m.slot, m.task))
      else if cap.stopped.isSome = true ∨ cap.info.overflow = 0xFFFFFFFF ∨ old.storeBuf ≠ [] then .next s
      else
        let arg := match cap.info.flags.getLsbD 3, cap.info.extents[leNat (cap.info.args.take 2)]? with
          | true, some e => BitVec.ofNat 64 e.base
          | _, _ => argAddress t
        let l : Slot :=
          { x := sset 0 (sset 0 [] 1 arg) 2 (BitVec.ofNat 64 m.slot), pc := cap.info.code + BitVec.ofNat 64 cap.info.overflow
            capPos := cap.pos, worldPos := ((worldAt s cap.world).map fun w => w.openPos).getD 0, part := cap.info.part
            startTime := dieCycles s (dieOf c), run := .running, capsule := some n, linear := 0xFFFFFFFF, task := s.fresh
            serves := some (m.slot, m.task) }
        .next (bump (setSlot s sv (openRegion 1 true l)))
    | _, _ => .next (dropStaged s c (m.slot, m.task))
  | _, _ => .next s

/-! ### What leaves a slot's store buffer and hold area (04 R94; 20 R319; 21 R344) -/

/-- A released write at the head of a store buffer, whose performer is on the slot's die; none where its target cannot take it now. -/
def performOut (s : State) (p : Packet) : Option State :=
  let (n, k) := cargoAccess p.cargo
  let l := landing s p n k
  let die := dieOf p.src.core
  match p.header with
  | some _ => onCounted s die p l
  | none =>
    match l, p.cargo with
    | .at0 pl, .write d bad => if writeBlocked s pl n then none else some (writePlace s pl d bad)
    | _, _ => some (stray s die)

/-- A write at the head of slot `i`'s store buffer that names this device by its own number goes through the hub, in time to be visible (06 R134);
its entry, the others behind it, waits until it has been performed (09 R197; 11 R225). -/
def sendOut (s : State) (i : SlotId) (e : BufStore) (rest : List BufStore) (p : Packet) : State :=
  match e.sent with
  | none =>
    modSlot (launchBy s (e.since + Config.visible) (enterAt s (coreBound i.core) p)) i fun l => { l with storeBuf := { e with sent := some s.fresh } :: rest }
  | some id => if (sfind s.net id).isSome then s else modSlot s i fun l => { l with storeBuf := rest }

/-- STORE_BUFFER_PERFORM (04 R94; 10 R215; 11 R225): the oldest entry of slot State.arg.slot. -/
def execStoreBufferPerform (s : State) : Out :=
  let i := s.arg.slot
  match (getSlot s i).storeBuf with
  | [] => .next s
  | e :: rest =>
    if e.rel.elim false fun sc => !relBefore s i sc e.before then .next s
    else
      match e.out with
      | some p =>
        match p.dest, performOut s p with
        | .peer _, _ => .next (sendOut s i e rest p)
        | _, some t => .next (modSlot t i fun l => { l with storeBuf := rest })
        | _, none => .next s
      | none =>
        let m := s.mem.pokes (e.bytes.map fun b => (poolKey i.core b.1, b.2))
        let m := match e.whole, e.bytes with
          | true, b :: _ => m.clearPoison (poolKey i.core b.1)
          | _, _ => m
        .next (modSlot { s with mem := m } i fun l => { l with storeBuf := rest })

/-- RELEASE_CONDITION_MET (10 R213) for slot State.arg.slot. -/
def execReleaseConditionMet (s : State) : Out :=
  let i := s.arg.slot
  match (getSlot s i).wantRel with
  | some sc => if relCond s i sc true then .next (modSlot s i fun l => { l with condMet := some sc }) else .next s
  | none => .next s

/-- The counted header word of a slot's group, FLAG clear (21 Table 21-6). -/
def slotHeader (s : State) (i : SlotId) (g seq : Nat) : Word :=
  BitVec.ofNat 64 (2 ^ 62 + (ownDevice s).getD 0 * 2 ^ 46 + i.core.toNat * 2 ^ 35 + i.slot * 2 ^ 33 + g * 2 ^ 29 + seq * 2 ^ 25)

/-- A packet of slot `i` as it would enter the fabric. -/
def slotPacket (s : State) (i : SlotId) (cargo : Cargo) (dest : Dest) (key : KeyId) (header : Option Word) (hop : Hop) : Packet :=
  let cap := (getSlot s i).capsule
  { cargo := cargo, src := i, task := (getSlot s i).task, linear := (getSlot s i).linear, srcDev := BitVec.ofNat 16 ((ownDevice s).getD 0), capsule := cap.getD 0
    dest := dest, key := key
    req := s.fresh, header := header, hop := hop
    climb := commonLevel s (cap.getD 0) (dieOf i.core) (some (clusterOf i.core)) dest
    inPort := coreNumOf i.core, srcDie := dieOf i.core, srcCl := clusterOf i.core, home := dieOf i.core, age0 := 0, born := s.now
    portKey := portKeyOf s cap, seq := 0, intact := true }

/-- A destination `n` bytes further on. -/
def destAdd (d : Dest) (n : Nat) : Dest :=
  match d with
  | .mem cls a => .mem cls (a + n)
  | .pool c off => .pool c (off + n)
  | .peer a => .peer (a + BitVec.ofNat 64 n)
  | .issuer a => .issuer (a + BitVec.ofNat 64 n)
  | d => d

/-- An entry of the store buffer for a write whose performer is elsewhere on the slot's die, also by the device's own number (11 R225). -/
def outStore (s : State) (p : Packet) : BufStore := { bytes := [], out := some p, since := s.now }

/-- A held store leaves (20 R319; 21 R347): on the slot's own die it follows the slot's earlier stores through the buffer, in parts of 64 bytes;
beyond it the parts, of 32 bytes or by this device's own number of 64, go out through the combining buffer (10 R212). -/
def releaseStore (s : State) (i : SlotId) (pl : Place) (data : List Byte) (g : Option Nat) : State :=
  let (dest, key) := destOf pl
  let header := g.map fun g => slotHeader s i g (groupAt (getSlot s i) g).seq
  let part (d : List Byte) (o : Nat) : Packet := slotPacket s i (.write d false) (destAdd dest (o - placeOffset pl)) key header .combining
  if onDie s i pl data.length .store then
    modSlot (bump s) i fun l => buffer l (oneStore ((splitAt 64 (placeOffset pl) data).map fun p => outStore s (part p.2 p.1)))
  else (splitAt (unitOf s i pl data.length .store) (placeOffset pl) data).foldl (fun t p => launch t (part p.2 p.1)) s

/-- The head of the hold area of slot `i` may leave now: the region closes, and a release store's condition holds (10 R215). A
message or event for the slot's own die, or for a task that may still be placed there, waits until the slot's earlier stores are visible
(07 R156, R158). -/
def headReady (s : State) (i : SlotId) (h : Held) : Bool :=
  let l := getSlot s i
  let here : Nat → Bool := fun n => (l.capsule.bind fun c => placedAt s c n).elim true fun j => dieOf j.core == dieOf i.core
  l.closing && !(l.capsule.bind (capAt s)).elim false (fun c => c.verdict) &&
    match h with
    | .store _ _ _ rel _ => rel.elim true fun sc => relCond s i sc true
    | .send n _ => !(here n.toNat) || storesVisible s i
    | .sev n => !(here n.toNat) || storesVisible s i
    | .rel _ _ _ => false
    | .posting _ _ _ => true

/-- The posting of a counted copy leaves: its pieces may be sent, under the group's sequence of now (18 R299; 21 R344). -/
def releasePosting (s : State) (i : SlotId) (g copy : Nat) : State :=
  let v := groupAt (getSlot s i) g
  let clear : Copy → Copy := fun c => if c.id = copy then { c with posted := false, seq := v.seq, bind := v.bind } else c
  let s := modSlot s i fun l => { l with cpQueue := l.cpQueue.map clear }
  modCore s i.core fun k => { k with copies := k.copies.map clear }

/-- A message that slot `i` has from its core and that its target cannot take is deflected into the die spine and tried again (06 R129). -/
def deflectMessage (s : State) (i : SlotId) (linear : Nat) (m : Vec) : State :=
  launch s { slotPacket s i (.message m) (.task linear) .clear none .spine with climb := 0, inPort := clusterOf i.core }

/-- HELD_WRITE_DEPART (20 R319): the head of the hold area of slot State.arg.slot, which is no `rel`. -/
def execHeldWriteDepart (s : State) : Out :=
  let i := s.arg.slot
  match (getSlot s i).hold with
  | [] => .next s
  | h :: rest =>
    if headReady s i h = false then .next s
    else
      let me := s.cur
      let groups (s : State) : State :=
        let s := focus s i
        focus (onSlot s fun l => { l with hold := rest, groups := (List.range 16).foldl (fun m g =>
          sset {} m g (groupAfter s (copyKey s) g (groupAt l g) h)) l.groups }) me
      match h with
      | .store pl _ d _ g => .next (releaseStore (groups s) i pl d g)
      | .send n m =>
        if i.slot = 4 ∧ (getSlot s i).capsule.bind (fun c => placedAt s c n.toNat) = ((getSlot s i).serves.map fun t => ⟨i.core, t.1⟩) then
          match deliver (groups s) ((getSlot s i).capsule.getD 0) n.toNat (dieOf i.core) m with
          | .taken t => .next t
          | .bounced => .next (deflectMessage (groups s) i n.toNat m)
        else .next (launch (groups s) (slotPacket s i (.message m) (.task n.toNat) .clear none .cluster))
      | .sev n =>
        if (getSlot s i).capsule.bind (fun c => placedAt s c n.toNat) = some i then .next (setLatch (groups s) i)
        else .next (launch (groups s) (slotPacket s i .event (.task n.toNat) .clear none .cluster))
      | .posting g c _ => .next (releasePosting (groups s) i g c)
      | .rel _ _ _ => .next s

/-- REL_FLAG_DEPART (21 R344): a `rel` at the head of the hold area of slot State.arg.slot. -/
def execRelFlagDepart (s : State) : Out :=
  let i := s.arg.slot
  let l := getSlot s i
  match l.hold with
  | .rel g pl v :: rest =>
    let gr := groupAt l g
    if l.closing = false ∨ groupReady s gr = false then .next s
    else
      let (dest, key) := destOf pl
      let h := slotHeader s i g gr.seq ||| 0x8000000000000000
      let p := slotPacket s i (.flag gr.bytes v) dest key (some h) .combining
      let s := modSlot s i fun l =>
        { setGroup l g { bind := none, bytes := 0, seq := (gr.seq + 1) % 16, last := sput gr.last gr.seq s.now } with hold := rest }
      .next (if onDie s i pl 8 .store then modSlot s i fun l => buffer l [outStore s p] else launch s p)
  | _ => .next s

end Sys2Proof.Machine
end

