-- ==== Sys2Proof/Machine/Cellar.lean ====
section
/-! DEFINITION. Cellars: bindings, update rules, the steps of an engine, returns (23). -/

namespace Sys2Proof.Machine

/-! ### Binding (23 R359 to R361) -/

/-- `n` bytes at a window address through a record's extents, where one extent with R covers them (08 R168). -/
def readWindow (s : State) (p : Payload) (r : Record) (a n : Nat) : Option (List Byte) :=
  match covering r.extents a n with
  | some e => if e.r then readTarget s e.cls (targetIn e a) (extentKey p r.chain e) n else none
  | none => none

/-- The place of `n` bytes at a window in an extent of class 0 or 3 with the rights that `ok` asks for. -/
def placedWindow (p : Payload) (r : Record) (a n : Nat) (ok : Extent → Bool) : Option Block :=
  match covering r.extents a n with
  | some e => if (e.cls = 0 ∨ e.cls = 3) ∧ ok e = true then some ⟨e.cls, targetIn e a, extentKey p r.chain e⟩ else none
  | none => none

/-- The doubleword at byte 0 of the argument block. -/
def firstArgument (s : State) (p : Payload) (r : Record) : Option Nat :=
  if r.flags.getLsbD 3 then
    match r.extents[leNat (r.args.take 2)]? with
    | some e => (readTarget s e.cls e.target (extentKey p r.chain e) 8).map leNat
    | none => none
  else some (leNat (r.args.take 8))

/-- A read through a record's extents waits for the translation of its pages (09 R203). -/
def windowWaits (s : State) (r : Record) (a n : Nat) : Bool :=
  (covering r.extents a n).elim false fun e => e.r && targetView s .load e.cls (targetIn e a) n == .missing

/-- Bytes of a return's elements, E (23 R373). -/
def returnBytes (b : Binding) : Nat := 768 * b.slabs * if b.fmt = 2 then 2 else 1

/-- A subscriber entry that meets 23 Table 23-6 and R373. -/
def subscriberOk (s : State) (p : Payload) (r : Record) (b : Binding) (blocks : Nat) (dst : Word) (stride resv : Nat) : Bool :=
  let e := returnBytes b
  resv == 0 && stride % 64 == 0 && decide (e + 128 ≤ stride) &&
    match spaceOf dst with
    | 0 => (List.range blocks).all fun i => (placedWindow p r (dst.toNat + i * stride) (e + 72) Extent.w).isSome
    | 3 => inRoster s (bits dst.toNat 46 16)
    | _ => false

/-- Two ranges of targets share a byte. -/
def sharesTarget (a : Block) (n : Nat) (b : Block) (m : Nat) : Bool := a.cls == b.cls && overlaps a.addr n b.addr m

/-- A region lies in one interleave group (23 R360). -/
def oneGroup (s : State) (k : Block) (n : Nat) : Bool :=
  physAddr s k.cls k.addr / 2 ^ 35 == physAddr s k.cls (k.addr + n - 1) / 2 ^ 35

/-- Round(1 - x, FP32, rne). -/
def oneMinus (x : Nat) : Nat := fsub2 fp32 .rne 0 0x3F800000 x

/-- The binding that a CELLAR record names, if its table and every address in it are good (23 R359, R360). -/
def readBinding (s : State) (p : Payload) (r : Record) : Option Binding := do
  let a ← firstArgument s p r
  let h ← readWindow s p r a 0x40
  let f : Nat → Nat → Nat := fun o n => leNat ((h.drop o).take n)
  let nb := f 0x08 2
  let flags := f 0x07 1
  let nsub := f 0x0C 1
  let t ← readWindow s p r a (0x40 + 8 * nb)
  let te ← covering r.extents a (0x40 + 8 * nb)
  let b0 : Binding :=
    { rule := f 0x06 1, norm := flags % 2 == 1, twin := flags / 2 % 2 == 1, rsr := flags / 4 % 2 == 1, slabs := f 0x0A 1
      fmt := f 0x0B 1, beta1 := f 0x10 4, beta2 := f 0x14 4, eps := f 0x18 4, decay := f 0x1C 4, omb1 := oneMinus (f 0x10 4)
      omb2 := oneMinus (f 0x14 4), subs := [], norms := none, command := none, blocks := [] }
  let shape := f 0 4 = 0x4C4C4543 ∧ f 4 2 = 1 ∧ b0.rule ≤ 3 ∧ flags < 8 ∧ 1 ≤ nb ∧ nb ≤ 4096 ∧ 1 ≤ b0.slabs ∧ b0.slabs ≤ 8
    ∧ b0.fmt ≤ 2 ∧ nsub ≤ 16 ∧ f 0x0D 3 = 0 ∧ f 0x38 8 = 0
  if ¬ shape then none
  let st ← if nsub = 0 then some [] else readWindow s p r (f 0x20 8) (16 * nsub)
  let subs := (List.range nsub).map fun i =>
    let e := (st.drop (16 * i)).take 16
    (BitVec.ofNat 64 (leNat (e.take 8)), leNat ((e.drop 8).take 4), leNat (e.drop 12))
  if ¬ (subs.all fun e => subscriberOk s p r b0 nb e.1 e.2.1 e.2.2) then none
  let norms ← if b0.norm then (placedWindow p r (f 0x28 8) 4096 Extent.w).map some
              else if f 0x28 8 = 0 then some none else none
  let command ← placedWindow p r (f 0x30 8) 128 Extent.r
  let len := regionLength b0
  let table : Block := ⟨te.cls, targetIn te a, .clear⟩
  let blocks ← (List.range nb).mapM fun i =>
    let w := leNat ((t.drop (0x40 + 8 * i)).take 8)
    if w % 64 = 0 then placedWindow p r w len (fun e => e.r && e.w) else none
  let apart := blocks.zipIdx.all fun k =>
    oneGroup s k.1 len && !sharesTarget k.1 len table (0x40 + 8 * nb) && !sharesTarget k.1 len command 128 &&
      blocks.zipIdx.all fun j => j.2 == k.2 || !sharesTarget k.1 len j.1 len
  if ¬ apart then none
  some { b0 with subs := subs.map fun e => (e.1, e.2.1), norms := norms, command := some command, blocks := blocks }

/-- The parts of a CELLAR record's memory that the hub reads for its binding, where it can tell: argument, table, subscriber table. -/
def bindingReads (s : State) (p : Payload) (r : Record) : List (Nat × Nat) :=
  match firstArgument s p r with
  | none => []
  | some a =>
    (a, 0x40) :: match readWindow s p r a 0x40 with
      | none => []
      | some h =>
        let f : Nat → Nat → Nat := fun o n => leNat ((h.drop o).take n)
        (a, 0x40 + 8 * f 0x08 2) :: if f 0x0C 1 = 0 then [] else [(f 0x20 8, 16 * f 0x0C 1)]

/-- The argument extent of a CELLAR record under ARGEXTENT. -/
def argumentExtent (r : Record) : Option Extent := if r.flags.getLsbD 3 then r.extents[leNat (r.args.take 2)]? else none

/-- The check of a binding waits for the translation of a host page (09 R203). -/
def bindingWaits (s : State) (p : Payload) (r : Record) : Bool :=
  (argumentExtent r).elim false (fun e => targetView s .load e.cls e.target 8 == .missing) ||
    (bindingReads s p r).any fun w => windowWaits s r w.1 w.2

/-- The hub has read what names the binding (09 R203). -/
def touchBinding (s : State) (p : Payload) (r : Record) : State :=
  let s' := (argumentExtent r).elim s fun e => touchTarget s e.cls e.target 8
  (bindingReads s p r).foldl (fun t w => (covering r.extents w.1 w.2).elim t fun e => touchTarget t e.cls (targetIn e w.1) w.2) s'

/-- Every engine that a binding names is free (23 R361). -/
def enginesFree (s : State) (b : Binding) : Bool := (bindingSlices s b).all fun n => (engineAt s n).cap.isNone

/-- The engines are bound to a capsule (23 R361; every sequence counts as used now, R372). -/
def bindEngines (s : State) (cap : Nat) (b : Binding) : State :=
  let s := { s with bindings := sput s.bindings cap b }
  (bindingSlices s b).foldl (fun t n => modEngine t n fun _ => { cap := some cap, bound := t.now }) s

/-- The engines of a capsule have finished every doorbell, and every return has departed (23 R361). -/
def enginesDone (s : State) (cap : Nat) : Bool :=
  s.engines.all fun p => p.2.cap != some cap || (p.2.bells.isEmpty && p.2.jobs.isEmpty && p.2.returns.isEmpty)

/-! ### Update rules (23 R369) -/

def rn (v : FVal) : Nat := fround fp32 .rne 0 v
def cadd (a b : Nat) : Nat := fadd2 fp32 .rne 0 a b
def cmul (a b : Nat) : Nat := fmul2 fp32 .rne 0 a b
def cdiv (a b : Nat) : Nat := fdiv2 fp32 .rne 0 a b
/-- RN(a × b + d). -/
def cfma (a b d : Nat) : Nat := ffma fp32 .rne 0 false false a b d
/-- RN(−a × b + d). -/
def cfnma (a b d : Nat) : Nat := ffma fp32 .rne 0 true false a b d

/-- Sign(x) (23 R369). -/
def csign (x : Nat) : Nat :=
  match fdecode fp32 x with
  | .nan => fnan fp32
  | .inf neg => if neg then 0xBF800000 else 0x3F800000
  | .fin neg m _ => if m = 0 then 0 else if neg then 0xBF800000 else 0x3F800000

/-- Update of one parameter: (w, m, v) after it. -/
def updateParam (b : Binding) (c1 c2 lr c : Nat) (w m v g0 : Nat) : Nat × Nat × Nat :=
  let g := cmul g0 c
  match b.rule with
  | 0 =>
    let m := cfma b.beta1 m (cmul b.omb1 g)
    let v := cfma b.beta2 v (cmul b.omb2 (cmul g g))
    let dn := cadd (fsqrt1 fp32 .rne 0 (cdiv v c2)) b.eps
    let u := cfma b.decay w (cdiv (cdiv m c1) dn)
    (cfnma lr u w, m, v)
  | 1 =>
    let u := cfma b.decay w (csign (cfma b.beta1 m (cmul b.omb1 g)))
    (cfnma lr u w, cfma b.beta2 m (cmul b.omb2 g), v)
  | 2 =>
    let m := cfma b.beta1 m g
    (cfnma lr (cfma b.decay w m) w, m, v)
  | _ => (cfnma lr (cfma b.decay w g) w, m, v)

/-! ### Block headers (23 Table 23-3) -/

/-- A field of a block's header. -/
def headField (s : State) (k : Block) (o n : Nat) : Nat := leNat (s.mem.read k.key n (memKey k.cls (k.addr + o)))

def setHead (s : State) (k : Block) (o n v : Nat) : State := landMem s k.cls (k.addr + o) k.key (leBytes n v) false

/-- A STATUS bit is set. -/
def setStatus (s : State) (k : Block) (i : Nat) : State := setHead s k 0x1C 4 (headField s k 0x1C 4 ||| 2 ^ i)

/-- A counter rises, saturating. -/
def raiseHead (s : State) (k : Block) (o : Nat) : State := setHead s k o 4 (min (headField s k o 4 + 1) 0xFFFFFFFF)

/-! ### Returns (23 R372 to R374) -/

/-- The number under which the use of a sequence is kept: of a block's return to a subscriber, or of the norm release. -/
def seqKey (sub : Option Nat) (block seq : Nat) : Nat :=
  match sub with
  | some i => (block * 16 + i) * 16 + seq
  | none => 2 ^ 20 + seq

/-- The draw of a parameter (23 R374). -/
def cellarDraw (seed stamp b p : Nat) : Nat :=
  leNat ((aesEncrypt (leBytes 8 seed ++ List.replicate 8 0) (leBytes 8 stamp ++ leBytes 2 b ++ leBytes 2 p ++ List.replicate 4 0)).take 2)

/-- The largest magnitude that is no NaN (23 R374). -/
def slabMax (ws : List Nat) : Nat := ws.foldl (fun m w => if isNaN fp32 w then m else max m (w % 2 ^ 31)) 0

/-- The bytes of a return: elements, and the granule of scales. -/
def returnData (b : Binding) (blk stamp seed : Nat) (ws : List Nat) : List Byte :=
  let mode : Rnd := if b.rsr then .rsr else .rne
  let slabsOf := pieces 768 ws
  let fmt : Elem := if b.fmt = 0 then .m8 else .e43
  let scaleOf : List Nat → Int := fun sl => if b.fmt = 2 then 0 else packExp fmt (slabMax sl)
  let elems := slabsOf.zipIdx.flatMap fun sl =>
    let x := scaleOf sl.1
    sl.1.zipIdx.flatMap fun w =>
      let draw := if b.rsr then cellarDraw seed stamp blk (768 * sl.2 + w.2) else 0
      if b.fmt = 2 then leBytes 2 (fround bf16 mode draw (fdecode fp32 w.1))
      else leBytes 1 (narrow fmt mode draw (scaleBy x (fdecode fp32 w.1)))
  let scales := slabsOf.flatMap fun sl => leBytes 4 ((scaleOf sl + 127).toNat * 2 ^ 23)
  elems ++ scales ++ List.replicate (64 - scales.length) 0

/-- The FP32 words of an array in a block. -/
def arrayWords (s : State) (k : Block) (o n : Nat) : List Nat :=
  (pieces 4 (s.mem.read k.key (4 * n) (memKey k.cls (k.addr + o)))).map leNat

/-- A return to one subscriber is formed, or fails (23 R373). -/
def returnTo (s : State) (n i : Nat) (k : Block) (data : List Byte) (stamp : Nat) (sub : Nat × Word × Nat) : State :=
  let (j, dst, stride) := sub
  if spaceOf dst = 3 ∧ inRoster s (bits dst.toNat 46 16) = false then setStatus s k 4
  else
    let rseq := headField s k 0x28 8
    let q := rseq / 16 ^ j % 16
    let s := setHead s k 0x28 8 (rseq - q * 16 ^ j + (q + 1) % 16 * 16 ^ j)
    modEngine s n fun e =>
      { e with returns := e.returns ++
          [{ no := s.fresh, sub := some j, block := i, dst := dst + BitVec.ofNat 64 (i * stride), seq := q, data := data
             value := BitVec.ofNat 64 stamp }] }

/-- Return(b) (23 R373). -/
def returnBlock (s : State) (n : Nat) (b : Binding) (i : Nat) (k : Block) : State :=
  if b.twin && !(engineAt s n).promoted then s
  else
    let stamp := headField s k 0 8
    let data := returnData b i stamp (headField s k 0x38 8) (arrayWords s k 0x40 (768 * b.slabs))
    (b.subs.zipIdx.map fun e => (e.2, e.1.1, e.1.2)).foldl (fun t e => returnTo t n i k data stamp e) (bump s)

/-- Bytes of the return buffer that returns use, behind one with the number `last`: the data of a return is held once for all
its subscribers, which stand side by side. -/
def returnsUse : Option Nat → List Return → Nat
  | _, [] => 0
  | last, r :: t => (if last = some r.no then 8 else r.data.length + 8) + returnsUse (some r.no) t

/-- Bytes of the return buffer in use (23 R372). -/
def returnUse (e : Engine) : Nat := returnsUse none e.returns

/-- The return buffer has room for the next return (23 R372). -/
def returnRoom (b : Binding) (e : Engine) : Bool := returnUse e + returnBytes b + 64 + 8 * b.subs.length ≤ 65536

/-! ### Apply (23 R368) -/

/-- The gradient values of a snapshot as FP32. -/
def gradWords (header values : List Byte) (count : Nat) : List Nat :=
  if leNat ((header.drop 0x0A).take 1) = 1 then
    (pieces 2 (values.take (2 * count))).map fun w => rn (fdecode bf16 (leNat w))
  else (pieces 4 (values.take (4 * count))).map leNat

/-- Apply(b, s, c). -/
def applyBlock (s : State) (n : Nat) (b : Binding) (i : Nat) (k : Block) (header values : List Byte) (bad : Bool) (c : Nat) : State :=
  let size := blockArray b
  let count := 768 * b.slabs
  let arrays := 1 + momentArrays b.rule
  if bad || s.mem.anyPoison (memKey k.cls k.addr) (0x40 + size * arrays) then setStatus s k 3
  else
    let b1t := cmul (headField s k 0x08 4) b.beta1
    let b2t := cmul (headField s k 0x0C 4) b.beta2
    let lr := leNat ((header.drop 0x0C).take 4)
    let ws := arrayWords s k 0x40 count
    let ms := if 2 ≤ arrays then arrayWords s k (0x40 + size) count else List.replicate count 0
    let vs := if 3 ≤ arrays then arrayWords s k (0x40 + 2 * size) count else List.replicate count 0
    let gs := gradWords header values count
    let out := (ws.zip (ms.zip (vs.zip gs))).map fun e =>
      updateParam b (oneMinus b1t) (oneMinus b2t) lr c e.1 e.2.1 e.2.2.1 e.2.2.2
    let put : State → Nat → List Nat → State := fun t o xs => landMem t k.cls (k.addr + o) k.key (xs.flatMap (leBytes 4)) false
    let s := put s 0x40 (out.map fun e => e.1)
    let s := if 2 ≤ arrays then put s (0x40 + size) (out.map fun e => e.2.1) else s
    let s := if 3 ≤ arrays then put s (0x40 + 2 * size) (out.map fun e => e.2.2) else s
    let s := setHead s k 0x08 4 b1t
    let s := setHead s k 0x0C 4 b2t
    let s := setHead s k 0x00 8 (leNat (header.take 8))
    let s := setHead s k 0x30 8 0
    let s := setHead s k 0x1C 4 (headField s k 0x1C 4 / 2 * 2)
    let s := setHead s k 0x20 8 (headField s k 0x20 8 / 2)
    let s := setHead s k 0x38 8 (leNat ((header.drop 0x10).take 8))
    returnBlock s n b i k

/-! ### Norm mode (23 R370) -/

/-- The blocks of an engine's shard with their numbers. -/
def shard (s : State) (b : Binding) (n : Nat) : List (Nat × Block) :=
  b.blocks.zipIdx.filterMap fun k => if homeSlice s k.1 = n then some (k.2, k.1) else none

/-- The exact square of an FP32 value, added in FP64. -/
def addSquare (sum g : Nat) : Nat :=
  let v := fdecode fp32 g
  fround fp64 .rne 0 (fplus (fdecode fp64 sum) (fdecode fp64 (fround fp64 .rne 0 (ftimes v v))))

/-- What a block's intake holds now: gradient header, values, poison (23 R364, R365). -/
def readIntake (s : State) (b : Binding) (k : Block) : List Byte × List Byte × Bool :=
  let at0 := memKey k.cls (k.addr + intakeOffset b)
  let header := s.mem.read k.key 64 at0
  let len := if leNat ((header.drop 0x0A).take 1) = 1 then blockArray b / 2 else blockArray b
  (header, s.mem.read k.key len (at0 + 64), s.mem.anyPoison at0 (64 + len))

/-- The staged snapshot of a block: staged values stay in the intake, also where an earlier binding staged them (23 R370). -/
def stagedOf (s : State) (n : Nat) (b : Binding) (k : Nat × Block) : List Byte × List Byte × Bool :=
  (sfind (engineAt s n).staged k.1).getD (readIntake s b k.2)

/-- NormCheck(s): the partial sum of a shard that is staged whole. -/
def normCheck (s : State) (n : Nat) (b : Binding) (step : Nat) : State :=
  let e := engineAt s n
  let ks := shard s b n
  if (b.twin && !e.promoted) || !(ks.all fun k => headField s k.2 0x30 8 == step) then s
  else
    match b.norms with
    | none => s
    | some nd =>
      let vals := ks.flatMap fun k =>
        let g := stagedOf s n b k
        gradWords g.1 g.2.1 (768 * b.slabs)
      let sum := vals.foldl addSquare 0
      let s := bump s
      modEngine s n fun e =>
        { e with normSeq := (e.normSeq + 1) % 16
                 returns := e.returns ++ [{ no := s.fresh, sub := none, block := 0, dst := BitVec.ofNat 64 (nd.addr + 16 * n), seq := e.normSeq
                                            data := leBytes 8 sum, value := BitVec.ofNat 64 step }] }

/-! ### Steps of an engine -/

/-- The binding that an engine serves. -/
def bindingOf (s : State) (n : Nat) : Option Binding := ((engineAt s n).cap).bind fun c => sfind s.bindings c

/-- CELLAR_DOORBELL (23 R365): the snapshot of the oldest doorbell event of engine State.arg.slice. -/
def execCellarDoorbell (s : State) : Out :=
  let n := s.arg.slice
  match bindingOf s n, (engineAt s n).bells with
  | some b, .block i v :: rest =>
    match b.blocks[i]? with
    | none => .next s
    | some k =>
      let g := readIntake s b k
      .next (modEngine s n fun e => { e with bells := rest, jobs := e.jobs ++ [.gradient i v g.1 g.2.1 g.2.2] })
  | some _, .command op f st :: rest => .next (modEngine s n fun e => { e with bells := rest, jobs := e.jobs ++ [.command op f st] })
  | _, _ => .next s

/-- OnDoorbell (23 R367). -/
def onDoorbell (s : State) (n : Nat) (b : Binding) (i : Nat) (k : Block) (v : Word) (header values : List Byte) (bad : Bool) : State :=
  let f : Nat → Nat → Nat := fun o w => leNat ((header.drop o).take w)
  if v.getLsbD 63 then setStatus s k 2
  else if f 8 2 ≠ i ∨ 1 < f 0x0A 1 ∨ f 0x0B 1 ≠ 0 ∨ f 0x18 40 ≠ 0 ∨ f 0 8 ≠ v.toNat then setStatus s k 1
  else
    let step := f 0 8
    let stamp := headField s k 0 8
    if step = stamp + 1 then
      if b.norm = false then applyBlock s n b i k header values bad 0x3F800000
      else if headField s k 0x30 8 = step then raiseHead s k 0x10
      else
        match (engineAt s n).clip with
        | some (cs, cf) =>
          if cs.toNat = step then applyBlock s n b i k header values bad cf
          else stage s n b i k header values bad step
        | none => stage s n b i k header values bad step
    else if step = stamp then returnBlock (raiseHead s k 0x10) n b i k
    else if step < stamp then raiseHead s k 0x14
    else
      let s := raiseHead s k 0x18
      let j := step - stamp - 2
      if j < 64 then setHead s k 0x20 8 (headField s k 0x20 8 ||| 2 ^ j) else s
where
  /-- A gradient is staged in norm mode. -/
  stage (s : State) (n : Nat) (b : Binding) (i : Nat) (k : Block) (header values : List Byte) (bad : Bool) (step : Nat) : State :=
    let s := setHead s k 0x30 8 step
    let s := setStatus s k 0
    let s := modEngine s n fun e => { e with staged := sput e.staged i (header, values, bad) }
    normCheck s n b step

/-- CELLAR_STEP (23 R367): the oldest snapshot of engine State.arg.slice, unless it is a command that CLIP or PROMOTE processes. -/
def execCellarStep (s : State) : Out :=
  let n := s.arg.slice
  match bindingOf s n, (engineAt s n).jobs with
  | some b, .gradient i v header values bad :: rest =>
    if returnRoom b (engineAt s n) = false then .next s
    else
      let s := modEngine s n fun e => { e with jobs := rest }
      match b.blocks[i]? with
      | some k => .next (onDoorbell s n b i k v header values bad)
      | none => .next s
  | some _, .command op _ _ :: rest =>
    if op = 1 ∨ op = 2 then .next s else .next (modEngine s n fun e => { e with jobs := rest })
  | _, _ => .next s

/-- The command in hand is done. -/
def endCommand (s : State) (n : Nat) : State := modEngine s n fun e => { e with jobs := e.jobs.drop 1, cursor := 0 }

/-- The next block of a command, where the return buffer has room for its return (23 R372); with none left the command is done. -/
def commandStep (s : State) (n : Nat) (b : Binding) (wants : Nat × Block → Bool) (act : State → Nat × Block → State) : State :=
  match (shard s b n).find? fun k => decide ((engineAt s n).cursor ≤ k.1) && wants k with
  | none => endCommand s n
  | some k => if returnRoom b (engineAt s n) then act (modEngine s n fun e => { e with cursor := k.1 + 1 }) k else s

/-- CLIP (23 R371): the command is recorded, and then one staged block of the shard after the other is applied, one at each step. -/
def execClip (s : State) : Out :=
  let n := s.arg.slice
  match bindingOf s n, (engineAt s n).jobs with
  | some b, .command 1 factor step :: _ =>
    if b.norm = false then .next (endCommand s n)
    else
      let s := modEngine s n fun e => { e with clip := some (step, factor) }
      .next (commandStep s n b (fun k => headField s k.2 0x30 8 == step.toNat && headField s k.2 0x1C 4 % 2 == 1) fun t k =>
        let g := stagedOf t n b k
        let t := applyBlock t n b k.1 k.2 g.1 g.2.1 g.2.2 factor
        if headField t k.2 0x1C 4 % 2 = 1 then t else modEngine t n fun e => { e with staged := serase e.staged k.1 })
  | _, _ => .next s

/-- PROMOTE (23 R371): the weights of the shard's blocks are sent again, one block at each step. -/
def execPromote (s : State) : Out :=
  let n := s.arg.slice
  match bindingOf s n, (engineAt s n).jobs with
  | some b, .command 2 _ _ :: _ =>
    if b.twin = false then .next (endCommand s n)
    else
      let s := modEngine s n fun e => { e with promoted := true }
      .next (commandStep s n b (fun _ => true) fun t k => returnBlock t n b k.1 k.2)
  | _, _ => .next s

/-! ### Departure of returns (23 R372) -/

/-- The counted header word of an engine packet, FLAG clear (23 Table 23-5b). -/
def engineHeader (s : State) (n : Nat) (r : Return) : Word :=
  let norm := if r.sub.isNone then 2 ^ 16 else 0
  BitVec.ofNat 64 (2 ^ 62 + (ownDevice s).getD 0 * 2 ^ 46 + n / 32 * 2 ^ 43 + n % 32 * 2 ^ 35 + r.sub.getD 0 * 2 ^ 29
    + r.seq * 2 ^ 25 + 2 ^ 24 + norm + r.block)

/-- Where a byte of a return goes: through the capsule's extents, or to a peer. -/
def returnDest (s : State) (cap : Nat) (b : Binding) (r : Return) (o : Nat) : Option (Dest × KeyId) :=
  match r.sub with
  | none => b.norms.map fun k => (.mem k.cls (r.dst.toNat + o), k.key)
  | some _ =>
    let a := r.dst + BitVec.ofNat 64 o
    if spaceOf a = 3 then some (.peer a, .clear)
    else
      match capAt s cap with
      | some c =>
        match translate (rangeTable c.payload c.info) a 1 .store with
        | .ok p => some (destOf p)
        | .error _ => none
      | none => none

/-- A packet of an engine. -/
def enginePacket (s : State) (n cap : Nat) (cargo : Cargo) (dst : Dest × KeyId) (header : Word) : State :=
  launch s (enterAt s ⟨n / 32, none, 16 + n % 32⟩
    { cargo := cargo, src := ⟨BitVec.ofNat 11 (n / 32 * 256), 5⟩, srcDev := BitVec.ofNat 16 ((ownDevice s).getD 0), capsule := cap
      dest := dst.1, key := dst.2, req := s.fresh, header := some header, hop := .spine, climb := 0, inPort := 0, age0 := 0
      born := s.now, portKey := portKeyOf s (some cap), seq := 0, intact := true })

/-- The data and then the flag of a return leave. -/
def sendReturn (s : State) (n cap : Nat) (b : Binding) (r : Return) : State :=
  let h := engineHeader s n r
  let s := (pieces 256 r.data).zipIdx.foldl (fun t p =>
    match returnDest t cap b r (256 * p.2) with
    | some d => enginePacket t n cap (.write p.1 false) d h
    | none => t) s
  match returnDest s cap b r r.data.length with
  | some d => enginePacket s n cap (.flag r.data.length r.value) d (h ||| 0x8000000000000000)
  | none => s

/-- CELLAR_PACKET_DEPART: the first held return of engine State.arg.slice whose flag may depart. -/
def execCellarPacketDepart (s : State) : Out :=
  let n := s.arg.slice
  let e := engineAt s n
  match e.cap, bindingOf s n with
  | some cap, some b =>
    match e.returns.find? fun r => sget e.bound e.used (seqKey r.sub r.block r.seq) + tReuse s ≤ s.now with
    | some r =>
      let s := sendReturn s n cap b r
      .next (modEngine s n fun e =>
        { e with returns := e.returns.erase r, used := sput e.used (seqKey r.sub r.block r.seq) s.now })
    | none => .next s
  | _, _ => .next s

end Sys2Proof.Machine
end

