-- ==== Sys2Proof/Machine/Accept.lean ====
section
/-! DEFINITION. Submission rings and acceptance: CAPSULE_ACCEPTANCE, DOORBELL, RING_RESET (06 R117; 08 R162 to R172, R175 to R178,
R181, R182, R184, R417, R418; 25 R385 to R387, R390; 26 R407). -/

namespace Sys2Proof.Machine

/-- The little-endian number in `n` bytes at offset `o`. -/
def fieldOf (bs : List Byte) (o n : Nat) : Nat := leNat ((bs.drop o).take n)

/-! ### Records (08 Tables 8-1 and 8-3) -/

def parseExtent (bs : List Byte) : Extent :=
  { base := fieldOf bs 0 8, length := fieldOf bs 8 8, cls := fieldOf bs 0x10 8 / 2 ^ 60, target := fieldOf bs 0x10 8 % 2 ^ 60
    rights := BitVec.ofNat 32 (fieldOf bs 0x18 4), keysel := fieldOf bs 0x1C 2, resv := fieldOf bs 0x1E 2 }

/-- Three 32-bit fields. -/
def parseTriple (bs : List Byte) (o : Nat) : Nat × Nat × Nat := (fieldOf bs o 4, fieldOf bs (o + 4) 4, fieldOf bs (o + 8) 4)

def parseRecord (bs : List Byte) : Record :=
  let w : Nat → Word := fun o => BitVec.ofNat 64 (fieldOf bs o 8)
  { magic := fieldOf bs 0 4, version := fieldOf bs 4 2, flags := BitVec.ofNat 16 (fieldOf bs 6 2), owner := w 8, keyHandle := w 0x10
    seqWord := w 0x18, seqExp := w 0x20, code := w 0x28, entry := fieldOf bs 0x30 4, trapEntry := fieldOf bs 0x34 4
    overflow := fieldOf bs 0x38 4, nExt := fieldOf bs 0x3C 2, nSucc := fieldOf bs 0x3E 2
    digest := BitVec.ofNat 256 (beNat ((bs.drop 0x40).take 32)), tiles := parseTriple bs 0x60, tileDims := parseTriple bs 0x6C
    tensor := parseTriple bs 0x78, threads := fieldOf bs 0x84 1, gang := fieldOf bs 0x85 1, priority := fieldOf bs 0x86 1
    policy := fieldOf bs 0x87 1, part := w 0x88, args := (bs.drop 0x90).take 64
    succs := (List.range 4).map fun i => (w (0xD0 + 16 * i), w (0xD8 + 16 * i)), park := fieldOf bs 0x110 2
    faultq := fieldOf bs 0x112 2, measure := BitVec.ofNat 32 (fieldOf bs 0x114 4), chain := w 0x118
    nonce := (bs.drop 0x120).take 16, tag := (bs.drop 0x130).take 16
    extents := (List.range (fieldOf bs 0x3C 2)).map fun i => parseExtent ((bs.drop (0x140 + 32 * i)).take 32)
    sealed := bs.take 0x120 ++ bs.drop 0x140, bytes := bs }

/-- An entry that the command processor has taken from a ring. -/
structure Taken where
  ring : Nat
  target : Nat
  key : KeyId
  counter : Nat
  cookie : Word
  /-- for a chain ring: the world that the record must belong to -/
  world : Option Nat
  /-- its number in a host ring -/
  index : Nat := 0
  deriving DecidableEq, Repr

/-- The record of a ring entry; none where its address is no multiple of 64 or it cannot be read (08 R171). -/
def readRecord (s : State) (t : Taken) : Option Record :=
  let cls := t.target / 2 ^ 60
  let a := t.target % 2 ^ 60
  if a % 64 ≠ 0 then none
  else (readTarget s cls a t.key 0x140).bind fun h =>
    (readTarget s cls a t.key (0x140 + 32 * fieldOf h 0x3C 2)).map parseRecord

/-- A record in host memory waits for a translation (09 R203). -/
def recordWaits (s : State) (t : Taken) : Bool :=
  let a := t.target % 2 ^ 60
  t.target / 2 ^ 60 == 2 && (targetView s .load 2 a 0x140 == .missing ||
    (readTarget s 2 a t.key 0x140).elim false fun h => targetView s .load 2 a (0x140 + 32 * fieldOf h 0x3C 2) == .missing)

/-! ### Key handles (25 R385 to R387) -/

/-- The one entry that covers an address, if it meets 08 R168. -/
def oneCover (s : State) (r : Record) (a : Word) (ok : Extent → Bool) : Option Extent :=
  match covers r.extents a.toNat with
  | [e] =>
    if e.base % 64 = 0 ∧ e.length % 64 = 0 ∧ (e.cls = 0 ∨ e.cls = 3) ∧ targetOk s e.cls e.target e.length = true ∧ ok e = true then some e
    else none
  | _ => none

/-- The bytes of the record's key handle (08 R166): none where the check of its extent fails. -/
def handleBytes (s : State) (r : Record) : Option (List Byte) :=
  match oneCover s r r.keyHandle fun e => e.r && e.keysel == 0 && !e.i with
  | none => none
  | some e =>
    let a := targetIn e r.keyHandle.toNat
    let room := e.base + e.length - r.keyHandle.toNat
    if room < 8 then none
    else (readTarget s e.cls a .clear 8).bind fun h =>
      let n := 1696 + 32 * fieldOf h 6 2
      if 16 < fieldOf h 6 2 ∨ room < n then none else readTarget s e.cls a .clear n

/-- A payload (25 Table 25-3). -/
def parsePayload (bs : List Byte) (keys : Nat) : Payload :=
  let k : Nat → BitVec 256 := fun o => BitVec.ofNat 256 (beNat ((bs.drop o).take 32))
  { sealKey := k 0, rootKey := k 0x20, rate := fieldOf bs 0x40 4, burst := fieldOf bs 0x44 4
    epoch := BitVec.ofNat 64 (fieldOf bs 0x48 8), memKeys := (List.range keys).map fun j => k (0x50 + 32 * j) }

/-- Unwrap (25 R386). -/
def unwrapHandle (h : List Byte) : Option Payload :=
  let keys := fieldOf h 6 2
  let device := (h.drop 8).take 32
  if fieldOf h 0 4 ≠ 0x4C444E48 ∨ fieldOf h 4 2 ≠ 1 ∨ keys = 0 ∨ 16 < keys ∨ device ≠ identityBytes then none
  else
    match kwUnwrap (kekOf device ((h.drop 0x28).take 1568)) (h.drop 0x648) with
    | none => none
    | some p =>
      let q := parsePayload p keys
      if q.rate ≠ 0 ∧ q.burst < 256 then none else some q

/-- An open world uses the entry of the handle cache. -/
def handleUsed (s : State) (d : BitVec 256) : Bool := s.hub.worlds.any fun w => w.2.handles.contains d

/-- A new handle finds no place in the cache (25 R387). -/
def handlesFull (s : State) : Bool := decide (64 ≤ s.hub.handles.length) && s.hub.handles.all fun h => handleUsed s h.digest

/-- The cache after an entry enters: the least recently used one that no open world uses leaves. -/
def cacheHandle (s : State) (h : Handle) : State :=
  let l := s.hub.handles
  let l := if l.length < 64 then l
           else match l.find? fun x => !handleUsed s x.digest with
             | some x => l.erase x
             | none => l
  { s with hub := { s.hub with handles := l ++ [h] } }

/-- Step 1 of 08 Table 8-5: the state with the handle in the cache, its cache digest, its payload. -/
def fetchHandle (s : State) (r : Record) : Option (State × BitVec 256 × Payload) :=
  (handleBytes s r).bind fun bs =>
    let d := digest256 bs
    match s.hub.handles.find? fun h => h.digest == d with
    | some h =>
      some ({ s with hub := { s.hub with handles := (s.hub.handles.filter fun x => x.digest != d) ++ [h] } }, d, h.payload)
    | none => (unwrapHandle bs).map fun p => (cacheHandle s ⟨d, p⟩, d, p)

/-! ### Steps 2 to 7 (08 Table 8-5) -/

/-- The seal (08 R169). -/
def sealOk (p : Payload) (r : Record) : Bool := gmac (beBytes 32 p.sealKey.toNat) r.nonce r.sealed == r.tag

/-- The handle's EPOCH is not that of the open world that the capsule would join (25 R390). -/
def epochWrong (s : State) (p : Payload) (r : Record) : Bool :=
  ((worldOf s (worldTag p.rootKey) r.chain).bind (worldAt s)).elim false fun w => w.epoch != p.epoch

/-- The entry waited while a world of its identity closed, and its handle carries the EPOCH of that opening (25 R392). -/
def epochClosed (s : State) (t : Taken) (p : Payload) (r : Record) : Bool :=
  t.world.isNone && s.hub.late.any fun l =>
    l.ring == t.ring && decide (t.index < l.upTo) && l.tag == worldTag p.rootKey && l.chain == r.chain && l.epoch == p.epoch

/-- Step 3: the compare-and-swap on the sequence word (08 R167, R168); none where it is refused. -/
def swapSequence (s : State) (p : Payload) (r : Record) : Option State :=
  if r.seqWord = 0 then some s
  else if r.seqWord.toNat % 8 ≠ 0 then none
  else
    match oneCover s r r.seqWord fun e => e.r && e.w && e.a with
    | none => none
    | some e =>
      let key := extentKey p r.chain e
      let a := targetIn e r.seqWord.toNat
      match readTarget s e.cls a key 8 with
      | some bs =>
        if leNat bs = r.seqExp.toNat then some (landMem s e.cls a key (leBytes 8 (r.seqExp + 1).toNat) false) else none
      | none => none

/-- An entry meets 08 Tables 8-3 and 8-4, reserved bits apart. -/
def extentOk (s : State) (p : Payload) (e : Extent) : Bool :=
  e.base % 64 == 0 && e.length % 64 == 0 && decide (64 ≤ e.length) && decide (e.base + e.length ≤ 2 ^ 62) && decide (e.cls ≤ 3)
    && e.target % 64 == 0 && targetOk s e.cls e.target e.length && decide (e.keysel ≤ p.memKeys.length)
    && (!e.i || e.cls == 0 || e.cls == 3) && !(e.x && e.w)

/-- No two windows share an address. -/
def windowsApart : List Extent → Bool
  | [] => true
  | e :: t => t.all (fun f => !overlaps e.base e.length f.base f.length) && windowsApart t

/-- A counter's window address is good (08 Table 8-5 step 4). -/
def counterOk (r : Record) (a : Word) : Bool :=
  a.toNat % 8 == 0 &&
    match covering r.extents a.toNat 8 with
    | some e => (e.cls == 0 || e.cls == 3) && e.r && e.w && e.a
    | none => false

/-- Step 4. -/
def extentsOk (s : State) (p : Payload) (r : Record) : Bool :=
  decide (1 ≤ r.nExt) && decide (r.nExt ≤ 64) && r.extents.all (extentOk s p) && windowsApart r.extents &&
    (r.succs.take r.nSucc).all fun u =>
      ((covering r.extents u.1.toNat 1).elim false fun e => e.r) && counterOk r u.2

/-- One axis of 06 R117. -/
def axisOk (tiles tile tensor : Nat) : Bool :=
  decide (1 ≤ tiles) && decide (1 ≤ tile) && decide (1 ≤ tensor) && tiles == (tensor + tile - 1) / tile

/-- 06 R117. -/
def gridOk (r : Record) : Bool :=
  axisOk r.tiles.1 r.tileDims.1 r.tensor.1 && axisOk r.tiles.2.1 r.tileDims.2.1 r.tensor.2.1
    && axisOk r.tiles.2.2 r.tileDims.2.2 r.tensor.2.2 && taskCount r % r.gang == 0 && decide (taskCount r ≤ 2 ^ 32 - 1)

/-- Units of 4 KiB of a partition word (09 Table 9-1). -/
def partUnits (w : Word) : Nat := bits w.toNat 0 8 + bits w.toNat 8 8 + bits w.toNat 16 8 + bits w.toNat 24 8

/-- 09 R189. -/
def partOk (r : Record) : Bool :=
  let f : Nat → Nat := fun i => bits r.part.toNat (8 * i) 8
  decide (1 ≤ f 0 ∧ f 0 ≤ 120 ∧ 1 ≤ f 1 ∧ f 1 ≤ 120 ∧ f 2 ≤ 16 ∧ f 3 ≤ 120) && bits r.part.toNat 32 32 == 0
    && decide (partUnits r.part ≤ 120) && decide (r.threads * partUnits r.part ≤ 120)

/-- The code extent (08 R170). -/
def codeExtent (r : Record) : Option Extent := r.extents.find? fun e => e.base == r.code.toNat && e.x

/-- An offset into the code, none allowed where `opt`. -/
def offsetOk (e : Extent) (o : Nat) (opt : Bool) : Bool := (opt && o == 0xFFFFFFFF) || (o % 2 == 0 && decide (o < e.length))

/-- An index of an extent with R and W, or 0xFFFF. -/
def indexOk (r : Record) (i : Nat) : Bool := i == 0xFFFF || (r.extents[i]?).elim false fun e => e.r && e.w

/-- Reserved bits of the record are 0 (00 R7). -/
def reservedOk (r : Record) : Bool :=
  bits r.flags.toNat 5 11 == 0 && (r.extents.all fun e => bits e.rights.toNat 8 24 == 0 && e.resv == 0)
    && (r.succs.drop r.nSucc).all fun u => u.1 == 0 && u.2 == 0

/-- The argument block (08 Table 8-1). -/
def argsOk (r : Record) : Bool :=
  !r.flags.getLsbD 3 ||
    (((r.extents[fieldOf r.args 0 2]?).elim false fun e => e.r) && (r.args.drop 2).all fun b => b == 0)

/-- The measure mask (08 Table 8-1). -/
def measureOk (r : Record) : Bool := (List.range 32).all fun i => !r.measure.getLsbD i || (r.extents[i]?).elim false Extent.m

/-- A ring entry's counter address is good (08 R175). -/
def ringCounterOk (s : State) (t : Taken) : Bool :=
  let cls := t.counter / 2 ^ 60
  let a := t.counter % 2 ^ 60
  t.counter != 0 && a % 8 == 0 && (cls == 0 || cls == 3) && targetOk s cls a 8

/-- A record from a chain ring belongs to the world of the capsule that released it (08 R176). -/
def chainOk (s : State) (t : Taken) (p : Payload) (r : Record) : Bool :=
  match t.world.bind (worldAt s) with
  | some w => w.chain == r.chain && w.tag == worldTag p.rootKey
  | none => true

/-- Step 5. -/
def formatOk (s : State) (t : Taken) (p : Payload) (r : Record) : Bool :=
  let code := match codeExtent r with
    | some e => offsetOk e r.entry false && offsetOk e r.trapEntry true && offsetOk e r.overflow true
    | none => false
  r.magic == 0x53504143 && r.version == 1 && reservedOk r && code && decide (r.nSucc ≤ 4) && gridOk r
    && decide (1 ≤ r.threads ∧ r.threads ≤ 4) && [1, 2, 4, 8].contains r.gang && decide (r.priority ≤ 3) && decide (r.policy ≤ 1)
    && partOk r && argsOk r && indexOk r r.park && indexOk r r.faultq && measureOk r && chainOk s t p r
    && (t.world.isSome || !r.flags.getLsbD 4 || ringCounterOk s t)
    && (!r.flags.getLsbD 2 || (!r.flags.getLsbD 1 && (readBinding s p r).isSome))

/-- Step 6: a host submission with DEPCOUNT whose counter does not read 0 (08 R175). -/
def stillPending (s : State) (t : Taken) (r : Record) : Bool :=
  t.world.isNone && r.flags.getLsbD 4 &&
    (readTarget s (t.counter / 2 ^ 60) (t.counter % 2 ^ 60) .clear 8).elim true fun bs => leNat bs != 0

/-- Aligned blocks of `g` cores that are all present (08 R184). -/
def blockCount (s : State) (g : Nat) : Nat := 2048 / g - ((s.hub.absent.map fun c => c.toNat / g).dedup).length

/-- Step 7 (08 R184). -/
def cohortFits (s : State) (r : Record) : Bool :=
  !r.flags.getLsbD 0 || decide (taskCount r / r.gang ≤ blockCount s r.gang * r.threads)

/-! ### Outcomes (08 R170, R172, R174, R178, R418) -/

/-- Record digest as it enters the journal (08 R418). -/
def recordDigest (r : Record) : Nat := digest16 (sha256 r.bytes)

/-- A rejection: its entry, and the ring entry's place in its world (08 R178). -/
def reject (s : State) (t : Taken) (code digest : Nat) : State :=
  let s := journal s { code := code, source := t.ring, cookie := t.cookie.toNat, digest := digest }
  match t.world with
  | some w => leaveWorld s w
  | none => s

/-- The code cache of the world holds the capsule's code (08 R170). -/
def codeCached (w : World) (r : Record) : Bool :=
  (codeExtent r).elim false fun e => w.code.contains ⟨targetForm e.cls e.target, e.length, r.digest⟩

/-- The world becomes guarded with its first capsule that names an extent with G (25 R399). -/
def guardWorld (now : Nat) (p : Payload) (r : Record) (w : World) : World :=
  if w.guarded = false ∧ (r.extents.any Extent.g) = true then
    { w with guarded := true, rate := p.rate, burst := p.burst, tokens := p.burst, ticked := now }
  else w

/-- What the capsule adds to its world. -/
def enterWorld (p : Payload) (r : Record) (d : BitVec 256) (w : World) : World :=
  { w with scrub := w.scrub ++ (r.extents.filter Extent.s).map fun e => (e.cls, e.target, e.length, extentKey p r.chain e)
           handles := if w.handles.contains d then w.handles else w.handles ++ [d] }

/-- The open world that an accepted capsule joins, if there is one (08 R178). -/
def joined (s : State) (t : Taken) (p : Payload) (r : Record) : Option Nat :=
  match t.world with
  | some w => some w
  | none => worldOf s (worldTag p.rootKey) r.chain

/-- The capsule is accepted: ACCEPTED, then WORLD_OPEN where its world opens. Charges up to now are those of a ring without it (08 R183). -/
def enterCapsule (s : State) (t : Taken) (r : Record) (d : BitVec 256) (p : Payload) : State :=
  let s := chargeAll s
  let dig := recordDigest r
  let pos := nextPosition s
  let s := journal s { code := 0x10, source := t.ring, cookie := t.cookie.toNat, digest := dig }
  let (s, n) : State × Nat := match joined s t p r with
    | some n => (if t.world.isSome then s else modWorld s n fun w => { w with live := w.live + 1 }, n)
    | none =>
      let w : World := { tag := worldTag p.rootKey, chain := r.chain, epoch := p.epoch, rootKey := p.rootKey
                         openPos := BitVec.ofNat 64 (nextPosition s), live := 1 }
      let n := s.hub.worldNo
      let s := journal s (worldEvent w 0x11)
      ({ s with hub := { s.hub with worlds := sput s.hub.worlds n w, worldNo := n + 1 } }, n)
  let s := modWorld s n fun w => guardWorld s.now p r (enterWorld p r d w)
  let hit := (worldAt s n).elim false fun w => codeCached w r
  let c : Capsule :=
    { info := r, payload := p, source := t.ring, cookie := t.cookie, handle := d, recDigest := dig, world := n
      pos := BitVec.ofNat 64 pos, verdict := !hit, priority := r.priority, accepted := s.now }
  let no := s.hub.capNo
  let s := { s with hub := { s.hub with capsules := sput s.hub.capsules no c, capNo := no + 1 } }
  if r.flags.getLsbD 2 then
    match readBinding s p r with
    | some b => { s with bindings := sput s.bindings no b }
    | none => s
  else s

/-- Acceptance of an entry that has been taken (08 R171). -/
def accept (s : State) (t : Taken) : State :=
  match readRecord s t with
  | none => reject s t 0x25 t.target
  | some r =>
    let no : State → Nat → State := fun s code => reject s t code (recordDigest r)
    match fetchHandle s r with
    | none => no s 0x21
    | some (s, d, p) =>
      if sealOk p r = false then no s 0x22
      else if epochWrong s p r || epochClosed s t p r then no s 0x21
      else
        match swapSequence s p r with
        | none => no s 0x23
        | some s =>
          if extentsOk s p r = false then no s 0x24
          else
            let s := if r.flags.getLsbD 2 then touchBinding s p r else s
            if formatOk s t p r = false then no s 0x25
            else if stillPending s t r then no s 0x26
            else if cohortFits s r = false then no s 0x27
            else enterCapsule s t r d p

/-! ### Rings (08 R181, R182, R417; 26 R407) -/

/-- The next entry of host ring `n`: none where its ticket does not match. -/
def hostEntry (s : State) (n : Nat) : Option Taken :=
  if ringTaking s n = false then none
  else
    let rd := readIndex s n
    (ringBytes s n rd).map fun e =>
      { ring := n, target := fieldOf e 0 8, key := .clear, counter := fieldOf e 8 8, cookie := BitVec.ofNat 64 (fieldOf e 0x10 8)
        world := none, index := rd }

/-- The next entry of a ring: 64 to 79 are the chain rings. -/
def ringEntry (s : State) (n : Nat) : Option Taken :=
  if n < 64 then hostEntry s n
  else
    match sget [] s.hub.chains (n - 64) with
    | e :: _ => some { ring := n, target := e.target, key := e.key, counter := 0, cookie := BitVec.ofNat 64 e.target, world := some e.world }
    | [] => none

/-- The entry needs a handle for which the cache has no place (25 R387). -/
def heldBack (s : State) (t : Taken) : Bool :=
  handlesFull s &&
    match readRecord s t with
    | some r => (handleBytes s r).elim false fun bs => s.hub.handles.all fun h => h.digest != digest256 bs
    | none => false

/-- The entry leaves its ring: the read index is written before acceptance. -/
def takeEntry (s : State) (t : Taken) : State :=
  if t.ring < 64 then hostWrite s ((ringAt s t.ring).base + 8) (leBytes 8 (readIndex s t.ring + 1))
  else { s with hub := { s.hub with chains := sset [] s.hub.chains (t.ring - 64) ((sget [] s.hub.chains (t.ring - 64)).drop 1) } }

/-- The dispatch queue is full (08 R183). -/
def queueFull (s : State) : Bool := decide (1024 ≤ (s.hub.capsules.filter fun p => waits p.2).length)

/-- The ring from which the next entry is taken, in turn (08 R417). -/
def nextEntry (s : State) : Option Taken :=
  (List.range 80).findSome? fun j => (ringEntry s ((s.hub.turn + j) % 80)).filter fun t => !heldBack s t

/-- The scan of a ring ends at a ticket that does not match (08 R182). -/
def endScans (s : State) : State :=
  { s with hub := { s.hub with scanning := s.hub.scanning.filter fun p => (hostEntry s p.1).isSome } }

/-- A record that will come to its compare-and-swap meets an intake or a doorbell that takes no write now (23 R365), or one that will come to its
binding waits for a translation (09 R203). -/
def judgeWaits (s : State) (t : Taken) : Bool :=
  match readRecord s t with
  | none => false
  | some r =>
    let held := r.seqWord != 0 && (covering r.extents r.seqWord.toNat 8).elim false fun e =>
      landBlocked s e.cls (targetIn e r.seqWord.toNat) 8
    (held || r.flags.getLsbD 2) &&
      match fetchHandle s r with
      | none => false
      | some (s, _, p) => sealOk p r && (held || (r.flags.getLsbD 2 && extentsOk s p r && bindingWaits s p r))

/-- The write of a ring's read index meets an intake or a doorbell that takes no write now (23 R365). -/
def indexWaits (s : State) (t : Taken) : Bool := decide (t.ring < 64) && landBlocked s 0 ((ringAt s t.ring).base + 8) 8

/-- The bytes of the record of an entry: its header, and its extent entries where the header can be read. -/
def recordLength (s : State) (t : Taken) : Nat :=
  (readTarget s (t.target / 2 ^ 60) (t.target % 2 ^ 60) t.key 0x140).elim 0x140 fun h => 0x140 + 32 * fieldOf h 0x3C 2

/-- CAPSULE_ACCEPTANCE (08 R171, R417): the next entry is taken and judged. None is while the queue or the journal is full, or events of the
journal are held, or while a world is closing, which goes on. -/
def execCapsuleAcceptance (s : State) : Out :=
  if closingWorlds s ≠ [] then .next (closeMore s)
  else if queueFull s ∨ journalOpen s = false then .next s
  else
    let s := endScans s
    match nextEntry s with
    | none => .next s
    | some t =>
      if recordWaits s t || judgeWaits s t || indexWaits s t then .next s
      else
        let s := touchTarget (takeEntry s t) (t.target / 2 ^ 60) (t.target % 2 ^ 60) (recordLength s t)
        let s := accept { s with hub := { s.hub with turn := (t.ring + 1) % 80 } } t
        .next { s with hub := { s.hub with late := s.hub.late.filter fun l => l.ring != t.ring || decide (t.index + 1 < l.upTo) } }

/-- DOORBELL (26 R407; 25 R401): a write to the doorbell of ring State.arg.ring. -/
def execDoorbell (s : State) : Out :=
  let n := s.arg.ring
  if 64 ≤ n ∨ (ringAt s n).on = false ∨ s.hub.run = false then .next s
  else .next { s with hub := { s.hub with scanning := sset false s.hub.scanning n true } }

/-- The zeros that a ring's reset writes: addresses and lengths. -/
def resetWrites (r : Ring) : List (Nat × Nat) := (r.base, 16) :: (List.range (2 ^ r.log)).map fun i => (r.base + 0x40 + 32 * i + 0x18, 8)

/-- RCTL.RESET of a host ring is written and clears again; ENABLE is as written (26 R407). -/
def resetRing (s : State) (n : Nat) (on : Bool) : State :=
  let r := ringAt s n
  let s := { s with hub := { s.hub with rings := sset {} s.hub.rings n { r with on := on }
                                        scanning := serase s.hub.scanning n, late := s.hub.late.filter fun l => l.ring != n } }
  if ringMapped s r = false then s else (resetWrites r).foldl (fun t w => hostWrite t w.1 (List.replicate w.2 0)) s

/-- One of them meets an intake or a doorbell that takes no write now (23 R365). -/
def resetWaits (s : State) (n : Nat) : Bool := ringMapped s (ringAt s n) && (resetWrites (ringAt s n)).any fun w => landBlocked s 0 w.1 w.2

/-- The ring is reset, now or when its zeros can be written. -/
def resetOrWait (s : State) (n : Nat) (on : Bool) : State :=
  if resetWaits s n then { s with deferred := s.deferred ++ [(.ringReset, { ring := n, flag := on })] } else resetRing s n on

/-- RING_RESET (26 R407) of ring State.arg.ring; ENABLE as State.arg.flag says. The first that waits is tried again where State.arg.again. -/
def execRingReset (s : State) : Out :=
  if s.arg.again then
    match s.deferred.find? fun p => p.1 == .ringReset with
    | some (j, a) => .next (if resetWaits s a.ring then s else resetRing { s with deferred := s.deferred.erase (j, a) } a.ring a.flag)
    | none => .next s
  else if 64 ≤ s.arg.ring then .next s
  else .next (resetOrWait s s.arg.ring s.arg.flag)

end Sys2Proof.Machine
end

