-- ==== Sys2Proof/Machine/Alu.lean ====
section
/-! DEFINITION. Integer arithmetic (04 R72 to R78) and its compact forms (03 R67). -/

namespace Sys2Proof.Machine

/-- `op xd, xa, xb` of `len` bytes: xd := f(X(a), X(b)) (04 R71, R72). -/
def aluOp (len : Word) (f : Word → Word → Word) (d a b : BitVec 5) (s : State) : Out :=
  withReady [a, b] s <| withX a s fun x => withX b s fun y => done len (onSlot s fun l => setX l d (f x y))

/-- `op xd, xa`: xd := f(X(a)) (04 R74). -/
def unOp (len : Word) (f : Word → Word) (d a : BitVec 5) (s : State) : Out :=
  withX a s fun x => done len (onSlot s fun l => setX l d (f x))

/-- xd := v. -/
def setOp (len : Word) (d : BitVec 5) (v : Word) (s : State) : Out := done len (onSlot s fun l => setX l d v)

/-- add: a + b (04 Table 4-2). -/
def execAdd (d a b : BitVec 5) (s : State) : Out := aluOp 4 (fun x y => x + y) d a b s

/-- sub: a - b (04 Table 4-2). -/
def execSub (d a b : BitVec 5) (s : State) : Out := aluOp 4 (fun x y => x - y) d a b s

/-- and: a & b (04 Table 4-2). -/
def execAnd (d a b : BitVec 5) (s : State) : Out := aluOp 4 (fun x y => x &&& y) d a b s

/-- or: a | b (04 Table 4-2). -/
def execOr (d a b : BitVec 5) (s : State) : Out := aluOp 4 (fun x y => x ||| y) d a b s

/-- xor: a ^ b (04 Table 4-2). -/
def execXor (d a b : BitVec 5) (s : State) : Out := aluOp 4 (fun x y => x ^^^ y) d a b s

/-- andn: a & ~b (04 Table 4-2). -/
def execAndn (d a b : BitVec 5) (s : State) : Out := aluOp 4 (fun x y => x &&& ~~~y) d a b s

/-- orn: a | ~b (04 Table 4-2). -/
def execOrn (d a b : BitVec 5) (s : State) : Out := aluOp 4 (fun x y => x ||| ~~~y) d a b s

/-- xnor: ~(a ^ b) (04 Table 4-2). -/
def execXnor (d a b : BitVec 5) (s : State) : Out := aluOp 4 (fun x y => ~~~(x ^^^ y)) d a b s

/-- sll: a << b[5:0] (04 Table 4-2). -/
def execSll (d a b : BitVec 5) (s : State) : Out := aluOp 4 (fun x y => x <<< shamt y) d a b s

/-- srl: a >> b[5:0], zeros in (04 Table 4-2). -/
def execSrl (d a b : BitVec 5) (s : State) : Out := aluOp 4 (fun x y => x >>> shamt y) d a b s

/-- sra: a >> b[5:0], sign in (04 Table 4-2). -/
def execSra (d a b : BitVec 5) (s : State) : Out := aluOp 4 (fun x y => x.sshiftRight (shamt y)) d a b s

/-- rol: a rotated left (04 Table 4-2). -/
def execRol (d a b : BitVec 5) (s : State) : Out := aluOp 4 (fun x y => x.rotateLeft (shamt y)) d a b s

/-- ror: a rotated right (04 Table 4-2). -/
def execRor (d a b : BitVec 5) (s : State) : Out := aluOp 4 (fun x y => x.rotateRight (shamt y)) d a b s

/-- slt: signed a < b (04 Table 4-2). -/
def execSlt (d a b : BitVec 5) (s : State) : Out := aluOp 4 (fun x y => oneIf (x.slt y)) d a b s

/-- sltu: unsigned a < b (04 Table 4-2). -/
def execSltu (d a b : BitVec 5) (s : State) : Out := aluOp 4 (fun x y => oneIf (x.ult y)) d a b s

/-- seq: a = b (04 Table 4-2). -/
def execSeq (d a b : BitVec 5) (s : State) : Out := aluOp 4 (fun x y => oneIf (x == y)) d a b s

/-- min: signed smaller (04 Table 4-2). -/
def execMin (d a b : BitVec 5) (s : State) : Out := aluOp 4 (fun x y => if x.sle y then x else y) d a b s

/-- max: signed larger (04 Table 4-2). -/
def execMax (d a b : BitVec 5) (s : State) : Out := aluOp 4 (fun x y => if x.sle y then y else x) d a b s

/-- minu: unsigned smaller (04 Table 4-2). -/
def execMinu (d a b : BitVec 5) (s : State) : Out := aluOp 4 (fun x y => if x.ule y then x else y) d a b s

/-- maxu: unsigned larger (04 Table 4-2). -/
def execMaxu (d a b : BitVec 5) (s : State) : Out := aluOp 4 (fun x y => if x.ule y then y else x) d a b s

/-- mul: low half of the product (04 Table 4-2). -/
def execMul (d a b : BitVec 5) (s : State) : Out := aluOp 4 (fun x y => x * y) d a b s

/-- mulh: high half, signed (04 Table 4-2). -/
def execMulh (d a b : BitVec 5) (s : State) : Out := aluOp 4 (fun x y => mulHS x y) d a b s

/-- mulhu: high half, unsigned (04 Table 4-2). -/
def execMulhu (d a b : BitVec 5) (s : State) : Out := aluOp 4 (fun x y => mulHU x y) d a b s

/-- div: signed quotient, R73 (04 Table 4-2). -/
def execDiv (d a b : BitVec 5) (s : State) : Out := aluOp 4 (fun x y => divS x y) d a b s

/-- divu: unsigned quotient, R73 (04 Table 4-2). -/
def execDivu (d a b : BitVec 5) (s : State) : Out := aluOp 4 (fun x y => divU x y) d a b s

/-- rem: signed remainder, R73 (04 Table 4-2). -/
def execRem (d a b : BitVec 5) (s : State) : Out := aluOp 4 (fun x y => remS x y) d a b s

/-- remu: unsigned remainder, R73 (04 Table 4-2). -/
def execRemu (d a b : BitVec 5) (s : State) : Out := aluOp 4 (fun x y => remU x y) d a b s

/-- csel: a where X(c) is not 0, else b (04 R72). -/
def execCsel (d a b c : BitVec 5) (s : State) : Out :=
  withReady [a, b, c] s <| withX a s fun x => withX b s fun y => withX c s fun z => done 4 (onSlot s fun l => setX l d (if z ≠ 0 then x else y))

/-- clz (04 Table 4-4). -/
def execClz (d a : BitVec 5) (s : State) : Out := unOp 4 (clzW) d a s

/-- ctz (04 Table 4-4). -/
def execCtz (d a : BitVec 5) (s : State) : Out := unOp 4 (ctzW) d a s

/-- popc (04 Table 4-4). -/
def execPopc (d a : BitVec 5) (s : State) : Out := unOp 4 (popcW) d a s

/-- sextB (04 Table 4-4). -/
def execSextB (d a : BitVec 5) (s : State) : Out := unOp 4 (fun x => sext (x.setWidth 8)) d a s

/-- sextH (04 Table 4-4). -/
def execSextH (d a : BitVec 5) (s : State) : Out := unOp 4 (fun x => sext (x.setWidth 16)) d a s

/-- sextW (04 Table 4-4). -/
def execSextW (d a : BitVec 5) (s : State) : Out := unOp 4 (fun x => sext (x.setWidth 32)) d a s

/-- zextW (04 Table 4-4). -/
def execZextW (d a : BitVec 5) (s : State) : Out := unOp 4 (fun x => (x.setWidth 32).setWidth 64) d a s

/-- brev (04 Table 4-4). -/
def execBrev (d a : BitVec 5) (s : State) : Out := unOp 4 (BitVec.reverse) d a s

/-- abs (04 Table 4-4). -/
def execAbs (d a : BitVec 5) (s : State) : Out := unOp 4 (absW) d a s

/-- addsl: X(a) + (X(b) << n) (04 R75). -/
def execAddsl (d a b n : BitVec 5) (s : State) : Out := aluOp 4 (fun x y => x + (y <<< n.toNat)) d a b s

/-- addi (04 R76). -/
def execAddi (d a : BitVec 5) (imm : BitVec 15) (s : State) : Out := unOp 4 (fun x => x + sext imm) d a s

/-- andi (04 R76). -/
def execAndi (d a : BitVec 5) (imm : BitVec 15) (s : State) : Out := unOp 4 (fun x => x &&& sext imm) d a s

/-- ori (04 R76). -/
def execOri (d a : BitVec 5) (imm : BitVec 15) (s : State) : Out := unOp 4 (fun x => x ||| sext imm) d a s

/-- xori (04 R76). -/
def execXori (d a : BitVec 5) (imm : BitVec 15) (s : State) : Out := unOp 4 (fun x => x ^^^ sext imm) d a s

/-- slti (04 R76). -/
def execSlti (d a : BitVec 5) (imm : BitVec 15) (s : State) : Out := unOp 4 (fun x => oneIf (x.slt (sext imm))) d a s

/-- sltiu (04 R76). -/
def execSltiu (d a : BitVec 5) (imm : BitVec 15) (s : State) : Out := unOp 4 (fun x => oneIf (x.ult (sext imm))) d a s

/-- slli (04 R77). -/
def execSlli (d a : BitVec 5) (n : BitVec 6) (s : State) : Out := unOp 4 (fun x => x <<< n.toNat) d a s

/-- srli (04 R77). -/
def execSrli (d a : BitVec 5) (n : BitVec 6) (s : State) : Out := unOp 4 (fun x => x >>> n.toNat) d a s

/-- srai (04 R77). -/
def execSrai (d a : BitVec 5) (n : BitVec 6) (s : State) : Out := unOp 4 (fun x => x.sshiftRight n.toNat) d a s

/-- roli (04 R77). -/
def execRoli (d a : BitVec 5) (n : BitVec 6) (s : State) : Out := unOp 4 (fun x => x.rotateLeft n.toNat) d a s

/-- rori (04 R77). -/
def execRori (d a : BitVec 5) (n : BitVec 6) (s : State) : Out := unOp 4 (fun x => x.rotateRight n.toNat) d a s

/-- lih (04 R78). -/
def execLih (d : BitVec 5) (imm : BitVec 20) (s : State) : Out := setOp 4 d (sext imm <<< 12) s

/-- lia (04 R78). -/
def execLia (d : BitVec 5) (imm : BitVec 20) (s : State) : Out := setOp 4 d (s.slot.pc + (sext imm <<< 12)) s

/-! ### Compact forms (03 Table 3-13) -/

/-- add.c xd, xs, x0. -/
def execAddCX0 (d r : BitVec 5) (s : State) : Out := aluOp 2 (fun x y => x + y) d r 0 s

/-- add.c xd, xd, xs. -/
def execAddC (d r : BitVec 5) (s : State) : Out := aluOp 2 (fun x y => x + y) d d r s

/-- sub.c xd, xd, xs. -/
def execSubC (d r : BitVec 5) (s : State) : Out := aluOp 2 (fun x y => x - y) d d r s

/-- and.c xd, xd, xs. -/
def execAndC (d r : BitVec 5) (s : State) : Out := aluOp 2 (fun x y => x &&& y) d d r s

/-- or.c xd, xd, xs. -/
def execOrC (d r : BitVec 5) (s : State) : Out := aluOp 2 (fun x y => x ||| y) d d r s

/-- xor.c xd, xd, xs. -/
def execXorC (d r : BitVec 5) (s : State) : Out := aluOp 2 (fun x y => x ^^^ y) d d r s

/-- addi.c xd, xd, imm. -/
def execAddiC (d imm : BitVec 5) (s : State) : Out := unOp 2 (fun x => x + sext imm) d d s

/-- addi.c xd, x0, imm. -/
def execAddiCX0 (d imm : BitVec 5) (s : State) : Out := unOp 2 (fun x => x + sext imm) d 0 s

/-- slli.c xd, xd, n. -/
def execSlliC (d n : BitVec 5) (s : State) : Out := unOp 2 (fun x => x <<< n.toNat) d d s

/-- srli.c xd, xd, n. -/
def execSrliC (d n : BitVec 5) (s : State) : Out := unOp 2 (fun x => x >>> n.toNat) d d s

/-- srai.c xd, xd, n. -/
def execSraiC (d n : BitVec 5) (s : State) : Out := unOp 2 (fun x => x.sshiftRight n.toNat) d d s

end Sys2Proof.Machine
end

