-- ==== Sys2Proof/Machine/Fp.lean ====
section
/-! DEFINITION. Scalar floating point (04 R95 to R103) and the indexed register forms (04 R104). -/

namespace Sys2Proof.Machine

/-- fd := v for a result that takes one draw where the mode draws (15 R260). -/
def putRounded (len : Word) (rnd : Rnd) (d : BitVec 5) (v : Nat) (s : State) : Out :=
  done len (onSlot s fun l => takeDraws rnd 1 (setF l d (BitVec.ofNat 64 v)))

/-- `op.type.rnd fd, fa, fb` (04 R95). -/
def fpOp (len : Word) (f : FFmt → Rnd → Nat → Nat → Nat → Nat) (d a b : BitVec 5) (ty : FType) (rnd : Rnd) (s : State) : Out :=
  putRounded len rnd d (f (ftypeFmt ty) rnd (drawOf rnd s 0) (fval s.slot a).toNat (fval s.slot b).toNat) s

/-- fd := v without rounding. -/
def putF (len : Word) (d : BitVec 5) (v : Nat) (s : State) : Out := done len (onSlot s fun l => setF l d (BitVec.ofNat 64 v))

/-- `op.type fd, fa, fb` without rounding (04 R96). -/
def fpOp0 (f : FFmt → Nat → Nat → Nat) (d a b : BitVec 5) (ty : FType) (s : State) : Out :=
  putF 4 d (f (ftypeFmt ty) (fval s.slot a).toNat (fval s.slot b).toNat) s

/-- A compare into an x register (04 R97). -/
def fpCmp (f : FFmt → Nat → Nat → Bool) (d a b : BitVec 5) (ty : FType) (s : State) : Out :=
  done 4 (onSlot s fun l => setX l d (oneIf (f (ftypeFmt ty) (fval s.slot a).toNat (fval s.slot b).toNat)))

/-- A fused form (04 Table 4-7). -/
def fpFma (negP negC : Bool) (d a b c : BitVec 5) (ty : FType) (rnd : Rnd) (s : State) : Out :=
  putRounded 4 rnd d (ffma (ftypeFmt ty) rnd (drawOf rnd s 0) negP negC (fval s.slot a).toNat (fval s.slot b).toNat
    (fval s.slot c).toNat) s

/-- fadd (04 R95). -/
def execFadd (d a b : BitVec 5) (ty : FType) (rnd : Rnd) (s : State) : Out := fpOp 4 fadd2 d a b ty rnd s

/-- fsub (04 R95). -/
def execFsub (d a b : BitVec 5) (ty : FType) (rnd : Rnd) (s : State) : Out := fpOp 4 fsub2 d a b ty rnd s

/-- fmul (04 R95). -/
def execFmul (d a b : BitVec 5) (ty : FType) (rnd : Rnd) (s : State) : Out := fpOp 4 fmul2 d a b ty rnd s

/-- fdiv (04 R95). -/
def execFdiv (d a b : BitVec 5) (ty : FType) (rnd : Rnd) (s : State) : Out := fpOp 4 fdiv2 d a b ty rnd s

/-- fsqrt (04 R95). -/
def execFsqrt (d a : BitVec 5) (ty : FType) (rnd : Rnd) (s : State) : Out :=
  putRounded 4 rnd d (fsqrt1 (ftypeFmt ty) rnd (drawOf rnd s 0) (fval s.slot a).toNat) s

/-- fmin (04 R96). -/
def execFmin (d a b : BitVec 5) (ty : FType) (s : State) : Out := fpOp0 (fmin2) d a b ty s

/-- fmax (04 R96). -/
def execFmax (d a b : BitVec 5) (ty : FType) (s : State) : Out := fpOp0 (fmax2) d a b ty s

/-- fsgnj (04 R96). -/
def execFsgnj (d a b : BitVec 5) (ty : FType) (s : State) : Out := fpOp0 (fun f x y => withSign f x (signBit f y)) d a b ty s

/-- fsgnjn (04 R96). -/
def execFsgnjn (d a b : BitVec 5) (ty : FType) (s : State) : Out := fpOp0 (fun f x y => withSign f x (!signBit f y)) d a b ty s

/-- fsgnjx (04 R96). -/
def execFsgnjx (d a b : BitVec 5) (ty : FType) (s : State) : Out := fpOp0 (fun f x y => withSign f x (signBit f x != signBit f y)) d a b ty s

/-- feq (04 R97). -/
def execFeq (d a b : BitVec 5) (ty : FType) (s : State) : Out := fpCmp feq2 d a b ty s

/-- flt (04 R97). -/
def execFlt (d a b : BitVec 5) (ty : FType) (s : State) : Out := fpCmp flt2 d a b ty s

/-- fle (04 R97). -/
def execFle (d a b : BitVec 5) (ty : FType) (s : State) : Out := fpCmp fle2 d a b ty s

/-- fclass: one bit is set (04 R98). -/
def execFclass (d a : BitVec 5) (ty : FType) (s : State) : Out :=
  done 4 (onSlot s fun l => setX l d (1 <<< fclassBit (ftypeFmt ty) (fval s.slot a).toNat))

/-- fcvt.to.from (04 R99). -/
def execFcvt (d a : BitVec 5) (src ty : FType) (rnd : Rnd) (s : State) : Out :=
  putRounded 4 rnd d (fround (ftypeFmt ty) rnd (drawOf rnd s 0) (fdecode (ftypeFmt src) (fval s.slot a).toNat)) s

/-- fcvt.i.type (04 R100). -/
def execFcvtI (d a : BitVec 5) (ty : FType) (rnd : Rnd) (s : State) : Out :=
  done 4 (onSlot s fun l => takeDraws rnd 1
    (setX l d (BitVec.ofInt 64 (toInteger (ftypeFmt ty) 64 rnd (drawOf rnd s 0) (fval s.slot a).toNat))))

/-- fcvt.type.i (04 R101). -/
def execFcvtFromI (d a : BitVec 5) (ty : FType) (rnd : Rnd) (s : State) : Out :=
  withX a s fun x => putRounded 4 rnd d (ofInteger (ftypeFmt ty) rnd (drawOf rnd s 0) x.toInt) s

/-- fmv.x.type: raw bits, zero-extended (04 R102). -/
def execFmvX (d a : BitVec 5) (ty : FType) (s : State) : Out :=
  done 4 (onSlot s fun l => setX l d (BitVec.ofNat 64 ((fval s.slot a).toNat % 2 ^ fwidth (ftypeFmt ty))))

/-- fmv.type.x: low bits of X(a) (04 R102). -/
def execFmvF (d a : BitVec 5) (ty : FType) (s : State) : Out :=
  withX a s fun x => putF 4 d (x.toNat % 2 ^ fwidth (ftypeFmt ty)) s

/-- fmadd (04 Table 4-7). -/
def execFmadd (d a b c : BitVec 5) (ty : FType) (rnd : Rnd) (s : State) : Out := fpFma false false d a b c ty rnd s

/-- fmsub (04 Table 4-7). -/
def execFmsub (d a b c : BitVec 5) (ty : FType) (rnd : Rnd) (s : State) : Out := fpFma false true d a b c ty rnd s

/-- fnmadd (04 Table 4-7). -/
def execFnmadd (d a b c : BitVec 5) (ty : FType) (rnd : Rnd) (s : State) : Out := fpFma true true d a b c ty rnd s

/-- fnmsub (04 Table 4-7). -/
def execFnmsub (d a b c : BitVec 5) (ty : FType) (rnd : Rnd) (s : State) : Out := fpFma true false d a b c ty rnd s

/-- fadd.s.c fd, fd, fs (03 Table 3-13). -/
def execFaddSC (d r : BitVec 5) (s : State) : Out := fpOp 2 fadd2 d d r .s .rne s

/-- fmul.s.c fd, fd, fs (03 Table 3-13). -/
def execFmulSC (d r : BitVec 5) (s : State) : Out := fpOp 2 fmul2 d d r .s .rne s

/-! ### Indexed register access (04 R104) -/

/-- The effective register number b + X(a), checked against 0 to 31. -/
def withIndex (a b : BitVec 5) (s : State) (k : BitVec 5 → Out) : Out :=
  withX a s fun x =>
    let e := BitVec.ofNat 64 b.toNat + x
    if e.toNat ≤ 31 then k (e.setWidth 5) else trap .regidx e s

/-- f[d] := f[e]. -/
def execFgetx (d a b : BitVec 5) (s : State) : Out :=
  withIndex a b s fun e => done 4 (onSlot s fun l => setF l d (fval s.slot e))

/-- f[e] := f[d]. -/
def execFputx (d a b : BitVec 5) (s : State) : Out :=
  withIndex a b s fun e => done 4 (onSlot s fun l => setF l e (fval s.slot d))

/-- x[d] := x[e]. A marked xa traps POISON before x[e], which only its value names, is looked at, also while x[e] is still awaited: 04 R110 does
not say (DESIGN CHOICE, log 81). -/
def execXgetx (d a b : BitVec 5) (s : State) : Out :=
  withIndex a b s fun e => withX e s fun v => done 4 (onSlot s fun l => setX l d v)

/-- x[e] := x[d]. -/
def execXputx (d a b : BitVec 5) (s : State) : Out :=
  withReady [d, a] s <| withX d s fun v => withIndex a b s fun e => done 4 (onSlot s fun l => setX l e v)

end Sys2Proof.Machine
end

