-- ==== Sys2Proof/Machine/LocalMem.lean ====
section
/-! DEFINITION. Local loads and stores (04 R90 to R94). -/

namespace Sys2Proof.Machine

/-- The effective address of the M format (04 R90). -/
def localEa (x : Word) (imm : BitVec 13) : Word := x + sext imm

/-- A local load of `w` bytes: `put` takes the number loaded (04 R93). -/
def loadOp (len : Word) (w : Nat) (put : Slot → Nat → Slot) (a : BitVec 5) (imm : BitVec 13) (s : State) : Out :=
  withX a s fun x =>
    let ea := localEa x imm
    let go : Nat → Out := fun off => inParts s off w (fun o n => (poolRead s n o, false)) fun r =>
      done len (onSlot s fun l => put l (leNat r.1))
    if secondPart s (bits ea.toNat 0 19) w then go (bits ea.toNat 0 19) else withLocal s ea w false go

/-- A local store of the `w` low bytes of `v` (04 R93, R94): it enters the store buffer. -/
def storeOp (len : Word) (w v : Nat) (a : BitVec 5) (imm : BitVec 13) (s : State) : Out :=
  withX a s fun x =>
    withLocal s (localEa x imm) w true fun off =>
      done len (onSlot s fun l => bufStore s.now l off (leBytes w v))

/-- `ld.size` sign-extends (04 R93). -/
def execLd (d a : BitVec 5) (imm : BitVec 13) (sz : Size) (s : State) : Out :=
  loadOp 4 (sizeBytes sz) (fun l v => setX l d (signLoad (sizeBytes sz) v)) a imm s

def execSt (d a : BitVec 5) (imm : BitVec 13) (sz : Size) (s : State) : Out :=
  withReady [d, a] s <| withX d s fun v => storeOp 4 (sizeBytes sz) v.toNat a imm s

/-- `fld.size` leaves 0 above the value (04 R93). -/
def execFld (d a : BitVec 5) (imm : BitVec 13) (sz : FSize) (s : State) : Out :=
  loadOp 4 (fsizeBytes sz) (fun l v => setF l d (BitVec.ofNat 64 v)) a imm s

def execFst (d a : BitVec 5) (imm : BitVec 13) (sz : FSize) (s : State) : Out :=
  storeOp 4 (fsizeBytes sz) (fval s.slot d).toNat a imm s

/-! ### Compact forms (03 Table 3-13) -/

def execLdDC (d r : BitVec 5) (s : State) : Out := loadOp 2 8 (fun l v => setX l d (signLoad 8 v)) r 0 s
def execLdWC (d r : BitVec 5) (s : State) : Out := loadOp 2 4 (fun l v => setX l d (signLoad 4 v)) r 0 s
def execStDC (d r : BitVec 5) (s : State) : Out := withReady [d, r] s <| withX d s fun v => storeOp 2 8 v.toNat r 0 s
def execStWC (d r : BitVec 5) (s : State) : Out := withReady [d, r] s <| withX d s fun v => storeOp 2 4 v.toNat r 0 s

end Sys2Proof.Machine
end

