-- ==== Sys2Proof/Machine/Outside.lean ====
section
/-! DEFINITION. What reaches the module from outside: host accesses, translations, links, ports, power, temperature, errors, the
egress bucket (09 R202 to R204; 21 R337, R339; 25 R390, R399, R401; 26 R404, R413, R414). -/

namespace Sys2Proof.Machine

/-! ### Translations (09 R203, R204) -/

/-- The least recently used translation leaves a full cache. -/
def evictPage (h : Hub) : Hub :=
  if h.atcOrder.length < 4096 then h
  else
    match h.atcOrder with
    | p :: t => { h with atc := serase h.atc p, atcOrder := t }
    | [] => h

/-- ATS_TRANSLATION_COMPLETE: the host answers for page State.arg.addr with host page State.arg.page and permissions, or refuses. A world that
is closing goes on (08 R179). -/
def execAtsTranslationComplete (s : State) : Out :=
  let p := s.arg.addr
  if s.hub.run = false then .next s
  else
    let h := { s.hub with atcOrder := s.hub.atcOrder.filter fun q => q != p }
    let h := evictPage h
    let s := { s with hub := { h with atc := sput h.atc p ⟨s.arg.page, s.arg.canRead, s.arg.canWrite⟩, atcOrder := h.atcOrder ++ [p] } }
    .next (closeMore s)

def send (s : State) (x : Sent) : State := { s with outbox := s.outbox ++ [x] }

/-! ### Accesses from outside that wait -/

/-- What comes over the host link in one order (09 R204; 11 R228). -/
def onHostLink (i : Instr) : Bool := i == .hostMemoryAccess || i == .hostAtomicop || i == .atsInvalidation

/-- Two accesses from outside that keep their order. -/
def ordered (i j : Instr) : Bool := onHostLink i == onHostLink j

/-- An access from outside, `run`, which answers none where it cannot be performed yet. It then waits in State.deferred behind those that came
before it, and none that keeps its order passes it; the first is tried again where State.arg.again. -/
def inOrder (i : Instr) (run : State → Option State) (s : State) : Out :=
  if s.arg.again then
    match s.deferred.find? fun p => ordered p.1 i with
    | some (j, a) => if j = i then .next ((run { s with arg := a, deferred := s.deferred.erase (j, a) }).getD s) else .next s
    | none => .next s
  else if s.deferred.any fun p => ordered p.1 i then .next { s with deferred := s.deferred ++ [(i, s.arg)] }
  else .next ((run s).getD { s with deferred := s.deferred ++ [(i, s.arg)] })

/-- The host link delivers (21 R337). -/
def hostLinkUp (s : State) : Bool := !linkShut s 104

/-! ### Invalidations (09 R204) -/

/-- The pages State.arg.len from State.arg.addr lose their translations: every access that used them has been performed. -/
def invalidate (s : State) : Option State :=
  let a := s.arg.addr
  let hit : Nat → Bool := fun p => a ≤ p && p < a + max 1 s.arg.len
  if hostLinkUp s = false then none
  else
    some { s with hub := { s.hub with atc := s.hub.atc.filter fun p => !hit p.1, atcOrder := s.hub.atcOrder.filter fun p => !hit p }
                  outbox := s.outbox ++ [.invalidated a] }

/-- ATS_INVALIDATION. -/
def execAtsInvalidation (s : State) : Out := inOrder .atsInvalidation invalidate s

/-! ### Host accesses (26 R404; 08 R181) -/

/-- A write of State.arg.data where State.arg.flag, else a read of State.arg.len bytes, at State.arg.addr. A cellar's intake or doorbell may hold
it up (23 R365). -/
def hostAccess (s : State) : Option State :=
  let a := s.arg.addr
  let n := if s.arg.flag then s.arg.data.length else s.arg.len
  if hostLinkUp s = false then none
  else if n = 0 then some s
  else if targetOk s 0 a n = false then some (send s (.unsupported a))
  else if s.arg.flag then if landBlocked s 0 a n then none else some (hostWrite s a s.arg.data)
  else some (send s (.completion a (hostRead s a n)))

/-- HOST_MEMORY_ACCESS. -/
def execHostMemoryAccess (s : State) : Out := inOrder .hostMemoryAccess hostAccess s

/-- PCIe AtomicOps: FetchAdd, Swap and CAS (10 Table 10-6). -/
def pcieAtomic (op : AtomOp) (sz : ASize) : Bool :=
  match op, sz with
  | .add, .q | .swap, .q => false
  | .add, _ | .swap, _ | .cas, _ => true
  | _, _ => false

/-- State.arg.op of size State.arg.sz at State.arg.addr with operands cmp and operand. -/
def hostAtomicop (s : State) : Option State :=
  let a := s.arg.addr
  let n := asizeBytes s.arg.sz
  if hostLinkUp s = false then none
  else if targetOk s 0 a n = false ∨ a % n ≠ 0 ∨ pcieAtomic s.arg.op s.arg.sz = false then some (send s (.unsupported a))
  else if landBlocked s 0 a n then none
  else
    let old := hostRead s a n
    let s := send s (.completion a old)
    if s.mem.anyPoison (memKey 0 a) n then some s
    else
      match atomicNew s.arg.op s.arg.sz (leNat old) s.arg.cmp s.arg.operand with
      | some v => some (hostWrite s a (leBytes n v))
      | none => some s

/-- HOST_ATOMICOP. -/
def execHostAtomicop (s : State) : Out := inOrder .hostAtomicop hostAtomicop s

/-! ### Links (21 R337; 26 R413) -/

def linkAt (s : State) (n : Nat) : Link := sget {} s.hub.links n

def setLink (s : State) (n : Nat) (l : Link) : State := { s with hub := { s.hub with links := sset {} s.hub.links n l } }

def setPort (s : State) (p : Nat) (f : Port → Port) : State :=
  { s with hub := { s.hub with ports := sset {} s.hub.ports p (f (sget {} s.hub.ports p)) } }

/-- The Skelser port that a link is. -/
def portOfLink (n : Nat) : Option Nat := if 8 ≤ n ∧ n < 104 then some (n - 8) else none

def setCxl (s : State) (p : Nat) (f : CxlPort → CxlPort) : State :=
  { s with hub := { s.hub with cxl := sset {} s.hub.cxl p (f (sget {} s.hub.cxl p)) } }

/-- A link is down, or up again: PORTSTAT and CXLSTAT follow. -/
def markDown (s : State) (n : Nat) (down : Bool) : State :=
  let s := setLink s n { linkAt s n with down := down }
  match portOfLink n with
  | some p => setPort s p fun x => { x with down := down }
  | none => if 105 ≤ n ∧ n < 113 then setCxl s (n - 105) fun x => { x with up := !down } else s

/-- A link or its port runs on one lane. -/
def markLane (s : State) (n : Nat) : State :=
  let s := setLink s n { linkAt s n with oneLane := true }
  match portOfLink n with
  | some p => setPort s p fun x => { x with oneLane := true }
  | none => s

/-- A link goes down: the packets on it are lost (21 R337). -/
def loseLink (s : State) (n : Nat) : State :=
  let lost := s.net.filter fun p => nextLink s 0 p.2 == some n && !(p.2.hop == .package && p.2.climb != 0)
  lost.foldl (fun t p => losePacket t p.1 p.2) (markDown s n true)

/-- LINK_FLIT_RECEIVE on link State.arg.link: flit number State.arg.value, its CRC good where State.arg.flag. -/
def execLinkFlitReceive (s : State) : Out :=
  let n := s.arg.link
  let l := linkAt s n
  let l := { l with next := max l.next (s.arg.value + 1) }
  if l.down = true ∨ l.nak = true ∨ s.arg.value ≠ l.expect then .next (setLink s n l)
  else if s.arg.flag then .next (setLink s n { l with expect := l.expect + 1 })
  else .next (setLink s n { l with nak := true })

/-- FLIT_REPLAY on link State.arg.link: it completes where State.arg.flag and the transmitter still keeps the flit; else the link
runs on one lane where State.arg.value is 1, and retrains otherwise. -/
def execFlitReplay (s : State) : Out :=
  let n := s.arg.link
  let l := linkAt s n
  if l.nak = false then .next s
  else if s.arg.flag = true ∧ l.next - l.expect ≤ 64 then .next (setLink s n { l with nak := false })
  else if s.arg.value = 1 then .next (markLane (setLink s n { l with nak := false }) n)
  else .next (loseLink s n)

/-- LINK_DOWN of link State.arg.link. -/
def execLinkDown (s : State) : Out := .next (loseLink s s.arg.link)

/-- A link is up again: both ends start from the flit that the receiver waits for. -/
def retrain (s : State) (n : Nat) : State :=
  let l := linkAt s n
  setLink (markDown s n false) n { l with down := false, nak := false, next := l.expect }

/-- LINK_RETRAIN_COMPLETE of link State.arg.link. -/
def execLinkRetrainComplete (s : State) : Out := .next (retrain s s.arg.link)

/-- LANE_LOSS of Skelser port State.arg.port (26 R413). -/
def execLaneLoss (s : State) : Out := if s.arg.port < 96 then .next (markLane s (8 + s.arg.port)) else .next s

/-! ### Packets at the ports (21 R339; 25 R390) -/

/-- The flow of a packet at a port of this device: source device and port, and port of arrival. -/
def flowOf (p : Packet) (port : Nat) : Nat :=
  let from0 := match p.hop with
    | .port k => k
    | _ => 0
  (p.srcDev.toNat * 2 ^ 16 + from0) * 96 + port

/-- The packet is for this device. -/
def forUs (s : State) (p : Packet) : Bool :=
  match p.dest with
  | .peer a => ownDevice s == some (bits a.toNat 46 16)
  | .reply _ => true
  | .issuer _ => ownDevice s == some (p.ofDev.getD p.srcDev).toNat
  | _ => false

def countDrop (s : State) (port : Nat) : State := setPort s port fun x => { x with drop := x.drop + 1 }

/-- A packet as it stands at the package switch when it has come in by a port: slots of this device are again its own. -/
def received (s : State) (port : Nat) (p : Packet) : Packet :=
  let dev := p.ofDev.getD p.srcDev
  { p with hop := .package, climb := 0, inPort := 32 + port, srcDie := 8, srcCl := 16, born := s.now, inbound := true, away := true
           ofDev := if some dev.toNat = ownDevice s then none else some dev }

/-- PORT_PACKET_RECEIVE: packet State.arg.packet arrives at Skelser port State.arg.port, whose link is up. -/
def execPortPacketReceive (s : State) : Out :=
  let port := s.arg.port
  match s.arg.packet with
  | none => .next s
  | some p =>
    if 96 ≤ port ∨ (linkAt s (8 + port)).down = true then .next s
    else if (ownDevice s).isNone = true ∨ inRoster s p.srcDev.toNat = false then .next (countDrop s port)
    else if forUs s p = false then .next s
    else
      let bad := modDie s (destDie s p % 8) fun d => { d with cipher := d.cipher + 1 }
      match worldOfKey s p.portKey with
      | none => .next bad
      | some w =>
        let k := flowOf p port
        match (if p.intact then (worldAt s w).bind fun x => admitCounter (sget ⟨0, []⟩ x.received k) p.seq else none) with
        | none => .next bad
        | some f =>
          let s := modWorld s w fun x => { x with received := sput x.received k f }
          .next (launch s (received s port p))

/-! ### The egress bucket (25 R399) -/

/-- Tokens for every microsecond since the last ones. -/
def gainTokens (now : Nat) (w : World) : World :=
  let us := 1000 * Config.nanosecond
  let n := (now - w.ticked) / us
  { w with tokens := min w.burst (w.tokens + n * w.rate), ticked := w.ticked + n * us }

/-- A packet that waits at the hub is tried again. -/
def retryPacket (s : State) (id : Nat) : State :=
  match sfind s.net id with
  | none => s
  | some p =>
    let (n, k) := cargoAccess p.cargo
    match landing s p n k with
    | .at0 pl => performPacket s id p pl
    | .refused d => dropStray s id p d
    | .stray d => dropStray s id p d

/-- Request `i` of a world still waits: a packet, a read of the debug path, a `cp.dec`, a record of a capsule, or zeros of the world. -/
def stillWaits (s : State) (w : World) (i : Nat) : Bool :=
  (sfind s.net i).isSome || w.scrubNo == some i || (s.deferred.any fun d => d.1 == .debugRead && d.2.copy == i)
    || (s.cores.any fun k => k.2.copies.any fun x => x.id == i && !x.dead) || s.hub.capsules.any fun c => c.2.waitNo == some i

/-- The packets of a world that wait and fit leave, in issue order; the others are tried again by what asked for them. -/
def releaseWaiting (s : State) (n : Nat) : State :=
  match worldAt s n with
  | none => s
  | some w =>
    let live := w.waiting.filter (stillWaits s w)
    live.foldl retryPacket (modWorld s n fun w => { w with waiting := live })

/-- EGRESS_TOKEN_TICK: every guarded world, and what is left of the close of one. -/
def execEgressTokenTick (s : State) : Out :=
  let ns := (s.hub.worlds.filter fun p => p.2.guarded).map fun p => p.1
  .next (closeMore (ns.foldl (fun t n => releaseWaiting (modWorld t n (gainTokens t.now)) n) s))

/-! ### TDISP, IDE, CXL (25 R401; 26 Table 26-1; 09 R202) -/

/-- TDISP_STATE_CHANGE: in RUN where State.arg.flag. -/
def execTdispStateChange (s : State) : Out := .next { s with hub := { s.hub with run := s.arg.flag } }

/-- IDE_KEY_PROGRAMMING of stream State.arg.stream, one of four. -/
def execIdeKeyProgramming (s : State) : Out :=
  if s.arg.stream < 4 then .next { s with hub := { s.hub with ideKeys := sput s.hub.ideKeys s.arg.stream s.arg.key } } else .next s

/-- CXL_LINK_STATE of port State.arg.port: up where State.arg.flag; the expander reports State.arg.value GiB. -/
def execCxlLinkState (s : State) : Out :=
  let n := 105 + s.arg.port
  if s.arg.port < 8 then
    .next (setCxl (if s.arg.flag then retrain s n else loseLink s n) s.arg.port fun x => { x with reports := s.arg.value })
  else .next s

/-- EXPANDER_FAILURE at port State.arg.port (09 R202). -/
def execExpanderFailure (s : State) : Out :=
  if s.arg.port < 8 then .next (setCxl s s.arg.port fun x => { x with failed := true }) else .next s

/-! ### Power and temperature (26 R414) -/

/-- The clock that a die runs at, in steps of 168.75 MHz. -/
def dieClock (d : Die) : Nat := if d.throttled then 8 else d.wanted

/-- A die changes; another clock that follows from it runs from the end of the cycle in hand on (26 R414). -/
def setClock (s : State) (d : Nat) (f : Die → Die) : State :=
  let c := dieCycles s d
  let e := nextCycle s d
  modDie s d fun x =>
    let y := f x
    if dieClock y = x.clock then y else { y with clock := dieClock y, cycles := c + 1, since := e }

/-- The hottest die. -/
def noteTemp (s : State) : State :=
  { s with hub := { s.hub with modTemp := (List.range 8).foldl (fun m d => max m (dieAt s d).temp) 0 } }

/-- POWER_LIMIT_CONTROL: module power reads State.arg.value W, that of die State.arg.die State.arg.len W; the die's clock goes down a
step while the module draws more than POWERLIM, and may go up one where State.arg.flag. -/
def execPowerLimitControl (s : State) : Out :=
  let s := { s with hub := { s.hub with modPower := s.arg.value } }
  let high := decide (s.hub.powerLim < s.arg.value)
  let up := s.arg.flag
  let w := s.arg.len
  .next (setClock s (s.arg.die % 8) fun x =>
    { x with power := w, wanted := if high then max 8 (x.wanted - 1) else if up then min 16 (x.wanted + 1) else x.wanted })

/-- Host memory alone. -/
def hostOnly {α : Type} (m : SMap α) (unit : Nat) : SMap α :=
  m.filter fun p => decide (memKey 2 0 ≤ unit * p.1 ∧ unit * p.1 < memKey 3 0)

/-- The module removes its own power, and device memory is lost. -/
def powerOff (s : State) : State :=
  let m := s.mem
  { s with powered := false, mem := { cells := hostOnly m.cells 1, poison := hostOnly m.poison 64, keys := hostOnly m.keys 64 } }

/-- The junction of die State.arg.die is at State.arg.value tenths of a degree: from 100 degrees on it is throttled, until it is below 95; at 115
the power goes (26 R414). -/
def junction (s : State) : State :=
  let t := s.arg.value
  if 1150 ≤ t then powerOff s
  else
    noteTemp (setClock s (s.arg.die % 8) fun x =>
      { x with temp := t, throttled := decide (1000 ≤ t) || (x.throttled && decide (950 ≤ t)) })

/-- THERMAL_THROTTLE. -/
def execThermalThrottle (s : State) : Out := .next (junction s)

/-- THERMAL_THROTTLE_END. -/
def execThermalThrottleEnd (s : State) : Out := .next (junction s)

/-- THERMAL_SHUTDOWN. -/
def execThermalShutdown (s : State) : Out := if s.arg.value < 1150 then .next s else .next (junction s)

/-! ### Soft errors (16 R269; 26 Table 26-1) -/

/-- What a memory error strikes: a granule of a pool, a tile of a slot's accumulator store, a granule of class State.arg.len. -/
def execSoftError (s : State) : Out :=
  let count : State → Nat → State := fun s d => modDie s d fun x => { x with softerr := x.softerr + 1 }
  let mark : State → Nat → State := fun s k => { s with mem := { s.mem with poison := sset false s.mem.poison (k / 64) true } }
  match s.arg.port with
  | 0 =>
    let c := s.arg.core
    let k := poolKey c s.arg.offset
    .next (count (strike (mark s k) c (meetsGranule c [k / 64])) (dieOf c))
  | 1 =>
    let i := s.arg.slot
    if s.arg.value < tileCount (getSlot s i) then
      let s' := modSlot s i fun l => { l with poisonTiles := sset false l.poisonTiles s.arg.value true }
      .next (count (strike s' i.core fun e => e.slot == i.slot && cmdTile e.cmd == s.arg.value) (dieOf i.core))
    else .next s
  | _ =>
    let cls := if s.arg.len = 3 then 3 else 0
    if targetOk s cls s.arg.addr 1 then .next (count (mark s (memKey cls s.arg.addr)) (memDie s cls s.arg.addr)) else .next s

end Sys2Proof.Machine
end

