-- ==== Sys2Proof/Machine/Manage.lean ====
section
/-! DEFINITION. BAR0 registers, the roster, firmware updates, the debug path, reset (09 R416; 21 R339, R346; 25 R384, R395, R400;
26 R405 to R413). -/

namespace Sys2Proof.Machine

/-! ### Reading registers (26 Tables 26-1 and 26-2) -/

/-- A guarded world is open (25 R400). -/
def guardedOpen (s : State) : Bool := s.hub.worlds.any fun w => w.2.guarded

/-- HSTATUS.DRAINED. -/
def isDrained (s : State) : Bool := s.hub.chains.isEmpty && s.hub.capsules.isEmpty && s.hub.worlds.isEmpty

/-- HSTATUS. -/
def hostStatus (s : State) : Nat :=
  let b : Bool → Nat → Nat := fun x i => if x then 2 ^ i else 0
  1 + b s.hub.run 1 + b (isDrained s) 2 + b (s.hub.rosterVersion != 0) 3 + b s.hub.update.isSome 4 + b (guardedOpen s) 5
    + b s.hub.withheld 6 + b s.hub.cfgrej 7

/-- CAPMAP as bytes. -/
def capmapBytes (s : State) : List Byte :=
  (List.range 256).map fun i => BitVec.ofNat 8 ((List.range 8).foldl (fun n j =>
    if s.hub.absent.contains (BitVec.ofNat 11 (8 * i + j)) then n else n + 2 ^ j) 0)

/-- PORTSTAT. -/
def portStat (p : Port) : Nat := p.drop.toNat + (if p.oneLane then 2 ^ 48 else 0) + if p.down then 2 ^ 49 else 0

/-- Register `i` of a die: eight counters, TEMP, POWER. -/
def dieRegister (d : Die) (i : Nat) : Nat :=
  match i with
  | 0 => d.stray.toNat | 1 => d.softerr.toNat | 2 => d.lifetime.toNat | 3 => d.cipher.toNat | 4 => d.overcount.toNat
  | 5 => d.timeout.toNat | 6 => d.tablefull.toNat | 7 => d.orphan.toNat | 8 => d.temp | 9 => d.power
  | _ => 0

/-- The 8 bytes of a longer register at an offset into it. -/
def partOf (bs : List Byte) (o : Nat) : Nat := leNat ((bs.drop o).take 8)

/-- The value of the doubleword at a register offset; every offset not listed reads 0 (log 27). -/
def registerValue (s : State) (o : Nat) : Nat :=
  let h := s.hub
  if o = 0x0000 then hostStatus s
  else if o = 0x0008 then Config.certAddr.toNat
  else if 0x0010 ≤ o ∧ o < 0x0030 then partOf (fwMeasure s) (o - 0x10)
  else if 0x0030 ≤ o ∧ o < 0x0130 then partOf (capmapBytes s) (o - 0x30)
  else if o = 0x0130 then h.physmap
  else if o = 0x0138 then h.spool
  else if o = 0x0140 then h.twait
  else if o = 0x0148 then h.powerLim
  else if 0x0150 ≤ o ∧ o < 0x0170 then partOf (leBytes 32 (h.fmkey.elim 0 fun k => k.toNat)) (o - 0x150)
  else if o = 0x0178 then h.rosterVersion.toNat
  else if o = 0x0180 then h.fwReg.toNat
  else if o = 0x0200 then h.jbase
  else if o = 0x0208 then h.jlog
  else if o = 0x0210 then h.jhead
  else if o = 0x0218 then h.jconsumed
  else if o = 0x0220 then h.rcptBase
  else if o = 0x0228 then h.rcptLog
  else if o = 0x0230 then h.rootAddr
  else if 0x1000 ≤ o ∧ o < 0x1800 then
    let r := ringAt s ((o - 0x1000) / 32)
    match (o - 0x1000) % 32 with
    | 0 => r.base | 8 => r.log | 16 => if r.on then 1 else 0
    | _ => 0
  else if 0x4000 ≤ o ∧ o < 0x4200 then
    let c : CxlPort := sget {} h.cxl ((o - 0x4000) / 64)
    match (o - 0x4000) % 64 with
    | 0 => (if c.on then 1 else 0) + c.capacity * 2 ^ 8
    | 8 => (if c.up then 1 else 0) + if c.failed then 2 else 0
    | _ => 0
  else if 0x8000 ≤ o ∧ o < 0x8800 then dieRegister (dieAt s ((o - 0x8000) / 256)) ((o - 0x8000) % 256 / 8)
  else if 0xA000 ≤ o ∧ o < 0xA300 then portStat (sget {} h.ports ((o - 0xA000) / 8))
  else if o = 0xA400 then h.modPower
  else if o = 0xA408 then h.modTemp
  else 0

/-- Registers that are not marked A in 26 Table 26-1. -/
def restricted (o : Nat) : Bool :=
  decide (o = 0x0170 ∨ o = 0x0180 ∨ (0x8000 ≤ o ∧ o < 0x8800 ∧ o % 256 < 80) ∨ (0xA000 ≤ o ∧ o < 0xA300))

/-- HOST_READ_WITHHELD (25 R400): the host reads the register at State.arg.addr. -/
def execHostReadWithheld (s : State) : Out :=
  let o := s.arg.addr / 8 * 8
  if restricted o = false ∨ guardedOpen s = false then .next (send s (.register o (registerValue s o)))
  else
    let recent := (sfind s.hub.withheldAt o).elim false fun t => decide (s.now < t + 1000000 * Config.nanosecond)
    let s := send { s with hub := { s.hub with withheld := true } } (.register o 0)
    if recent then .next s
    else
      .next (journal { s with hub := { s.hub with withheldAt := sput s.hub.withheldAt o s.now } }
        { code := 0x52, source := 0xFFFE, detail := o })

/-! ### Writing registers (26 R405) -/

/-- CFGREJ is set. -/
def refuseWrite (s : State) : State := { s with hub := { s.hub with cfgrej := true } }

/-- A field takes a value in its range; a drained-only field only while the module is drained. -/
def writeField (s : State) (drainedOnly ok : Bool) (f : Hub → Hub) : State :=
  if ok = false ∨ (drainedOnly = true ∧ isDrained s = false) then refuseWrite s else { s with hub := f s.hub }

/-! ### Bytes stay where they are (26 R406) -/

/-- Where each enabled CXL port begins in the class-1 map: port, first address, bytes. -/
def cxlMap (s : State) : List (Nat × Nat × Nat) :=
  (s.hub.cxl.foldl (fun (a : Nat × List (Nat × Nat × Nat)) p =>
    if p.2.on then (a.1 + p.2.capacity * 2 ^ 30, a.2 ++ [(p.1, a.1, p.2.capacity * 2 ^ 30)]) else a) (0, [])).2

/-- What a granule number of classes 0, 1 and 3 stands for: the group and the granule in it, or the CXL port and the granule in it. Numbers of
class 4 name what a port holds outside the map. -/
def physGranule (s : State) (g : Nat) : Option (Bool × Nat × Nat) :=
  let cls := 64 * g / 2 ^ 60
  let a := 64 * g % 2 ^ 60
  match cls with
  | 0 => some (false, a / 2 ^ 35, a % 2 ^ 35 / 64)
  | 1 => ((cxlMap s).find? fun p => p.2.1 ≤ a && a < p.2.1 + p.2.2).map fun p => (true, p.1, (a - p.2.1) / 64)
  | 3 => (poolGroups s)[a / 2 ^ 35]?.map fun k => (false, k, a % 2 ^ 35 / 64)
  | 4 => some (true, a / 2 ^ 52, a % 2 ^ 52 / 64)
  | _ => none

/-- The granule number under which it is reached. -/
def granuleOf (s : State) (p : Bool × Nat × Nat) : Nat :=
  match p with
  | (false, k, o) =>
    match (poolGroups s).findIdx? fun x => x == k with
    | some i => memKey 3 (i * 2 ^ 35 + 64 * o) / 64
    | none => memKey 0 (k * 2 ^ 35 + 64 * o) / 64
  | (true, q, o) =>
    match (cxlMap s).find? fun x => x.1 == q && decide (64 * o < x.2.2) with
    | some x => memKey 1 (x.2.1 + 64 * o) / 64
    | none => memKey 4 (q * 2 ^ 52 + 64 * o) / 64

/-- A granule taken out of memory. -/
def Memory.dropGranule (m : Memory) (g : Nat) : Memory :=
  { m with cells := m.cells.filter fun c => c.1 / 64 != g, poison := serase m.poison g, keys := serase m.keys g }

/-- A granule put where another key of the maps names it: its ciphertext stays (25 R389). -/
def Memory.putGranule (m from0 : Memory) (g h : Nat) : Memory :=
  let key := from0.keyAt (64 * g)
  { m with cells := putBytes m.cells (64 * h) (movedGranule key g h (from0.raws 64 (64 * g)))
           poison := sset false m.poison h (sget false from0.poison g), keys := sset .clear m.keys h key }

/-- Where the maps have changed from those of `old`, every byte stays in its group or behind its port, and is reached by its new address. -/
def keepBytes (old s : State) : State :=
  if s.hub.spool = old.hub.spool ∧ cxlMap s = cxlMap old then s else
  let new : Nat → Nat := fun g => ((physGranule old g).map (granuleOf s)).getD g
  let listed := (s.mem.cells.map fun c => c.1 / 64) ++ (s.mem.poison.map fun c => c.1) ++ s.mem.keys.map fun c => c.1
  let moved := listed.dedup.filter fun g => new g != g
  { s with mem := moved.foldl (fun m g => m.putGranule s.mem g (new g)) (moved.foldl Memory.dropGranule s.mem) }

/-- A ring register. -/
def writeRing (s : State) (n i v : Nat) : State :=
  let r := ringAt s n
  let put : Ring → Hub → Hub := fun r h => { h with rings := sset {} h.rings n r }
  match i with
  | 0 => writeField s false true (put { r with base := v })
  | 8 => writeField s false (decide (4 ≤ v ∧ v ≤ 16)) (put { r with log := v })
  | 16 => if v.testBit 1 && decide (n < 64) then resetOrWait s n (v % 2 == 1) else writeField s false true (put { r with on := v % 2 == 1 })
  | _ => s

/-- REGISTER_WRITE (26 R405): State.arg.value is written at State.arg.addr, a register without a row of its own. -/
def execRegisterWrite (s : State) : Out :=
  let o := s.arg.addr
  let v := s.arg.value % 2 ^ 64
  .next <|
    match o with
    | 0x0000 => { s with hub := { s.hub with cfgrej := s.hub.cfgrej && !v.testBit 7, withheld := s.hub.withheld && !v.testBit 6 } }
    | 0x0138 => keepBytes s (writeField s true (decide (v ≤ 31)) fun h => { h with spool := v })
    | 0x0140 => writeField s false (decide (10 ≤ v ∧ v ≤ 10000)) fun h => { h with twait := v }
    | 0x0148 => writeField s false (decide (1800 ≤ v ∧ v ≤ 3600)) fun h => { h with powerLim := v }
    | 0x0200 => writeField s true true fun h => { h with jbase := v }
    | 0x0208 => writeField s true (decide (10 ≤ v ∧ v ≤ 24)) fun h => { h with jlog := v }
    | 0x0220 => writeField s true true fun h => { h with rcptBase := v }
    | 0x0228 => writeField s true (decide (8 ≤ v ∧ v ≤ 20)) fun h => { h with rcptLog := v }
    | _ => if 0x1000 ≤ o ∧ o < 0x1800 then writeRing s ((o - 0x1000) / 32) ((o - 0x1000) % 32) v else s

/-- Bytes that the enabled CXL ports would have, with port `p` as given. -/
def cxlTotal (s : State) (p : Nat) (on : Bool) (cap : Nat) : Nat :=
  (List.range 8).foldl (fun n q =>
    let c : CxlPort := sget {} s.hub.cxl q
    n + if q = p then (if on then cap else 0) else if c.on then c.capacity else 0) 0

/-- CXL_PORT_CONFIG (26 R406): State.arg.value is written to CXLCTL of port State.arg.port. -/
def execCxlPortConfig (s : State) : Out :=
  let p := s.arg.port
  let on := s.arg.value.testBit 0
  let cap := bits s.arg.value 8 16
  if 8 ≤ p then .next s
  else
    let ok := decide (cxlTotal s p on cap ≤ 16384) && (!on || decide (cap ≤ (sget {} s.hub.cxl p : CxlPort).reports))
    .next (keepBytes s (writeField s true ok fun h =>
      { h with cxl := sset {} h.cxl p { (sget {} h.cxl p : CxlPort) with on := on, capacity := cap } }))

/-! ### The roster (21 R339; 26 R408) -/

/-- FMKEY_WRITE: State.arg.key. -/
def execFmkeyWrite (s : State) : Out :=
  match s.hub.fmkey with
  | some _ => .next (refuseWrite s)
  | none => .next { s with hub := { s.hub with fmkey := some s.arg.key } }

/-- An entry of a roster (21 Table 21-2). -/
def rosterEntry (bs : List Byte) : RosterEntry :=
  let v := leNat (bs.take 8)
  ⟨bits v 48 16, v.testBit 47, BitVec.ofNat 32 v⟩

/-- The roster at a BAR2 offset: its version and entries, if it verifies under FMKEY. -/
def readRoster (s : State) (a : Nat) : Option (Word × List RosterEntry) := do
  let key ← s.hub.fmkey
  let h ← readTarget s 0 a .clear 16
  let n := fieldOf h 0xA 2
  if n = 0 ∨ 4096 < n then none
  let m ← readTarget s 0 a .clear (16 + 8 * n)
  let sig ← readTarget s 0 (a + 16 + 8 * n) .clear 17088
  if Config.rosterVerifies key m sig then
    some (BitVec.ofNat 64 (fieldOf m 0 8), (List.range n).map fun i => rosterEntry (m.drop (16 + 8 * i)))
  else none

/-- ROSTER_INSTALL: State.arg.addr is written to ROSTERADDR. -/
def execRosterInstall (s : State) : Out :=
  match readRoster s s.arg.addr with
  | some (v, l) =>
    if s.hub.rosterVersion < v then .next { s with hub := { s.hub with rosterVersion := v, roster := l } }
    else .next (journal s { code := 0x54, source := 0xFFFF })
  | none => .next (journal s { code := 0x54, source := 0xFFFF })

/-! ### Firmware (25 R384; 26 R410, R411) -/

/-- Number of a target's controller image: 0 the hub, 1 + d die d. -/
def imageNo (target : Nat) : Nat := if target = 8 then 0 else target + 1

/-- FIRMWARE_UPDATE: State.arg.value is written to FWUPDATE; the image there is State.arg.len bytes long (log 28). -/
def execFirmwareUpdate (s : State) : Out :=
  let v := s.arg.value % 2 ^ 64
  let target := bits v 60 4
  if s.hub.update.isSome = true ∨ 8 < target then .next (refuseWrite s)
  else
    let s := { s with hub := { s.hub with fwReg := BitVec.ofNat 64 (target * 2 ^ 60 + bits v 0 40) } }
    let image := (readTarget s 0 (bits v 0 40) .clear s.arg.len).getD []
    let digest := digest256 image
    if Config.imageAccepted target image = false then
      .next (journal s { code := 0x56, source := 0xFFFF, detail := target, digest := digest16 (beBytes 32 digest.toNat) })
    else
      let (lo, hi) := Config.imageRange image
      let s := { s with hub := { s.hub with update := some ⟨target, ⟨digest, lo, hi⟩⟩ } }
      .next (if target = 8 then { s with hub := { s.hub with handles := [] } } else modDie s target fun d => { d with draining := true })

/-- The die's placed tile tasks have run to their exits. -/
def dieDrained (s : State) (d : Nat) : Bool :=
  (listedSlots s).all fun i => dieOf i.core != d || i.slot == 4 || !(match (getSlot s i).run with
    | .unbound | .exited => false
    | _ => true)

/-- Controllers `a` and `b` have a protocol version in common. -/
def haveCommon (s : State) (a b : Nat) : Bool :=
  decide (max (imageOf s a).protoMin (imageOf s b).protoMin ≤ min (imageOf s a).protoMax (imageOf s b).protoMax)

/-- FIRMWARE_RESTART: once its die has drained, the controller restarts on the new image and negotiates. -/
def execFirmwareRestart (s : State) : Out :=
  match s.hub.update with
  | none => .next s
  | some u =>
    if u.target ≠ 8 ∧ dieDrained s u.target = false then .next s
    else
      let n := imageNo u.target
      let s := { s with hub := { s.hub with images := sput s.hub.images n u.image, update := none } }
      let agreed := (List.range 9).all fun m => m == n || !(Config.sharesMailbox n m || Config.sharesMailbox m n) || haveCommon s n m
      if agreed then
        let s := if u.target = 8 then s else modDie s u.target fun d => { d with draining := false, out := false }
        .next (journal s { code := 0x55, source := 0xFFFF, detail := u.target, digest := digest16 (fwMeasure s) })
      else
        let s := if u.target = 8 then s else modDie s u.target fun d => { d with draining := false, out := true }
        .next (journal s { code := 0x57, source := 0xFFFF, detail := u.target, digest := digest16 (beBytes 32 u.image.digest.toNat) })

/-! ### The debug path (26 R409; 25 R399) -/

/-- Bytes that the debug path returns: a register where State.arg.flag, else device memory under the clear key. -/
def debugBytes (s : State) : List Byte :=
  if s.arg.flag then leBytes 8 (registerValue s (s.arg.addr / 8 * 8))
  else if targetOk s 0 s.arg.addr s.arg.len then hostRead s s.arg.addr s.arg.len else []

/-- Every open guarded world changes. -/
def modGuarded (s : State) (f : World → World) : State :=
  { s with hub := { s.hub with worlds := s.hub.worlds.map fun w => (w.1, if w.2.guarded then f w.2 else w.2) } }

/-- A read of the debug path: metered by the bucket of every open guarded world; it leaves with its tokens when it is the first of the requests,
as number State.arg.copy where it has waited. -/
def debugRead (s : State) : Option State :=
  let bs := debugBytes s
  let me := s.arg.copy
  let first : World → Bool := fun w => w.waiting.isEmpty || (s.arg.again && (w.waiting.head? == some me || !w.waiting.contains me))
  if s.hub.worlds.all fun w => !w.2.guarded || (first w.2 && decide (bs.length ≤ w.2.tokens)) then
    some (send (modGuarded s fun w => { w with tokens := w.tokens - bs.length, waiting := w.waiting.filter fun i => !s.arg.again || i != me })
      (.debug bs))
  else none

/-- DEBUG_READ: without tokens, or behind other requests, it waits in their order (25 R399; log 29). -/
def execDebugRead (s : State) : Out :=
  let wait : State := modGuarded (bump { s with deferred := s.deferred ++ [(.debugRead, { s.arg with copy := s.fresh })] }) fun w =>
    { w with waiting := w.waiting ++ [s.fresh] }
  if s.arg.again then
    match s.deferred.find? fun p => p.1 == .debugRead with
    | some (j, a) => .next ((debugRead { s with arg := { a with again := true }, deferred := s.deferred.erase (j, a) }).getD s)
    | none => .next s
  else if s.deferred.any fun p => p.1 == .debugRead then .next wait
  else .next ((debugRead s).getD wait)

/-! ### Reset (09 R416; 21 R346; 25 R390, R395) -/

/-- Contents of memory after the n-th reset: host memory as it was, every other byte that was written anything (log 2). -/
def lostCells (n : Nat) (m : SMap Byte) : SMap Byte :=
  m.filterMap fun p =>
    if memKey 2 0 ≤ p.1 ∧ p.1 < memKey 3 0 then some p
    else
      let b := Config.lostByte n p.1
      if b = unwritten then none else some (p.1, b)

/-- What a reset leaves: what is fused, wired or outside the module stays. -/
def afterReset (s : State) : State :=
  let n := s.resets + 1
  let t : State := { State.reset with
    mem := { cells := s.mem.cells, poison := s.mem.poison, keys := s.mem.keys }
    hub := { State.reset.hub with absent := s.hub.absent, physmap := s.hub.physmap, bootNonce := Config.bootNonce n
                                  ports := s.hub.ports.filterMap fun p => if p.2.down ∨ p.2.oneLane then some (p.1, { p.2 with drop := 0 }) else none
                                  links := s.hub.links }
    dies := s.dies.filterMap fun p => if p.2.throttled then some (p.1, { temp := p.2.temp, throttled := true, clock := 8 }) else none
    outbox := s.outbox, deferred := s.deferred, agenda := s.agenda, dwell := s.dwell, fresh := s.fresh, resets := n }
  let t := keepBytes s t
  { t with mem := { t.mem with cells := lostCells n t.mem.cells } }

/-- Boot puts the device certificate into device memory at CERTADDR, under the clear key (25 R383; log 78). -/
def putCertificate (s : State) : State := hostWrite s Config.certAddr.toNat certificate

/-- DEVICE_RESET: every register, sequence, time and cache as after reset; the boot nonce is drawn, the certificate is there, and the journal
starts with BOOT. -/
def execDeviceReset (s : State) : Out :=
  let s := putCertificate (afterReset s)
  .next (writeEntry s (bootEvent s))

end Sys2Proof.Machine
end

