-- ==== Sys2Proof/Machine/Pieces.lean ====
section
/-! DEFINITION. The copy engine: acceptance, pieces, count messages, `cp.dec`, subscriptions (18 R286 to R306). -/

namespace Sys2Proof.Machine

/-! ### Subscriptions that are over (18 R306) -/

/-- A subscription whose tile task has exited, or that has faulted, has nothing left to send: no tile is partly loaded, and every released one
is stored. -/
def subOver (c : Channel) (x : Copy) : Bool :=
  match c.sub with
  | none => true
  | some u =>
    x.served.isEmpty && (x.dead || c.state == .faulted ||
      (u.closing && decide (x.next % u.box = 0) && (u.dstBase == 0 || decide (u.released * u.box ≤ x.nextStore))))

/-- A copy counts among those in flight on its core (18 R287). -/
def inFlight (s : State) (c : CoreId) (x : Copy) : Bool :=
  !x.dead && !(x.form == .subscr && subOver (chanAt (getSlot s ⟨c, x.slot⟩) x.ch) x)

/-! ### Acceptance (18 R287) -/

/-- The slots in the order in which the engine looks at their queues. -/
def cpOrder (k : Core) : List Nat := (List.range 4).map fun i => (k.cpLast + 1 + i) % 4

/-- COPY_COMMAND_ACCEPT on core State.arg.core. -/
def execCopyCommandAccept (s : State) : Out :=
  let c := s.arg.core
  let k := coreOf s c
  if 1024 ≤ (k.copies.filter (inFlight s c)).length then .next s
  else
    match (cpOrder k).find? fun j => !(getSlot s ⟨c, j⟩).cpQueue.isEmpty with
    | none => .next s
    | some j =>
      match (getSlot s ⟨c, j⟩).cpQueue with
      | [] => .next s
      | x :: rest =>
        .next (modCore (modSlot s ⟨c, j⟩ fun l => { l with cpQueue := rest }) c fun k =>
          { k with copies := k.copies ++ [x], cpLast := j })

/-! ### Pieces (18 R286, R288, R299, R303, R304) -/

/-- Bytes to the end of the extent that covers a window address. -/
def extentRest (t : List RangeEntry) (a : Word) : Option Nat :=
  if spaceOf a = 0 then (rangeAt t a.toNat).map fun e => e.2.base + e.2.length - a.toNat else none

/-- Bytes of the piece that begins there (18 R299). -/
def pieceLength (t : List RangeEntry) (c : Cut) : Nat :=
  let n := min c.left (min (256 - c.src.toNat % 256) (256 - c.dst.toNat % 256))
  let n := (extentRest t c.src).elim n (min n)
  (extentRest t c.dst).elim n (min n)

/-- The place of a piece's source or destination, or the cause of its fault (18 Table 18-7). -/
def pieceResolve (s : State) (i : SlotId) (a : Word) (n : Nat) (k : Kind) : Except ChCause Place :=
  match spaceOf a with
  | 0 =>
    match translate (tableOf s i) a n k with
    | .ok p => .ok p
    | .error (.extent, _) => .error .extent
    | .error _ => .error .rights
  | 1 =>
    let c := namedCore a i.core
    let off := bits a.toNat 0 19
    match (getSlot s i).capsule with
    | some cap =>
      if sramFieldsOk a = true ∧ ((scratchHolder s c cap off n).isSome || leftScratch s i c off n) = true then .ok (.pool c off)
      else .error .rights
    | none => .error .rights
  | sp =>
    if inRoster s (bits a.toNat 46 16) = false then .error .peer
    else if sp = 2 ∧ (a.getLsbD 34 = true ∨ bits a.toNat 19 15 ≠ 0) then .error .rights
    else .ok (.peer a)

/-- The destinations of a piece: one, or one in each core of the set (18 R300). Pools are judged on arrival (09 R196). -/
def pieceDests (s : State) (i : SlotId) (x : Copy) (c : Cut) (n : Nat) : Except ChCause (List Place) :=
  if x.form = .mc then .ok ((coreSet x.dst).map fun k => .pool k c.dst.toNat)
  else if spaceOf c.dst = 1 ∧ sramFieldsOk c.dst = true then .ok [.pool (namedCore c.dst i.core) (bits c.dst.toNat 0 19)]
  else
    match pieceResolve s i c.dst n .store with
    | .ok p => .ok [p]
    | .error e => .error e

/-- The world of a slot's capsule. -/
def slotWorld (s : State) (i : SlotId) : Option World := (((getSlot s i).capsule.bind (capAt s)).map fun c => c.world).bind (worldAt s)

/-- What the checks that are made before a piece's bytes are sent say of a destination: a fault, a wait, or nothing. -/
def destCheck (s : State) (i : SlotId) (x : Copy) (die n : Nat) (p : Place) : Option (Option ChCause) :=
  if x.group.isSome = true ∧ (x.bind.elim false fun b => bindKey s p != some b) = true then some (some .group)
  else
    match p with
    | .mem 2 a _ =>
      if (slotWorld s i).elim false (fun w => w.guarded && w.rate == 0) then some (some .rights)
      else
        match atsView s .store a n with
        | .refused => some (some .ats)
        | .missing => some none
        | .ready =>
          if die = 8 ∧ ((slotWorld s i).elim false fun w => w.guarded && (!w.waiting.isEmpty || decide (w.tokens < n))) = true then
            some none
          else none
    | _ => none

/-- Bytes at a source with their poison, in parts that each lie in one granule of a destination at offset `d` (18 R299). -/
def granuleParts (s : State) (p : Place) (d n : Nat) : List (Nat × List Byte × Bool) :=
  let cuts := (List.range (n / 64 + 2)).map fun j => if j = 0 then 0 else 64 * j - d % 64
  (cuts.zip (cuts.drop 1 ++ [n])).filterMap fun r =>
    let lo := min r.1 n
    let hi := min r.2 n
    if lo < hi then
      let (bs, bad) := readPlace s (placeAdd p lo) (hi - lo)
      some (lo, bs, bad)
    else none

/-- One part of a piece goes to its destination (18 R286; 21 R347): performed at once where that is on the streamer's die and not named by this
device's number, which leads through the hub (09 R197). -/
def sendPart (s : State) (b : Bound) (p : Packet) : State :=
  let (n, k) := cargoAccess p.cargo
  let q := enterAt s b p
  let near : Packet := { q with hop := .spine, climb := 0 }
  let viaHub := match q.dest with | .peer _ => true | _ => false
  if leaves s q then launch s q
  else
    match landing s q n k with
    | .at0 pl =>
      if placeDie s pl = b.die ∧ b.die ≠ 8 ∧ viaHub = false then
        let here := match q.header, q.cargo with
          | some _, _ => onCounted s b.die q (.at0 pl)
          | none, .write d bad => if writeBlocked s pl n then none else some (performWrite s q pl d bad)
          | none, _ => some s
        here.getD (launch s near)
      else
        let q := { q with tier := if slotWrite s q then tierAt (.at0 pl) else 0 }
        launch (if q.tier = 0 then s else noteTier s s.fresh q) q
    | .refused d =>
      if d ≠ b.die ∨ viaHub = true then launch s q
      else if q.header.isSome then (onCounted s d q (.refused d)).getD (launch s near)
      else pieceFault (stray s d) q .rights
    | .stray _ => launch s q

/-- The destinations of a piece as they are asked of another device's streamer: the addresses of the issuer's program. A pool offset of `cp.mc`
beyond every pool stays one, and is refused on arrival. -/
def askedDests (x : Copy) (c : Cut) : List Word :=
  if x.form = .mc then (coreSet x.dst).map fun k => poolAddress k (min c.dst.toNat (2 ^ 19)) else [c.dst]

/-- Where the bytes for such an address go: back to the issuer's window space or pools, or to the device that it names (18 R288). -/
def askedDest (a : Word) : Dest := if spaceOf a < 2 then .issuer a else .peer a

/-- The counted header of a copy's packets: the group's sequence is that of the posting's departure (21 R344, R347). -/
def copyHeader (s : State) (i : SlotId) (x : Copy) : Option Word := x.group.map fun g => slotHeader s i g x.seq

/-- A subscription's racker may send its next piece, at byte index `b`, now (18 R304, R306). -/
def subAllows (c : Channel) (x : Copy) (b : Nat) : Bool :=
  match c.sub with
  | none => false
  | some u =>
    let t := b / u.box
    u.started &&
      if t < u.tiles then
        b == x.next && u.srcBase != 0 && (!u.closing || b % u.box != 0) && decide (t < u.released + u.slots)
          && (u.dstBase == 0 || decide (t < u.slots) || decide (u.box ≤ sget 0 u.stored (t - u.slots)))
      else b == u.tiles * u.box + x.nextStore && u.dstBase != 0 && decide (t - u.tiles < u.released)

/-- The command may send its piece at this byte index now: pieces are sent in increasing order (18 R299). -/
def pieceAllowed (s : State) (i : SlotId) (x : Copy) (b : Nat) : Bool :=
  !x.dead && !x.posted &&
    match x.form with
    | .dec => false
    | .subscr => subAllows (chanAt (getSlot s i) x.ch) x b
    | _ => b == x.next && decide (b < boxSize x.geom)

/-- A refusal of the host is reported once (09 R203). -/
def dropRefusal (s : State) (p : Place) (n : Nat) : State :=
  match p with
  | .mem 2 a _ => dropRefused s a n
  | _ => s

/-- A piece of `n` bytes at byte index `b` is in flight. -/
def sentPiece (s : State) (i : SlotId) (x : Copy) (b n : Nat) (remote : Bool) : State :=
  let store := match x.form, (chanAt (getSlot s i) x.ch).sub with
    | .subscr, some u => decide (u.tiles * u.box ≤ b)
    | _, _ => false
  modCopy s i.core x.id fun y =>
    { y with served := sput y.served b { len := n, remote := remote }
             next := if store then y.next else b + n
             nextStore := if store then y.nextStore + n else y.nextStore }

/-- A piece is sent to its streamer (18 R286, R299): where its source is of another device, as a request to it. -/
def sendPiece (s : State) (i : SlotId) (x : Copy) (b : Nat) : State :=
  let cut := copyCut s i x b
  let n := pieceLength (tableOf s i) cut
  match pieceResolve s i cut.src n .load, pieceDests s i x cut n with
  | .error e, _ => faultChannel s i x e
  | _, .error e => faultChannel s i x e
  | .ok (.peer a), .ok dsts =>
    match dsts.findSome? fun d => if x.group.isSome ∧ (x.bind.elim false fun k => bindKey s d != some k) then some ChCause.group else none with
    | some e => faultChannel s i x e
    | none =>
      let p := slotPacket s i (.piece a (askedDests x cut) n x.id b) (.peer a) .clear (copyHeader s i x) .cluster
      modCopy (sentPiece (launch s p) i x b n true) i.core x.id fun y => { y with farDie := true, farDev := true }
  | .ok _, .ok _ => sentPiece s i x b n false

/-- A streamer reads a piece that has been sent to it, and sends its bytes (18 R286). -/
def servePiece (s : State) (i : SlotId) (x : Copy) (b n : Nat) : State :=
  let cut := copyCut s i x b
  match pieceResolve s i cut.src n .load, pieceDests s i x cut n with
  | .error e, _ => loseBytes (faultChannel s i x e) i x.id b (copyWidth x * n)
  | _, .error e => loseBytes (faultChannel s i x e) i x.id b (copyWidth x * n)
  | .ok src, .ok dsts =>
    let ats := match src with
      | .mem 2 a _ => atsView s .load a n
      | _ => .ready
    let at0 := placeBound s src
    match ats, dsts.findSome? (destCheck s i x at0.die n) with
    | .missing, _ => s
    | .refused, _ => loseBytes (faultChannel (dropRefusal s src n) i x .ats) i x.id b (copyWidth x * n)
    | .ready, some (some e) =>
      loseBytes (faultChannel (if e = .ats then dsts.foldl (fun t d => dropRefusal t d n) s else s) i x e) i x.id b (copyWidth x * n)
    | .ready, some none => s
    | .ready, none =>
      let h := copyHeader s i x
      let far := dsts.any fun d => placeDie s d != dieOf i.core || placeDie s d != at0.die
      let s := modCopy (touchPlace s src n) i.core x.id fun y =>
        { y with served := y.served.map fun v => if v.1 = b then (b, { v.2 with read := true }) else v
                 farDie := y.farDie || far, farDev := y.farDev || dsts.any fun d => placeDie s d == 9 }
      dsts.zipIdx.foldl (fun t d => (granuleParts s src (placeOffset d.1) n).foldl (fun t r =>
        let (dest, key) := destOf (placeAdd d.1 r.1)
        sendPart t at0 { slotPacket t i (.write r.2.1 r.2.2) dest key h .cluster with
          piece := some (x.id, b + r.1, d.2), meter := some (b, n) }) t) s

/-- A piece that another device, or this one by its own number, asks of a streamer here (09 R197; 18 R286). -/
def serveForeign (s : State) (id : Nat) (p : Packet) : State :=
  match p.cargo with
  | .piece _ dsts n copy b =>
    if p.hop ≠ .target then s
    else if sealFails s p then dropSealed s id p
    else
      match landing s { p with header := none } n .load with
      | .at0 pl =>
        let ats := match pl with
          | .mem 2 a _ => atsView s .load a n
          | _ => .ready
        match ats with
        | .missing => seenAt (putPacket s id { p with flow := none }) p
        | .refused => stray (dropPacket s id) 0
        | .ready =>
          let base : Packet := { p with srcDev := BitVec.ofNat 16 ((ownDevice s).getD 0), inbound := false, flow := none }
          let seen : Copy → Copy := fun x => { x with served := x.served.map fun v => if v.1 = b then (b, { v.2 with read := true }) else v }
          let s := if p.ofDev.isNone then modCopy s p.src.core copy seen else s
          dsts.zipIdx.foldl (fun t d => (granuleParts s pl (d.1.toNat % 64) n).foldl (fun t r =>
            sendPart t (placeBound s pl)
              { base with cargo := .write r.2.1 r.2.2, dest := destAdd (askedDest d.1) r.1, piece := some (copy, b + r.1, d.2), meter := some (b, n) }) t)
            (touchPlace (dropPacket s id) pl n)
      | .refused d => stray (dropPacket s id) d
      | .stray d => stray (dropPacket s id) d
  | _ => s

/-- COPY_PIECE_SERVE: byte index State.arg.at0 of command State.arg.copy on core State.arg.core: its next piece is sent, or one that has been
sent is served; or, where State.arg.flag, the request of packet State.arg.pkt is. -/
def execCopyPieceServe (s : State) : Out :=
  if s.arg.flag then
    match sfind s.net s.arg.pkt with
    | some p => .next (arrived s.arg.pkt p (serveForeign s s.arg.pkt p))
    | none => .next s
  else
    match copyOn s s.arg.core s.arg.copy with
    | some x =>
      let i : SlotId := ⟨s.arg.core, x.slot⟩
      match sfind x.served s.arg.at0 with
      | some v => .next (if v.read || v.remote then s else servePiece s i x s.arg.at0 v.len)
      | none => .next (if pieceAllowed s i x s.arg.at0 then sendPiece s i x s.arg.at0 else s)
    | none => .next s

/-- Bytes that a count speaks of and that are bound for the pool of the channel's own core have not landed there yet: the count is taken after
them, so that the slot never finds less than its channel says (19 R312; log 76). -/
def notLanded (s : State) (i : SlotId) (id b j : Nat) : Bool :=
  s.net.any fun q => q.2.src == i && q.2.ofDev.isNone && q.2.piece == some (id, b, j) &&
    match q.2.dest with
    | .pool c _ => c == i.core
    | .issuer a => spaceOf a == 1 && namedCore a i.core == i.core
    | .peer a => namesUs s q.2 && spaceOf a == 2 && bits a.toNat 35 11 == i.core.toNat
    | _ => false

/-- CHANNEL_COUNT (18 R291): the count message of packet State.arg.pkt reaches the channel. -/
def execChannelCount (s : State) : Out :=
  match sfind s.net s.arg.pkt with
  | some p =>
    match p.cargo, p.dest with
    | .count id b n j, .reply i =>
      if p.hop ≠ .target ∨ notLanded s i id b j = true then .next s
      else if (admitFlow s p).isNone then .next (dropSealed s s.arg.pkt p)
      else .next (countBytes (arrived s.arg.pkt p (dropPacket s s.arg.pkt)) i id b n j)
    | _, _ => .next s
  | none => .next s

/-- COPY_PIECE_LOST (18 Table 18-7, LOST): the piece at byte index State.arg.at0 of command State.arg.copy on core State.arg.core. -/
def execCopyPieceLost (s : State) : Out :=
  match copyOn s s.arg.core s.arg.copy with
  | some x =>
    match sfind x.served s.arg.at0 with
    | some v =>
      if v.remote && v.left.elim false fun t => decide (t + 2 * Config.lifeMax ≤ s.now) then
        let i : SlotId := ⟨s.arg.core, x.slot⟩
        .next (loseBytes (faultChannel s i x .lost) i x.id s.arg.at0 (copyWidth x * v.len - v.got - v.gone))
      else .next s
    | none => .next s
  | none => .next s

/-! ### cp.dec (18 R302; 25 R402) -/

/-- The data key of a world (25 Table 25-1). -/
def dataKey (w : World) : List Byte := hkdf [] (beBytes 32 w.rootKey.toNat) ("T9 data".toList.map fun c => BitVec.ofNat 8 c.toNat) 32

/-- What the source of a `cp.dec` gives: its bytes and whether one is poisoned; a wait for a translation, or for another device or this one by
its own number; or a fault. -/
inductive DecRead where
  | got (bs : List Byte) (bad : Bool)
  | wait
  | far
  | fail (e : ChCause)

/-- A range of window space in parts that lie in one extent each (18 R299); `fuel` bounds their number. -/
def extentParts (t : List RangeEntry) : Nat → Word → Nat → List (Word × Nat)
  | 0, _, _ => []
  | fuel + 1, a, n =>
    let m := (extentRest t a).elim n (min n)
    if n = 0 then [] else (a, m) :: extentParts t fuel (a + BitVec.ofNat 64 m) (n - m)

/-- A place's bytes for a `cp.dec`: of host memory through its translations. -/
def decPlace (s : State) (p : Place) (n : Nat) : DecRead :=
  let r := readPlace s p n
  match p with
  | .mem 2 a _ =>
    match atsView s .load a n with
    | .refused => .fail .ats
    | .missing => .wait
    | .ready => .got r.1 r.2
  | _ => .got r.1 r.2

/-- One part of a `cp.dec`'s source. What another device holds is supplied as State.arg.data; this device under its own number answers from its
memory, or not at all (09 R197). -/
def decPart (s : State) (i : SlotId) (a : Word) (n : Nat) : DecRead :=
  match pieceResolve s i a n .load with
  | .error e => .fail e
  | .ok (.peer a) =>
    if some (bits a.toNat 46 16) = ownDevice s then
      match ownPlace s (getSlot s i).capsule a n .load with
      | some p => match decPlace s p n with
        | .fail _ => .far
        | r => r
      | none => .far
    else if s.arg.data.length = n then .got s.arg.data false
    else .far
  | .ok p => decPlace s p n

/-- The source of a `cp.dec` names this device by its own number. -/
def decOwn (s : State) (x : Copy) : Bool := decide (2 ≤ spaceOf x.src) && some (bits x.src.toNat 46 16) == ownDevice s

/-- The parts of a `cp.dec`'s source that are judged each by itself: pieces of at most 256 bytes of this device by its own number, as for any
copy, and the extents of window space (18 R286, R299). -/
def decParts (s : State) (i : SlotId) (x : Copy) (n : Nat) : List (Word × Nat) :=
  let t := tableOf s i
  if decOwn s x then
    let o := x.src.toNat % 256
    (List.range ((o + n + 255) / 256)).map fun j =>
      let lo := if j = 0 then 0 else 256 * j - o
      (x.src + BitVec.ofNat 64 lo, min n (256 * (j + 1) - o) - lo)
  else extentParts t (t.length + 1) x.src n

/-- Parts one behind the other: the first that gives no bytes decides. -/
def joinReads : List DecRead → DecRead
  | [] => .got [] false
  | .got bs bad :: t =>
    match joinReads t with
    | .got cs bad' => .got (bs ++ cs) (bad || bad')
    | r => r
  | r :: _ => r

/-- The ciphertext and tag of a `cp.dec`, `n` bytes (18 R302). -/
def decSource (s : State) (i : SlotId) (x : Copy) (n : Nat) : DecRead :=
  joinReads ((decParts s i x n).map fun p => decPart s i p.1 p.2)

/-- A class-2 page of a `cp.dec`'s source is used (09 R203). -/
def touchSource (s : State) (i : SlotId) (x : Copy) (n : Nat) : State :=
  (decParts s i x n).foldl (fun u p => match pieceResolve s i p.1 p.2 .load with
    | .ok (.peer a) => (ownPlace s (getSlot s i).capsule a p.2 .load).elim u fun pl => touchPlace u pl p.2
    | .ok pl => touchPlace u pl p.2
    | .error _ => u) s

/-- The dies that count the parts of a source by this device's own number whose checks fail (09 R197). -/
def decStrays (s : State) (i : SlotId) (x : Copy) (n : Nat) : List Nat :=
  if decOwn s x = false then []
  else
    (decParts s i x n).filterMap fun p =>
      match ((getSlot s i).capsule.bind (capAt s)).map fun c => peerLanding s c.world p.1 p.2 .load false with
      | some (.at0 pl) => match decPlace s pl p.2 with
        | .fail _ => some 0
        | _ => none
      | some (.refused d) | some (.stray d) => some d
      | none => none

/-- The source of a `cp.dec` has been asked of a device, which may never answer (18 Table 18-7, LOST): this one does not where a check fails. -/
def decAsk (s : State) (i : SlotId) (x : Copy) (n : Nat) : State :=
  if x.served.isEmpty then
    (decStrays s i x n).foldl stray
      (modCopy s i.core x.id fun y => { y with served := sput y.served 0 { len := x.geom.xlen, remote := true, left := some s.now } })
  else s

/-- The sequence word: it is translated through the capsule's extents; on the host it is a PCIe AtomicOp (10 R218). -/
def decWord (s : State) (i : SlotId) (x : Copy) : Except ChCause (Option Place) :=
  match translate (tableOf s i) x.geom.decseq 8 .atomic with
  | .error (.extent, _) => .error .extent
  | .error _ => .error .rights
  | .ok (.mem 2 a k) =>
    match atsView s .atomic a 8 with
    | .refused => .error .ats
    | .missing => .ok none
    | .ready => .ok (some (.mem 2 a k))
  | .ok p => .ok (some p)

/-- Plaintext, or zeros with a channel fault, at the destination: the bytes are performed on the streamer's die, and counted at once. The fault
comes with the count, so that the channel is never COMPLETE in between, and its event tells the zeros among the bytes (log 77). Poison of the
ciphertext marks either of them: 18 R302 does not say (DESIGN CHOICE, log 86). -/
def decFinish (s : State) (i : SlotId) (x : Copy) (dst : Place) (out : Except ChCause (List Byte)) (bad : Bool) : State :=
  let n := x.geom.xlen
  let far := placeDie s dst != dieOf i.core
  let s := modCopy s i.core x.id fun y => { y with farDie := far }
  match out with
  | .ok d => countBytes (writePlace s dst d bad) i x.id 0 n 0
  | .error e =>
    let first := (chanAt (getSlot s i) x.ch).state != .faulted
    let s := countBytes (markFault (writePlace s dst (List.replicate n 0) bad) i x e 0) i x.id 0 n 0
    if first then postEvent s i x.ch 1 else s

/-- The first half of DecCopy: the sequence word is read, and the message opened under it. -/
def decOpen (s : State) (i : SlotId) (x : Copy) (seqAt : Place) (bs : List Byte) (bad : Bool) : State :=
  let n := x.geom.xlen
  let (sb, sbad) := readPlace s seqAt 8
  let iv := leBytes 4 x.geom.decstream.toNat ++ leBytes 8 (leNat sb)
  let key := ((slotWorld s i).map dataKey).getD []
  let plain := gcmOpen key iv (leBytes 8 n) (bs.take n) (bs.drop n)
  let s := touchPlace (touchSource s i x (n + 16)) seqAt 8
  modCopy s i.core x.id fun y => { y with opened := some (if sbad then 2 ^ 64 else leNat sb, plain, bad) }

/-- The second half: the sequence word is compared and raised, in one access. A word that is poisoned holds no value read. -/
def decClose (s : State) (i : SlotId) (x : Copy) (dst seqAt : Place) (q : Nat) (plain : Option (List Byte)) (bad : Bool) : State :=
  match plain with
  | none => decFinish s i x dst (.error .tagfail) bad
  | some d =>
    let (sb, sbad) := readPlace s seqAt 8
    if sbad = false ∧ leNat sb = q then decFinish (writePlace s seqAt (leBytes 8 (q + 1)) false) i x dst (.ok d) bad
    else decFinish s i x dst (.error .replay) bad

/-- The number of a slot's world. -/
def slotWorldNo (s : State) (i : SlotId) : Option Nat := ((getSlot s i).capsule.bind (capAt s)).map fun c => c.world

/-- The compare-and-swap of a word in host memory leaves through the host link: the bucket of a guarded world lets its 8 bytes go (25 R399). A
message that fails its tag makes none. -/
def decMeter (s : State) (i : SlotId) (x : Copy) (seqAt : Place) (plain : Option (List Byte)) : Bool :=
  match seqAt, plain with
  | .mem 2 _ _, some _ => (slotWorld s i).elim true fun w => bucketLets w x.id 8
  | _, _ => true

/-- It takes them. -/
def decPay (s : State) (i : SlotId) (x : Copy) (seqAt : Place) (plain : Option (List Byte)) : State :=
  match seqAt, slotWorldNo s i, plain with
  | .mem 2 _ _, some w, some _ => modWorld s w (payBucket x.id 8)
  | _, _, _ => s

/-- It waits for them in issue order. -/
def decQueue (s : State) (i : SlotId) (x : Copy) : State := (slotWorldNo s i).elim s fun w => modWorld s w (joinBucket x.id)

/-- DEC_COPY: command State.arg.copy on core State.arg.core: the one half, then the other, between which others may write (18 R302). -/
def execDecCopy (s : State) : Out :=
  match copyOn s s.arg.core s.arg.copy with
  | none => .next s
  | some x =>
    let i : SlotId := ⟨s.arg.core, x.slot⟩
    let n := x.geom.xlen
    if x.form ≠ .dec ∨ x.dead = true ∨ (decOwn s x && !x.served.isEmpty) = true then .next s
    else if spaceOf x.dst ≠ 0 then .next (faultChannel s i x .rights)
    else
      match pieceResolve s i x.dst n .store, decWord s i x with
      | .error e, _ => .next (faultChannel s i x e)
      | .ok _, .error e => .next (faultChannel s i x e)
      | .ok _, .ok none => .next s
      | .ok dst, .ok (some seqAt) =>
        match dst with
        | .mem 0 _ _ | .mem 3 _ _ =>
          if writeBlocked s dst n || writeBlocked s seqAt 8 then .next s
          else
            match x.opened with
            | some (q, plain, bad) =>
              if decMeter s i x seqAt plain then .next (decClose (decPay s i x seqAt plain) i x dst seqAt q plain bad)
              else .next (decQueue s i x)
            | none =>
              match decSource s i x (n + 16) with
              | .fail e => .next (faultChannel s i x e)
              | .wait => .next s
              | .far => .next (decAsk s i x (n + 16))
              | .got bs bad => .next (decOpen s i x seqAt bs bad)
        | _ => .next (faultChannel s i x .rights)

/-! ### Subscriptions (18 R304, R306) -/

/-- The racker that holds a subscription: the slice of tile 0's first byte; 256 stands for a streamer of the hub. -/
def rackerOf (s : State) (i : SlotId) (u : Sub) : Nat :=
  let a := if u.srcBase = 0 then u.dstBase else u.srcBase
  match translate (tableOf s i) a 1 (if u.srcBase = 0 then .store else .load) with
  | .ok (.mem cls b _) => if cls = 0 ∨ cls = 3 then sliceOf s cls b else 256
  | _ => 256

/-- Subscriptions that a racker holds: those in flight that it has taken up. -/
def rackerLoad (s : State) (n : Nat) : Nat :=
  s.cores.foldl (fun k p =>
    let c : CoreId := BitVec.ofNat 11 p.1
    k + (p.2.copies.filter fun x => x.form == .subscr && inFlight s c x &&
      ((chanAt (getSlot s ⟨c, x.slot⟩) x.ch).sub.elim false fun u => u.started && rackerOf s ⟨c, x.slot⟩ u == n)).length) 0

/-- SUBSCRIPTION_START: command State.arg.copy on core State.arg.core. -/
def execSubscriptionStart (s : State) : Out :=
  match copyOn s s.arg.core s.arg.copy with
  | none => .next s
  | some x =>
    let i : SlotId := ⟨s.arg.core, x.slot⟩
    match (chanAt (getSlot s i) x.ch).sub with
    | some u =>
      let n := rackerOf s i u
      if u.started = true ∨ (n < 256 ∧ 32 ≤ rackerLoad s n) then .next s
      else .next (modChan s i x fun c => { c with sub := c.sub.map fun u => { u with started := true } })
    | none => .next s

/-- No matrix command or copy of the slot is left, so that the slot may be given away (04 R109). -/
def slotIdle (s : State) (i : SlotId) : Bool :=
  let l := getSlot s i
  let k := coreOf s i.core
  l.mxQueue.isEmpty && l.storeBuf.isEmpty && !(k.mxRun.any fun m => m.slot == i.slot) &&
    (l.cpQueue.all fun x => x.form == .subscr && subOver (chanAt l x.ch) x) &&
    (k.copies.filter fun x => x.slot == i.slot).all fun x =>
      (x.dead && x.served.isEmpty) || (x.form == .subscr && subOver (chanAt l x.ch) x)

/-- The copies of a slot that is given away are forgotten. -/
def clearCopies (s : State) (i : SlotId) : State :=
  modCore s i.core fun k => { k with copies := k.copies.filter fun x => x.slot != i.slot }

end Sys2Proof.Machine
end

