-- ==== Sys2Proof/Machine/Place.lean ====
section
/-! DEFINITION. The dispatcher: slots, runs of the pool, starting tile tasks, code verdicts (01 R20; 06 R116,
R118 to R120; 08 R170, R179, R183; 09 R190, R192; 26 R411). -/

namespace Sys2Proof.Machine

/-! ### Charges and ages (08 R183) -/

/-- DEFICIT_CHARGE (08 R183). -/
def execDeficitCharge (s : State) : Out := .next (chargeAll s)

/-- The effective priority after the time that a capsule has waited. -/
def agedPriority (s : State) (c : Capsule) : Nat := c.info.priority - (s.now - c.accepted) / (2000000 * Config.nanosecond)

/-- Every waiting capsule has its effective priority of now: one step for each full 2 ms. -/
def ageAll (s : State) : State :=
  let age : Capsule → Capsule := fun c => if waits c = true then { c with priority := agedPriority s c } else c
  { s with hub := { s.hub with capsules := s.hub.capsules.map fun p => (p.1, age p.2) } }

/-- PRIORITY_AGING (08 R183). -/
def execPriorityAging (s : State) : Out := .next (ageAll s)

/-! ### Where a tile task may go (06 R119; 09 R190; 26 R411) -/

/-- The slot has no tile task, and nothing of the last one goes on. -/
def slotFree (s : State) (i : SlotId) : Bool :=
  match (getSlot s i).run with
  | .unbound => true
  | .exited => slotIdle s i
  | _ => false

/-- Cores on which nothing is placed: fused off, or on a die that is drained or out (26 R411, R413). -/
def coreClosed (s : State) (c : CoreId) : Bool :=
  s.hub.absent.contains c || (dieAt s (dieOf c)).draining || (dieAt s (dieOf c)).out

/-- The slot is reserved for another capsule (08 R184, R186). -/
def reservedFrom (s : State) (cap : Nat) (priority : Nat) (i : SlotId) : Bool :=
  (s.hub.cohort.elim false fun r => r.1 != cap && priority != 0 && r.2.contains i) ||
    s.hub.freed.any fun r => r.1 == i && r.2 != cap

/-- Tile tasks of a capsule that are placed on a core. -/
def tasksOn (s : State) (cap : Nat) (c : CoreId) : Nat :=
  ((List.range 4).filter fun j => boundTo (getSlot s ⟨c, j⟩) cap).length

/-- Units `u` to `u + n - 1` of a core's pool are in no partition that is held. -/
def runFree (s : State) (c : CoreId) (n u : Nat) : Bool :=
  decide (u + n ≤ 120) && (List.range 4).all fun j =>
    let l := getSlot s ⟨c, j⟩
    slotFree s ⟨c, j⟩ || !overlaps (4096 * u) (4096 * n) l.partBase (partBytes l)

/-- The first unit of a run on a core: the one asked for if it is free, else the lowest. -/
def findRun (s : State) (c : CoreId) (n : Nat) (want : Option Nat) : Option Nat :=
  match want.filter (runFree s c n) with
  | some u => some u
  | none => (List.range 120).find? (runFree s c n)

/-- A member of a group may take slot `i`. -/
def memberOk (s : State) (cap : Nat) (c : Capsule) (i : SlotId) : Bool :=
  decide (i.slot < 4) && !coreClosed s i.core && slotFree s i && !reservedFrom s cap c.priority i
    && decide (tasksOn s cap i.core < c.info.threads)

/-- Member `k` of a group whose first slot is `lead`. -/
def memberAt (lead : SlotId) (k : Nat) : SlotId := ⟨lead.core + BitVec.ofNat 11 k, lead.slot⟩

/-- A group may be placed with its first member at `lead`. -/
def homeOk (s : State) (cap : Nat) (c : Capsule) (lead : SlotId) : Bool :=
  lead.core.toNat % c.info.gang == 0 && (List.range c.info.gang).all fun k =>
    let i := memberAt lead k
    memberOk s cap c i && (findRun s i.core (partUnits c.info.part) none).isSome

/-- Every place where a group of `g` could begin, in rising order. -/
def allHomes (g : Nat) : List SlotId :=
  (List.range (2048 / g)).flatMap fun b => (List.range 4).map fun j => ⟨BitVec.ofNat 11 (g * b), j⟩

/-- Where a group goes: the place asked for, if it is possible, else the first that is (log 15). -/
def findHome (s : State) (cap : Nat) (c : Capsule) (want : Option SlotId) : Option SlotId :=
  match want.filter (homeOk s cap c) with
  | some i => some i
  | none => (allHomes c.info.gang).find? (homeOk s cap c)

/-! ### Starting a tile task (01 R20; 06 R118, R120; 09 R192) -/

/-- Tile coordinates of a linear index (06 R118). -/
def tileOf (r : Record) (n : Nat) : Nat × Nat × Nat :=
  (n % r.tiles.1, n / r.tiles.1 % r.tiles.2.1, n / (r.tiles.1 * r.tiles.2.1))

/-- Extents of the tile in elements (06 R118). -/
def extOf (r : Record) (t : Nat × Nat × Nat) : Nat × Nat × Nat :=
  let f : Nat → Nat → Nat → Nat := fun tile tensor k => min tile (tensor - k * tile)
  (f r.tileDims.1 r.tensor.1 t.1, f r.tileDims.2.1 r.tensor.2.1 t.2.1, f r.tileDims.2.2 r.tensor.2.2 t.2.2)

/-- The window base of the argument extent, under ARGEXTENT. -/
def argWindow (r : Record) : Option Nat :=
  if r.flags.getLsbD 3 then (r.extents[fieldOf r.args 0 2]?).map Extent.base else none

/-- The slot's record at the start of the tile task of linear index `n` (01 R20, 06 R118). -/
def taskSlot (s : State) (cap : Nat) (c : Capsule) (i : SlotId) (base n : Nat) : Slot :=
  let r := c.info
  let t := tileOf r n
  let l : Slot :=
    { pc := r.code + BitVec.ofNat 64 r.entry, tile := t, ext := extOf r t, capPos := c.pos
      worldPos := ((worldAt s c.world).map World.openPos).getD 0, part := r.part, startTime := dieCycles s (dieOf i.core)
      boundAt := s.now, run := .running, capsule := some cap, linear := n, task := s.fresh, partBase := base
      groups := (leaveGroups s.now (getSlot s i)).groups }
  let arg := match argWindow r with
    | some a => BitVec.ofNat 64 a
    | none => argAddress l
  openRegion 1 true { l with x := sset 0 [] 1 arg }

/-- The core's extent table for the capsule (09 R198). -/
def loadTables (s : State) (cap : Nat) (c : Capsule) (k : CoreId) : State :=
  modCore s k fun x => { x with ranges := sput x.ranges cap (rangeTable c.payload c.info) }

/-- The partitions with which capsules of other worlds used a slot are zeroed before it is used again (08 R179). -/
def zeroOld (s : State) (world : Nat) (i : SlotId) : State :=
  (s.hub.worlds.filter fun w => w.1 != world).foldl (fun t w => (w.2.used.filter fun u => u.1 == i).foldl (fun t u =>
    { t with mem := t.mem.zeroBut (otherRuns t i) (poolKey i.core u.2.1) u.2.2 }) t) s

/-- Slot `i` is given to a tile task of the capsule with its partition at pool offset `base`, which is zeroed. -/
def takeSlot (s : State) (cap : Nat) (c : Capsule) (i : SlotId) (base : Nat) : State :=
  let s := zeroOld (clearCopies s i) c.world i
  let bytes := 4096 * partUnits c.info.part
  let s := { s with mem := s.mem.zero (poolKey i.core base) bytes }
  let s := loadTables s cap c i.core
  modWorld s c.world fun w => if w.used.contains (i, base, bytes) then w else { w with used := w.used ++ [(i, base, bytes)] }

/-- A tile task starts (01 R20). -/
def startTask (s : State) (cap : Nat) (c : Capsule) (i : SlotId) (base n : Nat) : State :=
  let s := takeSlot s cap c i base
  let l := taskSlot s cap c i base n
  let s := bump (setSlot s i l)
  if (argWindow c.info).isSome then s
  else { s with mem := s.mem.pokes (byteMap (poolKey i.core (scratchBase l)) c.info.args) }

/-- Group `j` starts with its first member at `lead`; `pools` are the units asked for. -/
def startGroup (s : State) (cap : Nat) (c : Capsule) (lead : SlotId) (pools : List Nat) (j : Nat) : State :=
  (List.range c.info.gang).foldl (fun s k =>
    let i := memberAt lead k
    let u := (findRun s i.core (partUnits c.info.part) pools[k]?).getD 0
    startTask s cap c i (4096 * u) (c.info.gang * j + k)) s

/-! ### Code verdicts (08 R170) -/

/-- Everything of a slot's tile task is stopped: engine commands, locks, copies, staged messages. -/
def killSlot (s : State) (i : SlotId) : State :=
  let s := dropStaged s i.core (i.slot, (getSlot s i).task)
  modCore s i.core fun k =>
    { k with locks := k.locks.filter fun l => l.slot != i.slot, mxRun := k.mxRun.filter fun m => m.slot != i.slot
             copies := k.copies.filter fun x => x.slot != i.slot }

/-- The tile tasks and activations of a capsule are stopped, and their partitions zeroed. -/
def killCapsule (s : State) (n : Nat) : State :=
  let s := (activations s n).foldl (fun t i => setSlot t i {}) s
  (capsuleSlots s n).foldl (fun t i => freeSlot (killSlot t i) i) s

/-- The verdict is that the code is the record's: the code cache takes it in, the oldest entry leaving a full one (log 24). -/
def cacheCode (s : State) (c : Capsule) : State :=
  match codeExtent c.info with
  | some e =>
    modWorld s c.world fun w =>
      let l := if w.code.length < 64 then w.code else w.code.drop 1
      { w with code := l ++ [⟨targetForm e.cls e.target, e.length, c.info.digest⟩] }
  | none => s

/-- The code hashes to the record's digest. -/
def codeMatches (s : State) (c : Capsule) : Bool :=
  (codeExtent c.info).elim false fun e => digest256 (extentBytes s c 64 e) == c.info.digest

/-- The whole code extent is at hand. -/
def codeGathered (c : Capsule) : Bool := (codeExtent c.info).elim true (isGathered c 64)

/-- Capsule `n` gathers its code. -/
def gatherCode (s : State) (n : Nat) : State :=
  ((capAt s n).bind fun c => codeExtent c.info).elim s (gatherExtent s n 64)

/-- CODE_VERDICT (08 R170) of capsule State.arg.cap. -/
def execCodeVerdict (s : State) : Out :=
  let n := s.arg.cap
  match capAt s n with
  | none => .next s
  | some c =>
    if c.verdict = false ∨ c.status = .queued then .next s
    else
      let s := gatherCode s n
      match capAt s n with
      | none => .next s
      | some c =>
        if codeGathered c = false then .next s
        else if codeMatches s c then
          .next (cacheCode (modCap s n fun c => { c with verdict := false, gathered := serase c.gathered 64 }) c)
        else
          let s := killCapsule (chargeAll s) n
          let s := journal s (capsuleEvent c 0x28 0)
          let s := modWorld s c.world fun w => { w with ends := w.ends ||| 4 }
          .next (removeCapsule s n)

end Sys2Proof.Machine
end

