-- ==== Sys2Proof/Machine/Park.lean ====
section
/-! DEFINITION. Park records and fault records: their bytes, and slots restored from them (20 R315, R316, R329, R330, R333). -/

namespace Sys2Proof.Machine

def pad (n : Nat) : List Byte := List.replicate n 0

/-- `bs` cut or filled with zeros to `n` bytes. -/
def fit (n : Nat) (bs : List Byte) : List Byte := (bs ++ pad (n - bs.length)).take n

def wordBytes (w : Word) : List Byte := leBytes 8 w.toNat

/-! ### Where spilled locations lie (01 R16; 04 R84; 09 R191; log 25) -/

/-- Columns that the stack needs: column k of the spill map holds locations 8 k to 8 k + 7. -/
def spilledColumns (l : Slot) : List (Nat × Nat) := l.spill.take (spillNeed l l.wbase l.calls.length)

/-- The first location of the on-core window file. -/
def fileBase (l : Slot) : Nat := l.wbase + 24 - 64

def location (l : Slot) (k : Nat) : Word := sget 0 l.x (k + 8)

/-- Entry `k` of the window file: location W + 24 - 64 + k, 0 where there is none. -/
def fileWord (l : Slot) (k : Nat) : Word := if l.wbase + k < 40 then 0 else location l (l.wbase + k - 40)

/-- The call records, oldest first. -/
def oldCalls (l : Slot) : List CallRec := l.calls.reverse

/-- The window backing: spilled locations from its first byte, spilled call records up to its last (log 25). -/
def backingImage (l : Slot) : List Byte :=
  let lo := 8 * (spilledColumns l).length
  let locs := (List.range (fileBase l - lo)).flatMap fun i => wordBytes (location l (lo + i))
  let recs := ((oldCalls l).take (l.calls.length - 16)).reverse.flatMap fun c => wordBytes c.ret ++ leBytes 8 c.k
  fit (backingBytes l - recs.length) locs ++ recs

/-- The word at (row, column) of a tile as the accumulator store holds it: spilled locations lie in tile rows. -/
def storeRow (l : Slot) (tile row : Nat) : List Byte :=
  match (spilledColumns l).zipIdx.find? fun c => c.1 == (tile, row) with
  | some c => (List.range 8).flatMap fun j => wordBytes (location l (8 * c.2 + j))
  | none => (List.range 16).flatMap fun j => leBytes 4 (sget 0 l.tiles (256 * tile + 16 * row + j)).toNat

def storeImage (l : Slot) : List Byte :=
  (List.range (tileCount l)).flatMap fun t => (List.range 16).flatMap fun r => storeRow l t r

/-! ### Channels (20 Table 20-9) -/

def formCode : CopyForm → Nat
  | .cp => 0 | .mc => 1 | .dec => 2 | .subscr => 3

def formOf (n : Nat) : CopyForm := if n = 1 then .mc else if n = 2 then .dec else if n = 3 then .subscr else .cp

def causeOf (n : Nat) : ChCause :=
  match n with
  | 1 => .extent | 2 => .rights | 3 => .ats | 4 => .range | 5 => .tagfail | 6 => .replay | 7 => .lost | 8 => .group | _ => .peer

def geometryBytes (g : Geometry) : List Byte :=
  leBytes 8 g.xlen ++ leBytes 8 (g.zcnt * 2 ^ 16 + g.ycnt) ++ leBytes 8 g.sstride.toNat ++ leBytes 8 g.spstride.toNat
    ++ leBytes 8 g.dstride.toNat ++ leBytes 8 g.dpstride.toNat ++ leBytes 8 g.decstream.toNat ++ wordBytes g.decseq

def geometryOf (bs : List Byte) : Geometry :=
  let s : Nat → BitVec 48 := fun i => BitVec.ofNat 48 (fieldOf bs (8 * i) 8)
  { xlen := fieldOf bs 0 8, ycnt := fieldOf bs 8 8 % 2 ^ 16, zcnt := fieldOf bs 8 8 / 2 ^ 16, sstride := s 2, spstride := s 3
    dstride := s 4, dpstride := s 5, decstream := BitVec.ofNat 32 (fieldOf bs 48 8), decseq := BitVec.ofNat 64 (fieldOf bs 56 8) }

/-- A descriptor as 18 Table 18-9 lays it out. -/
def descriptorBytes (u : Sub) (ev : Bool) : List Byte :=
  wordBytes u.srcBase ++ wordBytes u.srcStep ++ wordBytes u.dstBase ++ wordBytes u.dstStep ++ leBytes 4 u.tiles ++ leBytes 2 u.slots
    ++ leBytes 2 ev.toNat ++ leBytes 4 u.slotSize ++ pad 20

/-- The channel's entry; `x` is the command that a subscription's geometry stands in. -/
def channelBytes (c : Channel) (x : Option Copy) : List Byte :=
  let f := c.fault
  let g := match f, x with
    | some f, _ => f.geom
    | none, some x => x.geom
    | none, none => { xlen := 0, ycnt := 0, zcnt := 0 }
  let (dst, src) : Word × Word := match f, c.sub with
    | some f, _ => (f.dst, f.src)
    | none, some u => (BitVec.ofNat 64 u.ring, u.srcBase)
    | none, none => (0, 0)
  leBytes 4 c.base ++ leBytes 4 c.length ++ leBytes 8 c.expected ++ leBytes 8 c.arrived ++ leBytes 1 (chStateCode c.state)
    ++ leBytes 1 c.ev.toNat ++ leBytes 1 (f.elim 0 fun f => chCauseCode f.cause) ++ leBytes 1 (f.elim (if c.sub.isSome then 3 else 0) fun f => formCode f.form)
    ++ leBytes 4 (watermark c) ++ leBytes 4 (f.elim 0 fun f => f.offset) ++ leBytes 4 (c.sub.elim 0 fun u => u.released)
    ++ wordBytes dst ++ wordBytes src ++ pad 8 ++ geometryBytes g ++ fit 64 (c.sub.elim [] fun u => descriptorBytes u c.ev) ++ pad 320

/-- The channels as if the discarded region had issued no command (20 R328 step 4). -/
def channelsOf (s : State) (i : SlotId) : List Byte :=
  let l := getSlot s i
  let all := l.cpQueue ++ (coreOf s i.core).copies.filter fun x => x.slot == i.slot
  (List.range 16).flatMap fun ch => channelBytes (sget {} l.shadow ch) (all.find? fun x => x.ch == ch && x.form == .subscr)

/-! ### Slot records (20 Tables 20-2 and 20-8) -/

def loopFields (o : Option Loop) : Word × Word × Word := o.elim (0, 0, 0) fun p => (p.cnt, p.start, p.stop)

/-- The control block of a region whose inputs are restored. -/
def controlBytes (l : Slot) : List Byte :=
  let (c0, s0, e0) := loopFields l.outer
  let (c1, s1, e1) := loopFields l.inner
  wordBytes l.pc ++ leBytes 2 l.region.mask.toNat ++ leBytes 2 l.wbase ++ leBytes 4 l.calls.length ++ wordBytes l.draws
    ++ wordBytes c0 ++ wordBytes c1 ++ wordBytes s0 ++ wordBytes e0 ++ wordBytes s1 ++ wordBytes e1
    ++ leBytes 1 (l.outer.isSome.toNat + 2 * l.inner.isSome.toNat) ++ leBytes 1 (l.group.getD 16) ++ pad 6 ++ pad 16
    ++ wordBytes l.trCause ++ wordBytes l.trPc ++ wordBytes l.trValue ++ pad 8

/-- Bits of a list of truths, the first in bit 0. -/
def packBits (bs : List Bool) : Nat := bs.foldr (fun b n => b.toNat + 2 * n) 0

def marked (l : Slot) (k : Nat) : Bool := (sfind l.xPoison k).isSome

/-- An event-queue entry in the layout of 07 Table 7-12. -/
def eventBytes (e : EvEntry) : List Byte := leBytes 8 (2 ^ 63 + e.kind * 2 ^ 40 + e.bytes % 2 ^ 32 * 2 ^ 8 + e.ch)

/-- A release group (21 Table 21-5). -/
def groupBytes (g : Group) : List Byte :=
  let (die, dev) : Nat × Nat := match g.bind with
    | some (dev, some die) => (die + 1, dev)
    | some (dev, none) => (9, dev)
    | none => (0, 0)
  leBytes 1 die ++ leBytes 1 g.seq ++ leBytes 2 dev ++ pad 4 ++ leBytes 8 g.bytes

def isAsleep (r : Run) : Bool := match r with | .stopped b => b | _ => false

/-- SLOTSIZE of a partition word (20 R330). -/
def slotSize (w : Word) : Nat := 0x2C00 + 4096 * (bits w.toNat 0 8 + bits w.toNat 8 8 + bits w.toNat 16 8)

/-- The partition image: register store with the checkpoint area zeroed, scratchpad, accumulator store. -/
def partitionBytes (s : State) (i : SlotId) : List Byte :=
  let l := getSlot s i
  ((List.range 32).flatMap fun n => leBytes 64 (sget 0 l.v n).toNat) ++ pad 2048 ++ backingImage l
    ++ s.mem.raws (scratchSize l) (poolKey i.core (scratchBase l)) ++ storeImage l

/-- The record of a slot whose region's inputs are restored (20 Table 20-8). -/
def slotBytes (s : State) (i : SlotId) : List Byte :=
  let l := getSlot s i
  let flags := packBits [isAsleep l.run, l.latchBit, l.run == .faulted, l.evLost]
  leBytes 8 l.linear ++ leBytes 1 flags ++ leBytes 1 (l.gangPos * 16 + l.gangSize) ++ leBytes 1 l.evq.length
    ++ leBytes 1 l.inbox.length ++ leBytes 4 l.partBase ++ controlBytes l
    ++ ((List.range 7).flatMap fun n => wordBytes (sget 0 l.x (n + 1)))
    ++ leBytes 8 (packBits ((List.range 7).map fun n => marked l (n + 1)))
    ++ leBytes 8 (packBits ((List.range 64).map fun k => decide (40 ≤ l.wbase + k) && marked l (l.wbase + k - 32))) ++ pad 40
    ++ ((List.range 32).flatMap fun n => wordBytes (sget 0 l.f n)) ++ ((List.range 7).flatMap fun n => wordBytes (sget 0 l.m (n + 1)))
    ++ pad 8 ++ fit 64 ((spilledColumns l).flatMap fun c => leBytes 2 (0x8000 + c.1 * 16 + c.2))
    ++ ((List.range 64).flatMap fun k => wordBytes (fileWord l k))
    ++ fit 256 (((oldCalls l).drop (l.calls.length - 16)).flatMap fun c => wordBytes c.ret ++ leBytes 8 c.k)
    ++ leBytes 8 l.astride ++ leBytes 8 l.bstride ++ leBytes 8 l.cstride ++ geometryBytes l.geom ++ fit 64 (l.evq.flatMap eventBytes)
    ++ pad 40 ++ fit 1024 (l.inbox.flatMap fun m => leBytes 64 m.toNat)
    ++ ((List.range 16).flatMap fun g => groupBytes (sget {} l.groups g)) ++ pad 192 ++ channelsOf s i ++ partitionBytes s i

/-! ### Restoring a slot (20 R333) -/

/-- Words at `o` as map entries from key `k`. -/
def readWords (bs : List Byte) (o n k : Nat) (m : SMap Word) : SMap Word :=
  (List.range n).foldl (fun m i => sset 0 m (k + i) (BitVec.ofNat 64 (fieldOf bs (o + 8 * i) 8))) m

def loopOf (on : Bool) (cnt start stop : Nat) : Option Loop :=
  if on then some ⟨BitVec.ofNat 64 start, BitVec.ofNat 64 stop, BitVec.ofNat 64 cnt⟩ else none

/-- Call records, youngest first, from records in the order of rising age. -/
def callsOf (bs : List Byte) (n : Nat) : List CallRec :=
  (List.range n).map fun i => ⟨BitVec.ofNat 64 (fieldOf bs (16 * i) 8), fieldOf bs (16 * i + 8) 8⟩

/-- A release group of a record with the times of the slot that it goes to (21 R346). -/
def groupOf (bs : List Byte) (old : Group) : Group :=
  let die := fieldOf bs 0 1
  let dev := fieldOf bs 2 2
  { bind := if die = 0 then none else if 8 < die then some (dev, none) else some (dev, some (die - 1))
    bytes := fieldOf bs 8 8 % 2 ^ 37, seq := fieldOf bs 1 1 % 16, last := old.last }

/-- The tiles of an accumulator store whose spilled rows belong to the window stack. -/
def tilesOf (bs : List Byte) (tiles : Nat) (spill : List (Nat × Nat)) : SMap (BitVec 32) :=
  (List.range (16 * tiles)).foldl (fun m r =>
    if spill.contains (r / 16, r % 16) then m
    else (List.range 16).foldl (fun m j => sset 0 m (16 * r + j) (BitVec.ofNat 32 (fieldOf bs (64 * r + 4 * j) 4))) m) []

/-- The bytes of the tiles from `lo` on when the first `n` bytes of all tiles have been counted. -/
def tilesCounted (box lo n : Nat) : SMap Nat :=
  (List.range (n / max 1 box + 1 - lo)).filterMap fun t =>
    let k := min box (n - (lo + t) * box)
    if k = 0 then none else some (lo + t, k)

/-- A subscription that goes on: its loader at byte `ln`, its storer at byte `sn` (18 R304; 20 R333 step 3). -/
def resumedSub (u : Sub) (ln sn : Nat) : Sub :=
  { u with loaded := if u.srcBase = 0 then [] else tilesCounted u.box (u.released - u.slots) ln
           stored := if u.dstBase = 0 then [] else tilesCounted u.box (u.released - 2 * u.slots) sn }

/-- A channel of a record, and the command that it puts in flight again (20 R333 step 3). A subscription of a FAULTED channel restarts from the
fault offset in its loader half, and behind the other counted bytes in its storer half; its channel is SUB, since no other state runs a
subscription (DESIGN CHOICE, log 62). -/
def channelOf (bs : List Byte) (ch slot id core : Nat) : Channel × Option Copy :=
  let f : Nat → Nat → Nat := fieldOf bs
  let w : Nat → Word := fun o => BitVec.ofNat 64 (f o 8)
  let geom := geometryOf ((bs.drop 0x40).take 64)
  let box := boxSize geom
  let d := (bs.drop 0x80).take 64
  let form := formOf (f 0x1B 1)
  let off := f 0x20 4
  let base : Channel :=
    { base := f 0 4, length := f 4 4, ev := f 0x19 1 % 2 == 1, expected := f 8 8, arrived := f 0x10 8
      written := if f 0x1C 4 = 0 then [] else [(0, f 0x1C 4)] }
  let copy : Copy :=
    { id := id, slot := slot, form := form, ch := ch, dst := w 0x28, src := w 0x30, geom := geom }
  if f 0x18 1 = 3 ∨ (f 0x18 1 = 2 ∧ form = .subscr) then
    let g : Nat → Nat → Nat := fieldOf d
    let v : Nat → Word := fun o => BitVec.ofNat 64 (g o 8)
    let u : Sub :=
      { srcBase := v 0, srcStep := v 8, dstBase := v 0x10, dstStep := v 0x18, tiles := g 0x20 4, slots := g 0x24 2
        slotSize := g 0x28 4, box := box, ring := base.base, released := f 0x24 4 }
    let sn := if u.dstBase = 0 then 0 else if u.srcBase = 0 then base.arrived
              else if f 0x18 1 = 3 then u.released * box else min (base.arrived - off) (u.released * box)
    let ln := if u.srcBase = 0 then 0 else if f 0x18 1 = 3 then base.arrived - sn else off
    let first : SMap Nat := if u.srcBase = 0 then [(0, u.tiles * box)] else if ln = 0 then [] else [(0, ln)]
    ({ base with state := .sub, sub := some (resumedSub u ln sn), arrived := ln + sn },
     some { copy with form := .subscr, dst := poolAddress (BitVec.ofNat 11 core) base.base, src := 0, next := ln, nextStore := sn
                      counted := spanAdd first (u.tiles * box) (u.tiles * box + sn) })
  else if f 0x18 1 = 2 then
    let k := if form = .mc then (coreSet (w 0x28)).length else 1
    ({ base with state := .active, arrived := base.expected - k * (box - off) },
     some { copy with next := off, counted := (List.range k).foldl (fun m j => spanAdd m (j * box) (j * box + off)) [] })
  else ({ base with state := if f 0x18 1 = 0 then .complete else .active }, none)

/-- The 16 channels, and the commands in flight again with numbers from `id` on. -/
def channelsFrom (bs : List Byte) (slot id core : Nat) : SMap Channel × List Copy :=
  (List.range 16).foldl (fun (a : SMap Channel × List Copy) ch =>
    let p := channelOf ((bs.drop (512 * ch)).take 512) ch slot (id + ch) core
    (sset {} a.1 ch p.1, a.2 ++ p.2.toList)) ([], [])

/-- The region of a record opened at the tile task's start, as far as the record can tell: it begins at the capsule's entry with no call, an
empty window and no draw, and every register outside its mask is 0 (20 R316; DESIGN CHOICE, log 62). -/
def openedFirst (c : Capsule) (mask : BitVec 11) (l : Slot) : Bool :=
  let r : Region := { l.region with mask := mask, w := 0 }
  l.pc == c.info.code + BitVec.ofNat 64 c.info.entry && l.wbase == 0 && l.calls.isEmpty && l.draws == 0
    && (l.x.all fun p => (xGroup r p.1).elim false fun g => mask.getLsbD g) && (l.xPoison.all fun p => (xGroup r p.1).elim false fun g => mask.getLsbD g)
    && (l.f.all fun p => mask.getLsbD (4 + p.1 / 16)) && (l.v.all fun p => mask.getLsbD (7 + p.1 / 8)) && (l.m.isEmpty || mask.getLsbD 6)

/-- The registers, queues and window of a record. No field holds the addresses of poison marks, which tiles are idle, cnt.cycle or cnt.retired: a
tile whose words are all 0 is idle, and both counters start again from 0 (01 R16, R18; DESIGN CHOICE, log 62). -/
def restoredSlot (s : State) (cap : Nat) (c : Capsule) (i : SlotId) (bs : List Byte) : Slot :=
  let f : Nat → Nat → Nat := fieldOf bs
  let w : Nat → Word := fun o => BitVec.ofNat 64 (f o 8)
  let old := getSlot s i
  let linear := f 0 8
  let t := tileOf c.info linear
  let regs := bits c.info.part.toNat 0 8
  let scratch := bits c.info.part.toNat 8 8
  let image := bs.drop 0x2C00
  let wbase := f 0x1A 2
  let calls := f 0x1C 4
  let spill := (List.range 32).filterMap fun k =>
    let e := f (0x240 + 2 * k) 2
    if 0x8000 ≤ e then some (e / 16 % 64, e % 16) else none
  let backing := (image.drop 4096).take (4096 * (regs - 1))
  let store := image.drop (4096 * (regs + scratch))
  let fb := wbase + 24 - 64
  let lo := 8 * spill.length
  let inStore : SMap Word := spill.zipIdx.foldl (fun m e => readWords store (1024 * e.1.1 + 64 * e.1.2) 8 (8 * e.2 + 8) m) []
  let file := (List.range 64).filter fun k => decide (40 ≤ wbase + k)
  let x := file.foldl (fun m k => sset 0 m (wbase + k - 32) (w (0x280 + 8 * k))) (readWords backing 0 (fb - lo) (lo + 8) inStore)
  let x := (readWords bs 0x90 7 1 x).filter fun p => decide (p.1 < wbase + 32)
  let lost : Nat → Word := fun k => Config.lostAddress s.fresh k
  let marks := (List.range 7).filter (fun n => (f 0xC8 8).testBit n) |>.map fun n => n + 1
  let marks := marks ++ (file.filter fun k => (f 0xD0 8).testBit k).map fun k => wbase + k - 32
  let young := callsOf ((bs.drop 0x480).take 256) (min calls 16)
  let spilled := (List.range (calls - 16)).map fun j =>
    let o := 4096 * (regs - 1) - 16 * (j + 1)
    (⟨BitVec.ofNat 64 (fieldOf backing o 8), fieldOf backing (o + 8) 8⟩ : CallRec)
  let evs := (List.range (min 8 (f 0xA 1))).map fun k =>
    let e := f (0x5D8 + 8 * k) 8
    (⟨e / 2 ^ 40 % 4, e / 2 ^ 8 % 2 ^ 32, e % 16⟩ : EvEntry)
  let tiles := tilesOf store (4 * bits c.info.part.toNat 16 8) spill
  let l : Slot :=
    { x := x, xPoison := marks.foldl (fun m k => sput m k (lost k)) [], f := readWords bs 0x100 32 0 []
      v := (List.range 32).foldl (fun m n => sset 0 m n (BitVec.ofNat 512 (fieldOf image (64 * n) 64))) []
      m := readWords bs 0x200 7 1 [], tiles := tiles
      busyTiles := (tiles.map fun p => p.1 / 256).dedup.map fun n => (n, true)
      pc := w 0x10, wbase := wbase, calls := young.reverse ++ spilled.reverse, spill := spill
      outer := loopOf (f 0x58 1 % 2 == 1) (f 0x28 8) (f 0x38 8) (f 0x40 8)
      inner := loopOf (f 0x58 1 / 2 % 2 == 1) (f 0x30 8) (f 0x48 8) (f 0x50 8)
      trCause := w 0x70, trPc := w 0x78, trValue := w 0x80, tile := t, ext := extOf c.info t
      gangPos := f 9 1 / 16, gangSize := f 9 1 % 16, capPos := c.pos, worldPos := ((worldAt s c.world).map World.openPos).getD 0
      part := c.info.part, startTime := dieCycles s (dieOf i.core), boundAt := s.now, latchBit := f 8 1 / 2 % 2 == 1, evq := evs
      evLost := f 8 1 / 8 % 2 == 1
      inbox := (List.range (min 16 (f 0xB 1))).map fun k => BitVec.ofNat 512 (f (0x640 + 64 * k) 64)
      run := if f 8 1 % 2 = 1 then .asleep else .running, capsule := some cap, linear := linear, partBase := f 0xC 4
      groups := (List.range 16).foldl (fun m g => sset {} m g (groupOf ((bs.drop (0xA40 + 16 * g)).take 16) (sget {} old.groups g))) []
      group := if f 0x59 1 < 16 then some (f 0x59 1) else none, draws := w 0x20, astride := f 0x580 8, bstride := f 0x588 8
      cstride := f 0x590 8, geom := geometryOf ((bs.drop 0x598).take 64)
      chans := (channelsFrom (bs.drop 0xC00) i.slot s.fresh i.core.toNat).1 }
  openRegion (BitVec.ofNat 11 (f 0x18 2)) (openedFirst c (BitVec.ofNat 11 (f 0x18 2)) l) l

/-- The scratchpad of a record. -/
def restoredPad (c : Capsule) (bs : List Byte) : List Byte :=
  (bs.drop (0x2C00 + 4096 * bits c.info.part.toNat 0 8)).take (4096 * bits c.info.part.toNat 8 8)

/-- The slot of a record is given to its tile task again. -/
def restoreTask (s : State) (cap : Nat) (c : Capsule) (i : SlotId) (bs : List Byte) : State :=
  let base := fieldOf bs 0xC 4
  let s := takeSlot s cap c i base
  let l := restoredSlot s cap c i bs
  let copies := (channelsFrom (bs.drop 0xC00) i.slot s.fresh i.core.toNat).2
  let s := setSlot s i { l with task := s.fresh + 16 }
  let s := modCore s i.core fun k => { k with copies := k.copies ++ copies }
  { s with fresh := s.fresh + 17, mem := s.mem.pokes (byteMap (poolKey i.core (scratchBase l)) (restoredPad c bs)) }

/-! ### Whole records (20 R329, Table 20-7) -/

/-- The park key of a world (25 Table 25-1). -/
def parkKey (root : BitVec 256) (chain : Word) : List Byte :=
  hkdf (wordBytes chain) (beBytes 32 root.toNat) (asciiBytes "T9 park") 32

/-- Header bytes 0x00 to 0x6F. -/
def parkHeader (c : Capsule) (status pos slots msgs : Nat) : List Byte :=
  let size := slotSize c.info.part
  let f : FaultRec := if status = 2 then c.faults.headD ⟨0, 0, 0, 0⟩ else ⟨0, 0, 0, 0⟩
  leBytes 4 0x4B524150 ++ leBytes 2 1 ++ leBytes 2 status ++ leBytes 8 pos ++ beBytes 32 c.info.digest.toNat ++ wordBytes c.info.chain
    ++ leBytes 8 c.next ++ leBytes 4 slots ++ leBytes 4 size ++ leBytes 4 msgs ++ leBytes 2 f.code.toNat ++ leBytes 2 0
    ++ leBytes 8 f.linear ++ wordBytes f.pc ++ wordBytes f.value ++ leBytes 8 (128 + slots * size + 80 * msgs)

/-- Slot records of a capsule by rising linear index: of its placed tile tasks, and of those of an earlier record that it has not restored. -/
def slotRecords (s : State) (n : Nat) (c : Capsule) : List (List Byte) :=
  let slots := (capsuleSlots s n).filter fun i => (getSlot s i).run != .exited
  ((slots.map fun i => ((getSlot s i).linear, slotBytes s i)) ++ c.resume.map fun b => (fieldOf b 0 8, b)).mergeSort
    (fun a b => decide (a.1 ≤ b.1)) |>.map fun p => p.2

/-- The whole record: its body is encrypted under the park key (20 R329). -/
def parkRecord (s : State) (n : Nat) (c : Capsule) (status pos : Nat) : List Byte :=
  let slots := slotRecords s n c
  let head := parkHeader c status pos slots.length c.captured.length
  let body := slots.flatten ++ c.captured.flatMap fun m => leBytes 8 m.2.1 ++ pad 8 ++ leBytes 64 m.2.2.toNat
  let (ct, tag) := gcmSeal (parkKey c.payload.rootKey c.info.chain) (leBytes 8 pos ++ pad 4) head body
  head ++ tag ++ ct

/-- An extent of the record by its index. -/
def extentAt (c : Capsule) (i : Nat) : Option Extent := if i = 0xFFFF then none else c.info.extents[i]?

/-- What a park extent holds: nothing, a bad record, or slot records, messages and NEXTGROUP (20 R332). -/
inductive ParkView where
  | absent
  | bad
  | good (slots : List (List Byte)) (msgs : List (Nat × Vec)) (next : Nat)
  deriving DecidableEq, Repr

/-- A park extent in host memory waits for a translation (09 R203). -/
def parkWaits (s : State) (c : Capsule) (e : Extent) : Bool :=
  targetView s .store e.cls e.target 4 == .missing || targetView s .load e.cls e.target (min e.length 128) == .missing ||
    (readTarget s e.cls e.target (extentKey c.payload c.info.chain e) (min e.length 128)).elim false fun h =>
      fieldOf h 0 4 == 0x4B524150 && targetView s .load e.cls e.target (min e.length (fieldOf h 0x68 8)) == .missing

/-- The hub has read a park record: its header, and the rest where the header says that there is one (09 R203). -/
def touchRecord (s : State) (c : Capsule) (e : Extent) : State :=
  let size := (readTarget s e.cls e.target (extentKey c.payload c.info.chain e) (min e.length 128)).elim 128 fun h => fieldOf h 0x68 8
  touchTarget s e.cls e.target (min e.length size)

/-- The checks of 20 R332. -/
def readPark (s : State) (c : Capsule) (e : Extent) : ParkView :=
  let key := extentKey c.payload c.info.chain e
  match readTarget s e.cls e.target key (min e.length 128) with
  | none => .absent
  | some h =>
    if fieldOf h 0 4 ≠ 0x4B524150 then .absent
    else
      let f : Nat → Nat → Nat := fieldOf h
      let size := slotSize c.info.part
      let len := 128 + f 0x40 4 * size + 80 * f 0x48 4
      let ok := f 4 2 = 1 ∧ (f 6 2 = 1 ∨ f 6 2 = 2) ∧ (h.drop 0x10).take 32 = beBytes 32 c.info.digest.toNat
        ∧ f 0x30 8 = c.info.chain.toNat ∧ f 0x44 4 = size ∧ f 0x68 8 = len ∧ len ≤ e.length
      if ¬ ok then .bad
      else
        match readTarget s e.cls (e.target + 128) key (len - 128) with
        | none => .bad
        | some ct =>
          match gcmOpen (parkKey c.payload.rootKey c.info.chain) ((h.drop 8).take 8 ++ pad 4) (h.take 0x70) ct ((h.drop 0x70).take 16) with
          | none => .bad
          | some m =>
            .good ((List.range (f 0x40 4)).map fun i => (m.drop (size * i)).take size)
              ((List.range (f 0x48 4)).map fun i =>
                let o := f 0x40 4 * size + 80 * i
                (fieldOf m o 8, BitVec.ofNat 512 (fieldOf m (o + 16) 64)))
              (f 0x38 8)

end Sys2Proof.Machine
end

