-- ==== Sys2Proof/Machine/Choose.lean ====
section
/-! DEFINITION. What the dispatcher places next: groups, whole cohorts, groups of a park record (06 R116, R119; 08 R183 to R185; 20 R333;
23 R361). -/

namespace Sys2Proof.Machine

/-! ### Groups (06 R116, R119) -/

/-- Groups `j` to `j + n - 1` are placed, or none (06 R116, R119). -/
def placeGroups (cap : Nat) (c : Capsule) (homes : List SlotId) (pools : List Nat) : Nat → Nat → State → Option State
  | 0, _, s => some s
  | n + 1, j, s =>
    match findHome s cap c (homes[j - c.next]?) with
    | none => none
    | some lead => placeGroups cap c homes (pools.drop c.info.gang) n (j + 1) (startGroup s cap c lead pools j)

/-! ### Groups of a park record (20 R333) -/

/-- Slot records of one placement group. -/
def recordsOf (c : Capsule) (j : Nat) (rs : List (List Byte)) : List (List Byte) := rs.filter fun b => fieldOf b 0 8 / c.info.gang == j

/-- A record may be restored into slot `i`: the slot and the run of the pool are free. -/
def recordOk (s : State) (cap : Nat) (c : Capsule) (lead : SlotId) (b : List Byte) : Bool :=
  let i := memberAt lead (fieldOf b 0 8 % c.info.gang)
  memberOk s cap c i && fieldOf b 0xC 4 % 4096 == 0 && runFree s i.core (partUnits c.info.part) (fieldOf b 0xC 4 / 4096)

/-- Where a group's records go: the place asked for, if it is possible, else the first that is (log 15). No field of a slot record holds the
slot number that 20 R333 step 1 wants again, so any will do (DESIGN CHOICE, log 62). -/
def recordHome (s : State) (cap : Nat) (c : Capsule) (rs : List (List Byte)) (want : Option SlotId) : Option SlotId :=
  let ok : SlotId → Bool := fun lead =>
    lead.core.toNat % c.info.gang == 0 && rs.all (recordOk s cap c lead) &&
      (List.range c.info.gang).all fun k => !coreClosed s (memberAt lead k).core
  match want.filter ok with
  | some i => some i
  | none => (allHomes c.info.gang).find? ok

/-- The groups `js` of a record are restored, or none. -/
def restoreGroups (cap : Nat) (c : Capsule) (homes : List SlotId) : List Nat → State → Option State
  | [], s => some s
  | j :: t, s =>
    let rs := recordsOf c j c.resume
    match recordHome s cap c rs homes.head? with
    | none => none
    | some lead =>
      restoreGroups cap c (homes.drop 1) t (rs.foldl (fun s b => restoreTask s cap c (memberAt lead (fieldOf b 0 8 % c.info.gang)) b) s)

/-- A captured message enters its inbox; where it is full, the overflow queue; where that is full too it is deflected and tried again (06 R127
to R129). -/
def returnMessage (cap : Nat) (s : State) (m : Nat × Vec) : State :=
  match placedAt s cap m.1 with
  | none => stray s 0
  | some i =>
    match deliver s cap m.1 (dieOf i.core) m.2 with
    | .taken t => t
    | .bounced => deflectMessage s i m.1 m.2

/-- Sleeping slots whose latch is set wake at once (20 R333 step 5). -/
def wakeAll (s : State) (n : Nat) : State := (capsuleSlots s n).foldl wake s

/-- The placement group of a tile task. -/
def groupNo (c : Capsule) (linear : Nat) : Nat := linear / c.info.gang

/-- Placement groups of the park record that have not been restored. -/
def parkedGroups (c : Capsule) : List Nat := (c.resume.map fun b => groupNo c (fieldOf b 0 8)).dedup

/-- Groups `js` have been restored: their messages return, and the slots that may wake (20 R333 steps 4 and 5). With the last group every
message left has lost its target. -/
def finishRestore (s : State) (cap : Nat) (c : Capsule) (js : List Nat) : State :=
  if js.isEmpty then s
  else
    let left := c.resume.filter fun b => !js.contains (groupNo c (fieldOf b 0 8))
    let mine : Option CoreId × Nat × Vec → Bool := fun m => left.isEmpty || js.contains (groupNo c m.2.1)
    let s := modCap s cap fun x => { x with resume := left, captured := x.captured.filter fun m => !mine m }
    wakeAll (((c.captured.filter mine).map fun m => (m.2.1, m.2.2)).foldl (returnMessage cap) s) cap

/-! ### The next group (06 R119; 08 R184, R185; 23 R361) -/

/-- The engines of a CELLAR capsule are bound before its first group is placed (23 R361); none where one is not free. -/
def bindFirst (s : State) (cap : Nat) (c : Capsule) : Option State :=
  if c.info.flags.getLsbD 2 = false ∨ c.status ≠ .queued then some s
  else
    match sfind s.bindings cap with
    | some b => if enginesFree s b then some (bindEngines s cap b) else none
    | none => none

/-- The next group of a capsule, one of its park record first, or its whole cohort, gets its slots; none where that cannot be. -/
def placeSlots (s : State) (cap : Nat) (c : Capsule) (homes : List SlotId) (pools : List Nat) : Option State :=
  let all := c.info.flags.getLsbD 0
  let js := if all then parkedGroups c else (parkedGroups c).take 1
  let n := if all then groupCount c.info - c.next else if js.isEmpty then 1 else 0
  ((restoreGroups cap c homes js s).bind (placeGroups cap c (homes.drop js.length) pools n c.next)).map fun s =>
    finishRestore (modCap s cap fun c => { c with next := c.next + n, placed := s.now, status := .running }) cap c js

/-- The next group of a capsule, or its whole cohort, is placed; none where it cannot be. A capsule with a fault places none (20 R327, R332). -/
def placeNext (s : State) (cap : Nat) (c : Capsule) (homes : List SlotId) (pools : List Nat) : Option State :=
  if waits c = false ∨ (c.info.park ≠ 0xFFFF ∧ c.checked = false) ∨ c.faults ≠ [] then none
  else
    ((bindFirst s cap c).bind fun s => placeSlots s cap c homes pools).map fun s =>
      let s := settleDeficits s
      let gone := (capAt s cap).elim true fun c => !waits c
      { s with hub := { s.hub with lastPlaced := c.source
                                   cohort := if gone then s.hub.cohort.filter fun r => r.1 != cap else s.hub.cohort
                                   freed := if gone then s.hub.freed.filter fun r => r.2 != cap else s.hub.freed } }

/-! ### What is placed next (08 R183) -/

/-- The oldest waiting capsule of a ring at a level: capsules are numbered in the order of their acceptance. -/
def oldestAt (s : State) (level ring : Nat) : Option (Nat × Capsule) :=
  s.hub.capsules.find? fun p => waits p.2 && p.2.source == ring && p.2.priority == level

/-- A ring could place at a level now. -/
def ringAble (s : State) (level ring : Nat) : Bool :=
  (oldestAt s level ring).elim false fun p => (placeNext s p.1 p.2 [] []).isSome

/-- Rounds until a ring's deficit is above 0. -/
def roundsFor (d : Int) : Nat := if 0 < d then 0 else ((-d) / 100 + 1).toNat

/-- `n` new rounds begin: every ring with waiting capsules gains 100 core-us in each, up to 200. -/
def newRounds (s : State) : Nat → State
  | 0 => s
  | n + 1 =>
    let ds := (waitingRings s).foldl (fun m r => sset 0 m r (min 200 (sget 0 m r + 100))) s.hub.deficits
    newRounds { s with hub := { s.hub with deficits := ds } } n

/-- The rings in the order of their turns at the level. -/
def ringTurns (s : State) : List Nat := (List.range 80).map fun j => (s.hub.lastPlaced + 1 + j) % 80

/-- While no ring of a level can place, one round follows another: every ring with waiting capsules stands at 200 core-us. -/
def fullRounds (s : State) : State :=
  { s with hub := { s.hub with deficits := (waitingRings s).foldl (fun m r => sset 0 m r 200) s.hub.deficits } }

/-- The ring that places at a level, after the rounds that this takes. -/
def chooseAt (s : State) (level : Nat) : State × Option (Nat × Capsule) :=
  let able := (ringTurns s).filter (ringAble s level)
  if able.isEmpty then
    (if s.hub.capsules.any fun p => waits p.2 && p.2.priority == level then fullRounds s else s, none)
  else
    let n := (able.map fun r => roundsFor (deficitOf s r)).min?.getD 0
    let s := newRounds s n
    (s, (able.find? fun r => decide (0 < deficitOf s r)).bind (oldestAt s level))

/-- The capsule that places next: from the highest effective priority that can (log 23). -/
def chooseFrom : List Nat → State → State × Option (Nat × Capsule)
  | [], s => (s, none)
  | level :: rest, s =>
    match chooseAt s level with
    | (s, some p) => (s, some p)
    | (s, none) => chooseFrom rest s

def chooseCapsule (s : State) : State × Option (Nat × Capsule) := chooseFrom (List.range 4) s

/-- The cohort for which slots are reserved: the oldest of the highest effective priority that has waited 1 ms (08 R184). -/
def waitingCohort (s : State) : Option (Nat × Capsule) :=
  let l := s.hub.capsules.filter fun p =>
    waits p.2 && p.2.info.flags.getLsbD 0 && decide (p.2.accepted + 1000000 * Config.nanosecond ≤ s.now)
  (List.range 4).findSome? fun k => l.find? fun p => p.2.priority == k

/-! ### Cohorts (08 R184) -/

/-- How many partitions of `n` units find disjoint free runs on a core. -/
def freeRuns (s : State) (c : CoreId) (n : Nat) : Nat :=
  ((List.range 120).foldl (fun (a : Nat × Nat) u => if a.1 ≤ u && runFree s c n u then (u + n, a.2 + 1) else a) (0, 0)).2

/-- The first slot of the group that would use slot `i`. -/
def leadOf (c : Capsule) (i : SlotId) : SlotId := ⟨BitVec.ofNat 11 (i.core.toNat / c.info.gang * c.info.gang), i.slot⟩

/-- Groups that a capsule has still to place: those of its park record, and those never placed. -/
def groupsLeft (c : Capsule) : Nat := (parkedGroups c).length + (groupCount c.info - c.next)

/-- The cohort needs slot `i` beside the slots `held` that it has, of the groups that begin at `leads`: it is of such a group, or of one more
group, where every core of its block is there, the core takes another tile task of it and the pool another partition. -/
def cohortNeeds (s : State) (n : Nat) (c : Capsule) (held leads : List SlotId) (i : SlotId) : Bool :=
  let lead := leadOf c i
  let onCore := (held.filter fun j => j.core == i.core).length
  memberOk s n c i && !held.contains i && (List.range c.info.gang).all (fun k => !coreClosed s (memberAt lead k).core)
    && (leads.contains lead ||
      (decide (leads.length < groupsLeft c) && decide ((leads.filter fun l => l.core == lead.core).length < c.info.threads)))
    && decide (tasksOn s n i.core + onCore < c.info.threads) && decide (onCore < freeRuns s i.core (partUnits c.info.part))

/-- Of the slots `l` those that a cohort needs are reserved beside those that it has, `a.1`, of the groups that begin at `a.2`. -/
def addNeeded (s : State) (n : Nat) (c : Capsule) (l : List SlotId) (a : List SlotId × List SlotId) : List SlotId × List SlotId :=
  l.foldl (fun a i =>
    if a.1.length < groupsLeft c * c.info.gang && cohortNeeds s n c a.1 a.2 i then
      (i :: a.1, if a.2.contains (leadOf c i) then a.2 else leadOf c i :: a.2)
    else a) a

/-- The slots reserved for a cohort. -/
def heldFor (s : State) (n : Nat) : List SlotId :=
  match s.hub.cohort with
  | some (m, l) => if m = n then l else []
  | none => []

/-- Every slot that is free and that the waiting cohort needs is reserved for it (08 R184), those of State.arg.homes first (log 15). -/
def reserveCohort (s : State) : State :=
  match waitingCohort s with
  | none => s
  | some (n, c) =>
    let held := heldFor s n
    let all := addNeeded s n c (s.arg.homes ++ allHomes 1) (held, (held.map (leadOf c)).dedup)
    { s with hub := { s.hub with cohort := some (n, all.1) } }

/-- COHORT_RESERVATION (08 R184). -/
def execCohortReservation (s : State) : Out := .next (reserveCohort (ageAll s))

/-! ### The next placement (08 R183) -/

/-- Where the dispatcher stands before it places: ages and charges are those of now, and a slot that has become free is reserved for the waiting
cohort before any other capsule finds it (08 R183, R184). -/
def toPlace (s : State) : State := reserveCohort (chargeAll (ageAll s))

/-- PLACE_GROUP (08 R183): the places that the dispatcher prefers are State.arg.homes and State.arg.pools (log 15). -/
def execPlaceGroup (s : State) : Out :=
  let homes := s.arg.homes
  let pools := s.arg.pools
  match chooseCapsule (toPlace s) with
  | (t, some (n, c)) => .next ((placeNext t n c homes pools).getD t)
  | (t, none) => .next t

end Sys2Proof.Machine
end

