-- ==== Sys2Proof/Machine/Retire.lean ====
section
/-! DEFINITION. How capsules end and come back: completion, dependence counters, faults, parking, resumption (08 R173 to R176, R186;
20 R326 to R333). -/

namespace Sys2Proof.Machine

/-! ### Completion (08 R173, R176) -/

/-- Writes and atomics of a capsule that have not been performed on this device: it does not end before (08 R173 step 3, R177). -/
def capsuleWrites (s : State) (n : Nat) : Bool :=
  s.net.any fun p => p.2.capsule == n && p.2.ofDev.isNone && match p.2.cargo with
    | .write _ _ | .flag _ _ | .atomic _ _ _ _ => true
    | _ => false

/-- What an overflow activation left in the service slots of a capsule's cores has been performed (04 R94). -/
def heapsStored (s : State) (n : Nat) : Bool :=
  (capsuleSlots s n).all fun i => let l := getSlot s ⟨i.core, 4⟩; l.run != .unbound || l.storeBuf.isEmpty

/-- Every tile task of the capsule has exited normally, and everything that it caused is over. -/
def allDone (s : State) (n : Nat) : Bool :=
  (activations s n).isEmpty && heapsStored s n && !capsuleWrites s n &&
    (capsuleSlots s n).all fun i => (getSlot s i).run == .exited && slotIdle s i

/-- The capsule may complete (08 R173 steps 1 to 3; 23 R361). -/
def mayComplete (s : State) (n : Nat) (c : Capsule) : Bool :=
  c.status == .running && c.next == groupCount c.info && c.faults.isEmpty && c.resume.isEmpty && !c.verdict && allDone s n && enginesDone s n

/-- An entry of the chain ring for a successor (08 R176). -/
def enqueueInternal (s : State) (c : Capsule) (e : Extent) (a : Nat) : State :=
  let r := c.info.chain.toNat % 16
  let x : ChainEntry := ⟨targetForm e.cls (targetIn e a), extentKey c.payload c.info.chain e, c.world⟩
  let s := { s with hub := { s.hub with chains := sset [] s.hub.chains r (sget [] s.hub.chains r ++ [x]) } }
  modWorld s c.world fun w => { w with live := w.live + 1 }

/-- CHAIN_UNDERFLOW (08 Table 8-11). -/
def underflow (s : State) (c : Capsule) (i : Nat) (poison : Bool) (counter : Nat) : State :=
  let s := journal s { code := 0x33, source := c.source, detail := i + if poison then 2 ^ 31 else 0, cookie := counter, digest := c.recDigest }
  modWorld s c.world fun w => { w with ends := w.ends ||| 8 }

/-- Decrement (08 R176) of successor slot `i`. -/
def decrement (c : Capsule) (s : State) (i : Nat) : State :=
  let u := c.info.succs.getD i (0, 0)
  match covering c.info.extents u.2.toNat 8, covering c.info.extents u.1.toNat 1 with
  | some e, some r =>
    let key := extentKey c.payload c.info.chain e
    let a := targetIn e u.2.toNat
    match readTarget s e.cls a key 8 with
    | none => underflow s c i true (targetForm e.cls a)
    | some bs =>
      let old := leNat bs
      if old = 0 then underflow s c i false (targetForm e.cls a)
      else
        let s := landMem s e.cls a key (leBytes 8 (old - 1)) false
        if old = 1 then enqueueInternal s c r u.1.toNat else s
  | _, _ => s

/-- A counter that the completion decrements lies at an intake or a doorbell that takes no write now (23 R365). -/
def countersWait (s : State) (c : Capsule) : Bool :=
  (List.range c.info.nSucc).any fun i =>
    let a := (c.info.succs.getD i (0, 0)).2.toNat
    (covering c.info.extents a 8).elim false fun e => landBlocked s e.cls (targetIn e a) 8

/-- CAPSULE_COMPLETION (08 R173) of capsule State.arg.cap. -/
def execCapsuleCompletion (s : State) : Out :=
  let n := s.arg.cap
  match capAt s n with
  | none => .next s
  | some c =>
    if mayComplete s n c = false ∨ countersWait s c = true then .next s
    else
      let s := gatherMeasured s n
      match capAt s n with
      | none => .next s
      | some c =>
        if measureReady c = false then .next s
        else
          let s := measureCapsule (chargeAll s) c
          let s := (List.range c.info.nSucc).foldl (decrement c) s
          let s := journal s (capsuleEvent c 0x30 0)
          .next (removeCapsule s n)

/-! ### Stopping (20 R328 steps 1 to 3) -/

/-- The slot goes on by itself. -/
def goesOn (r : Run) : Bool :=
  match r with
  | .running | .asleep | .atGang _ => true
  | _ => false

/-- A tile task stops before its next instruction, and its open region is discarded; one that is being closed goes on leaving. -/
def stopSlot (s : State) (i : SlotId) : State :=
  let me := s.cur
  let s := focus s i
  if goesOn s.slot.run then
    let sleeps := s.slot.run == .asleep
    let s := if draining s.slot then s else dropHeld s
    focus (onSlot s fun l => closeSubs { restoreRegion l with run := .stopped sleeps, condMet := none, wantRel := none }) me
  else focus s me

/-- An overflow activation ends: what it has moved into the heap is stored, and held writes that are leaving leave (20 R328 step 1). -/
def stopActivation (s : State) (i : SlotId) : State :=
  let me := s.cur
  let s := focus s i
  focus (if draining s.slot then onSlot s fun l => { restoreRegion l with run := .stopped false } else endActivation (dropHeld s)) me

/-- The messages staged for a slot join the captured ones, at most 64 for a core (log 26). -/
def captureStaged (n : Nat) (s : State) (i : SlotId) : State :=
  let l := getSlot s i
  let ms := (coreOf s i.core).staged.filter fun m => m.slot == i.slot
  let s := modCore s i.core fun k => { k with staged := k.staged.filter fun m => m.slot != i.slot }
  modCap s n fun c => { c with captured := c.captured ++ ms.map fun m => (some i.core, l.linear, m.payload) }

/-- Every placed tile task and activation of a capsule stops. -/
def stopCapsule (s : State) (n : Nat) : State :=
  let s := (activations s n).foldl stopActivation s
  let slots := (capsuleSlots s n).filter fun i => (getSlot s i).run != .exited
  let s := slots.foldl stopSlot s
  let s := slots.foldl (captureStaged n) s
  modCap s n fun c => { c with stopped := some s.now }

/-- No tile task or activation of the capsule goes on. -/
def allStopped (s : State) (n : Nat) : Bool := (activations s n ++ capsuleSlots s n).all fun i => !goesOn (getSlot s i).run

/-- Data that closed regions of a slot wait for is still out (10 R219; 20 R317). -/
def owed (l : Slot) : Bool := l.pending.any fun p => p.dst.isSome || p.dst2.isSome || p.old.isSome || p.old2.isSome

/-- Commands, copies and held writes that were leaving are over, loads and atomics of closed regions have returned, the code verdict is in,
L_max has passed since the last slot stopped, and the engines of a binding have done what they had taken (20 R328 steps 2 and 3; 23 R361). -/
def captureOver (s : State) (n : Nat) (c : Capsule) : Bool :=
  c.stopped.elim false (fun t => decide (t + Config.lifeMax ≤ s.now)) && !(c.verdict && c.next != 0) && allStopped s n
    && ((activations s n ++ capsuleSlots s n).all fun i => slotIdle s i && (getSlot s i).hold.isEmpty && !owed (getSlot s i))
    && heapsStored s n && !capsuleWrites s n && enginesDone s n

/-- Steps 6 and 7 of 20 R328, and the end of the capsule. -/
def freeCapsule (s : State) (n : Nat) : State :=
  let s := (activations s n).foldl (fun t i => setSlot t i {}) s
  let s := (capsuleSlots s n).foldl (fun t i => freeSlot (killSlot t i) i) s
  removeCapsule s n

/-- Bytes of a record of `n` bytes for which tokens are still to be taken: what a guarded world's record sends to host memory is metered (25
R399). -/
def recordUnpaid (s : State) (c : Capsule) (e : Extent) (n : Nat) : Nat :=
  if e.cls = 2 ∧ ((worldAt s c.world).elim false fun w => w.guarded) = true then n - c.paid else 0

/-- The tokens that a record can take now, when no request waits before it at the hub: it leaves in requests as small as need be (DESIGN CHOICE,
log 49). -/
def recordPays (s : State) (c : Capsule) (e : Extent) (n : Nat) : Nat :=
  (worldAt s c.world).elim 0 fun w =>
    if (w.waiting.head?.elim true fun h => c.waitNo == some h) then min w.tokens (recordUnpaid s c e n) else 0

/-- A record that goes into an extent waits for the translation of its pages (09 R203), or for an intake or a doorbell that it meets (23 R365). -/
def recordHeld (s : State) (e : Extent) (n : Nat) : Bool := targetView s .store e.cls e.target n == .missing || landBlocked s e.cls e.target n

/-- It waits for that, or for tokens. -/
def recordWaitsAt (s : State) (c : Capsule) (e : Extent) (n : Nat) : Bool :=
  recordHeld s e n || decide (recordPays s c e n < recordUnpaid s c e n)

/-- Capsule `k` takes the tokens for its record that there are; for the others it waits among the requests of its world, in their order (25 R399). -/
def payRecord (s : State) (k : Nat) (c : Capsule) (e : Extent) (n : Nat) : State :=
  let t := recordPays s c e n
  let all := recordUnpaid s c e n
  if recordHeld s e n = true ∨ all = 0 then s
  else
    let no := c.waitNo.getD s.fresh
    if t = all then
      modCap (modWorld s c.world (payBucket no t)) k fun c => { c with paid := c.paid + t, waitNo := none }
    else
      let s := modCap (modWorld s c.world fun w => joinBucket no { w with tokens := w.tokens - t }) k fun x =>
        { x with paid := x.paid + t, waitNo := some no }
      if c.waitNo.isNone then bump s else s

/-! ### Faults (20 R327) -/

/-- The capsule is halted at its first fault (20 R327). -/
def halts (c : Capsule) : Bool := c.info.policy == 1 || c.info.flags.getLsbD 0

/-- Bytes of the record of a capsule as it stands. -/
def parkSize (s : State) (n : Nat) (c : Capsule) : Nat :=
  128 + (slotRecords s n c).length * slotSize c.info.part + 80 * c.captured.length

/-- The fault record goes to the fault-queue extent, if the capsule names one that is long enough. -/
def writeFaultRecord (s : State) (n : Nat) (c : Capsule) : State :=
  match extentAt c c.info.faultq with
  | none => s
  | some e =>
    let bs := parkRecord s n c 2 (nextPosition s)
    if e.length < bs.length then s else writeTarget (payRecord s n c e bs.length) e.cls e.target (extentKey c.payload c.info.chain e) bs

/-- The extent that the fault record goes to. -/
def faultExtent (s : State) (n : Nat) (c : Capsule) : Option Extent :=
  (extentAt c c.info.faultq).filter fun e => decide (parkSize s n c ≤ e.length)

/-- CAPSULE_FAULT (20 R327) of capsule State.arg.cap: first it is halted or drains; once its tile tasks have stopped, the time runs;
then its fault record is written, FAULT is journalled, and the capsule is gone. -/
def execCapsuleFault (s : State) : Out :=
  let n := s.arg.cap
  match capAt s n with
  | none => .next s
  | some c =>
    match c.faults with
    | [] => .next s
    | f :: _ =>
      if c.status = .parking then .next s
      else if c.status ≠ .faulting then
        let s := chargeAll (modCap s n fun c => { c with status := .faulting })
        .next (if halts c then stopCapsule s n else s)
      else if c.stopped.isNone then
        .next (if allStopped s n then modCap s n fun c => { c with stopped := some s.now } else s)
      else if captureOver s n c = false then .next s
      else
        match (faultExtent s n c).filter fun e => recordWaitsAt s c e (parkSize s n c) with
        | some e => .next (payRecord s n c e (parkSize s n c))
        | none =>
        let s := writeFaultRecord (chargeAll s) n c
        let s := journal s (capsuleEvent c 0x31 f.code.toNat)
        let s := modWorld s c.world fun w => { w with ends := w.ends ||| 1 }
        .next (freeCapsule s n)

/-! ### Parking (08 R186; 20 R328) -/

/-- The capsule of effective priority 0 that finds no slots for what it has to place (08 R186). -/
def blockedUrgent (s : State) : Option (Nat × Capsule) :=
  s.hub.capsules.find? fun p =>
    waits p.2 && p.2.priority == 0 && p.2.faults.isEmpty && !(p.2.info.park != 0xFFFF && !p.2.checked) && (placeSlots s p.1 p.2 [] []).isNone

/-- Bytes that a park extent must hold at least (20 R328). -/
def parkNeed (s : State) (n : Nat) (c : Capsule) : Nat :=
  let slots := (capsuleSlots s n).filter fun i => (getSlot s i).run != .exited
  128 + (slots.length + c.resume.length) * slotSize c.info.part + 80 * (64 * ((slots.map fun i => i.core).dedup).length + c.captured.length)

/-- Every tile task of the capsule has exited normally: it is completing (08 Table 8-7). -/
def completing (s : State) (n : Nat) (c : Capsule) : Bool :=
  c.next == groupCount c.info && c.resume.isEmpty && (capsuleSlots s n).all fun i => (getSlot s i).run == .exited

/-- The capsule may be chosen to be parked. -/
def parkable (s : State) (n : Nat) (c : Capsule) : Bool :=
  c.status == .running && c.info.flags.getLsbD 1 && c.priority != 0 && c.faults.isEmpty && !completing s n c
    && (extentAt c c.info.park).elim false fun e => decide (parkNeed s n c ≤ e.length)

/-- The capsule that is parked next: the lowest effective priority first, and then the most recently placed. -/
def chooseVictim (s : State) : Option (Nat × Capsule) :=
  (s.hub.capsules.filter fun p => parkable s p.1 p.2).foldl (fun b p =>
    match b with
    | none => some p
    | some q => if q.2.priority < p.2.priority ∨ (q.2.priority = p.2.priority ∧ q.2.placed ≤ p.2.placed) then some p else some q) none

/-- PARK_CAPSULE (08 R186; 20 R328 step 1): a capsule of effective priority 0 cannot place, and another is parked for it. Its slots are
reserved for that capsule once they are free. One victim is parked after another: the next is chosen once no capsule is parking any more. The
rule says only "until enough slots will be free" (DESIGN CHOICE, log 79). -/
def execParkCapsule (s : State) : Out :=
  let s := ageAll s
  match blockedUrgent s, chooseVictim s with
  | some (u, _), some (n, _) =>
    if s.hub.capsules.any fun p => p.2.status == .parking then .next s
    else
      let slots := (capsuleSlots s n).map fun i => (i, u)
      let s := stopCapsule (chargeAll (modCap s n fun c => { c with status := .parking })) n
      .next { s with hub := { s.hub with freed := s.hub.freed ++ slots } }
  | _, _ => .next s

/-- PARK_CAPTURE_END (20 R328 steps 3 to 7) of capsule State.arg.cap. A tile task that faults before it is parked makes the capsule
fault in its place. -/
def execParkCaptureEnd (s : State) : Out :=
  let n := s.arg.cap
  match capAt s n with
  | none => .next s
  | some c =>
    if c.status ≠ .parking ∨ captureOver s n c = false then .next s
    else if c.faults ≠ [] then .next (modCap s n fun c => { c with status := .faulting })
    else match (extentAt c c.info.park).filter fun e => recordWaitsAt s c e (parkSize s n c) with
    | some e => .next (payRecord s n c e (parkSize s n c))
    | none =>
      let s := chargeAll s
      let s := match extentAt c c.info.park with
        | some e =>
          writeTarget (payRecord s n c e (parkSize s n c)) e.cls e.target (extentKey c.payload c.info.chain e)
            (parkRecord s n c 1 (nextPosition s))
        | none => s
      let s := journal s (capsuleEvent c 0x32 0)
      let s := modWorld s c.world fun w => { w with ends := w.ends ||| 2 }
      .next (freeCapsule s n)

/-! ### Resumption (20 R332, R333) -/

/-- The dispatcher places the next group of a capsule where that is what it places next (08 R183; 20 R333 step 1). -/
def resumeNext (s : State) (n : Nat) : State :=
  match chooseCapsule (toPlace s) with
  | (t, some (m, c)) => if m = n then (placeNext t n c s.arg.homes s.arg.pools).getD t else s
  | _ => s

/-- RESUME_CAPSULE of capsule State.arg.cap: first the check of its park extent (20 R332), and then its groups are restored, as the dispatcher
comes to them (R333). -/
def execResumeCapsule (s : State) : Out :=
  let n := s.arg.cap
  match capAt s n with
  | none => .next s
  | some c =>
    if c.info.park = 0xFFFF then .next s
    else if c.checked then .next (if c.resume.isEmpty then s else resumeNext s n)
    else
      let seen (s : State) : State := modCap s n fun c => { c with checked := true }
      match extentAt c c.info.park with
      | none => .next (seen s)
      | some e =>
        if parkWaits s c e || landBlocked s e.cls e.target 4 then .next s
        else
          match readPark s c e with
          | .absent => .next (touchTarget (seen s) e.cls e.target 4)
          | .bad => .next (noteFault (touchRecord (seen s) c e) (some n) ⟨0x8400, 0, 0, 0⟩)
          | .good slots msgs next =>
            if recordWaitsAt s c e 4 then .next (payRecord s n c e 4)
            else
              let s := payRecord s n c e 4
              let s := writeTarget (touchRecord (seen s) c e) e.cls e.target (extentKey c.payload c.info.chain e) (pad 4)
              .next (modCap s n fun c =>
                { c with resume := slots, next := next, paid := 0, captured := msgs.map fun m => (none, m.1, m.2) })

end Sys2Proof.Machine
end

