-- ==== Sys2Proof/Machine/VectorMem.lean ====
section
/-! DEFINITION. Vector memory (07 R149 to R152). -/

namespace Sys2Proof.Machine

/-- A piece of a vector access: the address that a trap names, pool offset, bytes. -/
structure Seg where
  ea : Word
  off : Nat
  n : Nat
  deriving DecidableEq, Repr

/-- Phases 3 to 5 of 07 R150 over all pieces, and then `k`; `skip`: the poison phase is left out. In phase 4 the lowest piece that objects
decides between the stall and COPYFAULT (DESIGN CHOICE, log 69). tr.value of COPYFAULT is the channel number of 04 R92 and 01 Table 1-5, not the
address of the last paragraph of R150 (DEDUCED, log 82). -/
def withSegs (s : State) (segs : List Seg) (store skip : Bool) (k : Out) : Out :=
  match segs.find? fun g => lockHit s g.off g.n store with
  | some g => trap .range g.ea s
  | none =>
    match (segs.map fun g => chansView s.slot g.off g.n).find? fun v => v != .pass with
    | some (.faulted ch) => trap .copyfault (BitVec.ofNat 64 ch) s
    | some _ => stall s
    | none =>
      match segs.find? fun g => !skip && if store then storePoison s g.off g.n else poolPoison s g.off g.n with
      | some g => trap .poison g.ea s
      | none => if store && segs.any (fun g => copySourceBusy s g.off g.n) then stall s else k

/-- The effective address of the VM format (07 R149). -/
def vecEa (x : Word) (off : BitVec 7) : Word := x + 64 * sext off

/-- The active bytes of a block at `off`. -/
def blockSegs (ea : Word) (off : Nat) (mk : Word) : List Seg :=
  if mk = BitVec.allOnes 64 then [⟨ea, off, 64⟩]
  else ((List.range 64).filter fun i => mk.getLsbD i).map fun i => ⟨ea, off + i, 1⟩

/-- Phases 1 and 2 of a block access, and then `k` at its pool offset (07 R150). -/
def withBlock (s : State) (ea : Word) (store : Bool) (k : Nat → Out) : Out :=
  if memBlocked s || (!store && noEntries s 1) then stall s
  else if ea.toNat % 64 ≠ 0 then trap .misalign ea s
  else
    match localOff s ea 64 with
    | none => trap .rights ea s
    | some off => k off

/-- `vld` (07 R149): bit i of the mask governs byte i. -/
def execVld (d a : BitVec 5) (off : BitVec 7) (mask : BitVec 3) (s : State) : Out :=
  withX a s fun x =>
    let ea := vecEa x off
    withBlock s ea false fun o =>
      let mk := mval s.slot mask
      withSegs s (blockSegs ea o mk) false false
        (laneOp 8 d mask s fun i => ((poolRead s 64 o).getD i 0).toNat)

/-- `vst` (07 R149): a block with every byte active clears the granule's poison mark (07 R150). -/
def execVst (d a : BitVec 5) (off : BitVec 7) (mask : BitVec 3) (s : State) : Out :=
  withX a s fun x =>
    let ea := vecEa x off
    withBlock s ea true fun o =>
      let mk := mval s.slot mask
      let all := mk == BitVec.allOnes 64
      let act := (List.range 64).filter fun i => mk.getLsbD i
      let bytes := act.map fun i => (o + i, BitVec.ofNat 8 (lane 8 (vval s.slot d) i))
      withSegs s (blockSegs ea o mk) true all
        (done 4 (onSlot s fun l => if act.isEmpty then l
          else buffer l [{ bytes := bytes, whole := all, since := s.now }]))

/-- The active lanes of a gather or scatter with their addresses (07 R151). -/
def gatherLanes (s : State) (x : Word) (b : BitVec 5) (w : Nat) (mk : Word) : List (Nat × Word) :=
  ((List.range (512 / w)).filter fun i => mk.getLsbD i).map fun i =>
    (i, x + BitVec.ofNat 64 (lane w (vval s.slot b) i) * BitVec.ofNat 64 (w / 8))

/-- The phases of 07 R150 for a gather or scatter, and then `k` on lanes with their pool offsets. -/
def withLanes (s : State) (ls : List (Nat × Word)) (w : Nat) (store : Bool) (k : List (Nat × Nat) → Out) : Out :=
  if memBlocked s || (!store && noEntries s ls.length) then stall s
  else
    match ls.find? fun p => p.2.toNat % (w / 8) != 0 with
    | some p => trap .misalign p.2 s
    | none =>
      match ls.find? fun p => (localOff s p.2 (w / 8)).isNone with
      | some p => trap .rights p.2 s
      | none =>
        let offs := ls.map fun p => (p.1, bits p.2.toNat 0 19)
        withSegs s (ls.map fun p => ⟨p.2, bits p.2.toNat 0 19, w / 8⟩) store false (k offs)

/-- `vgather` (07 R151). All lanes are read at one moment, though each is an access of its own (07 R152; DESIGN CHOICE, log 80); a marked xa
traps POISON also where no lane is active (10 R209; DESIGN CHOICE, log 81). -/
def execVgather (d a b : BitVec 5) (ty : IType) (mask : BitVec 3) (s : State) : Out :=
  withX a s fun x =>
    let w := itypeBits ty
    withLanes s (gatherLanes s x b w (mval s.slot mask)) w false fun offs =>
      laneOp w d mask s fun i =>
        match offs.find? fun p => p.1 == i with
        | some p => leNat (poolRead s (w / 8) p.2)
        | none => 0

/-- `vscatter` (07 R151): the lanes enter the store buffer in lane order (07 R152); a marked xa traps POISON also where no lane is active
(10 R209; DESIGN CHOICE, log 81). -/
def execVscatter (d a b : BitVec 5) (ty : IType) (mask : BitVec 3) (s : State) : Out :=
  withX a s fun x =>
    let w := itypeBits ty
    withLanes s (gatherLanes s x b w (mval s.slot mask)) w true fun offs =>
      done 4 (onSlot s fun l => buffer l (oneStore (offs.flatMap fun p =>
        poolParts s.now p.2 (leBytes (w / 8) (lane w (vval s.slot d) p.1)))))

end Sys2Proof.Machine
end

