-- ==== Sys2Proof/Machine/Dispatch.lean ====
section
/-! DEFINITION. One meaning for each constructor of Instr, in the order of the opcode table. -/

namespace Sys2Proof.Machine

def exec (i : Instr) (s : State) : Host.Outcome State Fault Refusal :=
  match i with
  | .deviceReset => Sys2Proof.Machine.execDeviceReset s
  | .doorbell => Sys2Proof.Machine.execDoorbell s
  | .ringReset => Sys2Proof.Machine.execRingReset s
  | .capsuleAcceptance => Sys2Proof.Machine.execCapsuleAcceptance s
  | .codeVerdict => Sys2Proof.Machine.execCodeVerdict s
  | .placeGroup => Sys2Proof.Machine.execPlaceGroup s
  | .priorityAging => Sys2Proof.Machine.execPriorityAging s
  | .deficitCharge => Sys2Proof.Machine.execDeficitCharge s
  | .cohortReservation => Sys2Proof.Machine.execCohortReservation s
  | .parkCapsule => Sys2Proof.Machine.execParkCapsule s
  | .parkCaptureEnd => Sys2Proof.Machine.execParkCaptureEnd s
  | .resumeCapsule => Sys2Proof.Machine.execResumeCapsule s
  | .capsuleCompletion => Sys2Proof.Machine.execCapsuleCompletion s
  | .capsuleFault => Sys2Proof.Machine.execCapsuleFault s
  | .messageArrival => Sys2Proof.Machine.execMessageArrival s
  | .overflowActivation => Sys2Proof.Machine.execOverflowActivation s
  | .sevArrival => Sys2Proof.Machine.execSevArrival s
  | .remoteAccessArrival => Sys2Proof.Machine.execRemoteAccessArrival s
  | .accessResponse => Sys2Proof.Machine.execAccessResponse s
  | .responseTimeout => Sys2Proof.Machine.execResponseTimeout s
  | .atsTranslationComplete => Sys2Proof.Machine.execAtsTranslationComplete s
  | .atsInvalidation => Sys2Proof.Machine.execAtsInvalidation s
  | .hostMemoryAccess => Sys2Proof.Machine.execHostMemoryAccess s
  | .heldWriteDepart => Sys2Proof.Machine.execHeldWriteDepart s
  | .relFlagDepart => Sys2Proof.Machine.execRelFlagDepart s
  | .engineCommandStart => Sys2Proof.Machine.execEngineCommandStart s
  | .engineCommandRetire => Sys2Proof.Machine.execEngineCommandRetire s
  | .copyCommandAccept => Sys2Proof.Machine.execCopyCommandAccept s
  | .copyPieceServe => Sys2Proof.Machine.execCopyPieceServe s
  | .decCopy => Sys2Proof.Machine.execDecCopy s
  | .channelCount => Sys2Proof.Machine.execChannelCount s
  | .copyPieceLost => Sys2Proof.Machine.execCopyPieceLost s
  | .subscriptionStart => Sys2Proof.Machine.execSubscriptionStart s
  | .switchForward => Sys2Proof.Machine.execSwitchForward s
  | .linkFlitReceive => Sys2Proof.Machine.execLinkFlitReceive s
  | .flitReplay => Sys2Proof.Machine.execFlitReplay s
  | .linkDown => Sys2Proof.Machine.execLinkDown s
  | .laneLoss => Sys2Proof.Machine.execLaneLoss s
  | .portPacketReceive => Sys2Proof.Machine.execPortPacketReceive s
  | .countedPacketArrival => Sys2Proof.Machine.execCountedPacketArrival s
  | .arrivalTimeout => Sys2Proof.Machine.execArrivalTimeout s
  | .arrivalOrphan => Sys2Proof.Machine.execArrivalOrphan s
  | .rosterInstall => Sys2Proof.Machine.execRosterInstall s
  | .fmkeyWrite => Sys2Proof.Machine.execFmkeyWrite s
  | .cellarDoorbell => Sys2Proof.Machine.execCellarDoorbell s
  | .cellarStep => Sys2Proof.Machine.execCellarStep s
  | .cellarPacketDepart => Sys2Proof.Machine.execCellarPacketDepart s
  | .clip => Sys2Proof.Machine.execClip s
  | .promote => Sys2Proof.Machine.execPromote s
  | .rootSign => Sys2Proof.Machine.execRootSign s
  | .egressTokenTick => Sys2Proof.Machine.execEgressTokenTick s
  | .hostReadWithheld => Sys2Proof.Machine.execHostReadWithheld s
  | .jconsumedWrite => Sys2Proof.Machine.execJconsumedWrite s
  | .firmwareUpdate => Sys2Proof.Machine.execFirmwareUpdate s
  | .firmwareRestart => Sys2Proof.Machine.execFirmwareRestart s
  | .cxlPortConfig => Sys2Proof.Machine.execCxlPortConfig s
  | .registerWrite => Sys2Proof.Machine.execRegisterWrite s
  | .debugRead => Sys2Proof.Machine.execDebugRead s
  | .powerLimitControl => Sys2Proof.Machine.execPowerLimitControl s
  | .thermalThrottle => Sys2Proof.Machine.execThermalThrottle s
  | .thermalShutdown => Sys2Proof.Machine.execThermalShutdown s
  | .tdispStateChange => Sys2Proof.Machine.execTdispStateChange s
  | .expanderFailure => Sys2Proof.Machine.execExpanderFailure s
  | .add d a b => Sys2Proof.Machine.execAdd d a b s
  | .sub d a b => Sys2Proof.Machine.execSub d a b s
  | .and d a b => Sys2Proof.Machine.execAnd d a b s
  | .or d a b => Sys2Proof.Machine.execOr d a b s
  | .xor d a b => Sys2Proof.Machine.execXor d a b s
  | .andn d a b => Sys2Proof.Machine.execAndn d a b s
  | .orn d a b => Sys2Proof.Machine.execOrn d a b s
  | .xnor d a b => Sys2Proof.Machine.execXnor d a b s
  | .sll d a b => Sys2Proof.Machine.execSll d a b s
  | .srl d a b => Sys2Proof.Machine.execSrl d a b s
  | .sra d a b => Sys2Proof.Machine.execSra d a b s
  | .rol d a b => Sys2Proof.Machine.execRol d a b s
  | .ror d a b => Sys2Proof.Machine.execRor d a b s
  | .slt d a b => Sys2Proof.Machine.execSlt d a b s
  | .sltu d a b => Sys2Proof.Machine.execSltu d a b s
  | .seq d a b => Sys2Proof.Machine.execSeq d a b s
  | .min d a b => Sys2Proof.Machine.execMin d a b s
  | .max d a b => Sys2Proof.Machine.execMax d a b s
  | .minu d a b => Sys2Proof.Machine.execMinu d a b s
  | .maxu d a b => Sys2Proof.Machine.execMaxu d a b s
  | .csel d a b c => Sys2Proof.Machine.execCsel d a b c s
  | .mul d a b => Sys2Proof.Machine.execMul d a b s
  | .mulh d a b => Sys2Proof.Machine.execMulh d a b s
  | .mulhu d a b => Sys2Proof.Machine.execMulhu d a b s
  | .div d a b => Sys2Proof.Machine.execDiv d a b s
  | .divu d a b => Sys2Proof.Machine.execDivu d a b s
  | .rem d a b => Sys2Proof.Machine.execRem d a b s
  | .remu d a b => Sys2Proof.Machine.execRemu d a b s
  | .clz d a => Sys2Proof.Machine.execClz d a s
  | .ctz d a => Sys2Proof.Machine.execCtz d a s
  | .popc d a => Sys2Proof.Machine.execPopc d a s
  | .sextB d a => Sys2Proof.Machine.execSextB d a s
  | .sextH d a => Sys2Proof.Machine.execSextH d a s
  | .sextW d a => Sys2Proof.Machine.execSextW d a s
  | .zextW d a => Sys2Proof.Machine.execZextW d a s
  | .brev d a => Sys2Proof.Machine.execBrev d a s
  | .abs d a => Sys2Proof.Machine.execAbs d a s
  | .addsl d a b n => Sys2Proof.Machine.execAddsl d a b n s
  | .addi d a imm => Sys2Proof.Machine.execAddi d a imm s
  | .andi d a imm => Sys2Proof.Machine.execAndi d a imm s
  | .ori d a imm => Sys2Proof.Machine.execOri d a imm s
  | .xori d a imm => Sys2Proof.Machine.execXori d a imm s
  | .slti d a imm => Sys2Proof.Machine.execSlti d a imm s
  | .sltiu d a imm => Sys2Proof.Machine.execSltiu d a imm s
  | .slli d a n => Sys2Proof.Machine.execSlli d a n s
  | .srli d a n => Sys2Proof.Machine.execSrli d a n s
  | .srai d a n => Sys2Proof.Machine.execSrai d a n s
  | .roli d a n => Sys2Proof.Machine.execRoli d a n s
  | .rori d a n => Sys2Proof.Machine.execRori d a n s
  | .lih d imm => Sys2Proof.Machine.execLih d imm s
  | .lia d imm => Sys2Proof.Machine.execLia d imm s
  | .bEq a b off => Sys2Proof.Machine.execBEq a b off s
  | .bNe a b off => Sys2Proof.Machine.execBNe a b off s
  | .bLt a b off => Sys2Proof.Machine.execBLt a b off s
  | .bGe a b off => Sys2Proof.Machine.execBGe a b off s
  | .bLtu a b off => Sys2Proof.Machine.execBLtu a b off s
  | .bGeu a b off => Sys2Proof.Machine.execBGeu a b off s
  | .j off => Sys2Proof.Machine.execJ off s
  | .call off k => Sys2Proof.Machine.execCall off k s
  | .jr a => Sys2Proof.Machine.execJr a s
  | .callr a k => Sys2Proof.Machine.execCallr a k s
  | .ret => Sys2Proof.Machine.execRet s
  | .loop a len => Sys2Proof.Machine.execLoop a len s
  | .loopi count len => Sys2Proof.Machine.execLoopi count len s
  | .ld d a imm sz => Sys2Proof.Machine.execLd d a imm sz s
  | .st d a imm sz => Sys2Proof.Machine.execSt d a imm sz s
  | .fld d a imm sz => Sys2Proof.Machine.execFld d a imm sz s
  | .fst d a imm sz => Sys2Proof.Machine.execFst d a imm sz s
  | .fadd d a b ty rnd => Sys2Proof.Machine.execFadd d a b ty rnd s
  | .fsub d a b ty rnd => Sys2Proof.Machine.execFsub d a b ty rnd s
  | .fmul d a b ty rnd => Sys2Proof.Machine.execFmul d a b ty rnd s
  | .fdiv d a b ty rnd => Sys2Proof.Machine.execFdiv d a b ty rnd s
  | .fsqrt d a ty rnd => Sys2Proof.Machine.execFsqrt d a ty rnd s
  | .fmin d a b ty => Sys2Proof.Machine.execFmin d a b ty s
  | .fmax d a b ty => Sys2Proof.Machine.execFmax d a b ty s
  | .fsgnj d a b ty => Sys2Proof.Machine.execFsgnj d a b ty s
  | .fsgnjn d a b ty => Sys2Proof.Machine.execFsgnjn d a b ty s
  | .fsgnjx d a b ty => Sys2Proof.Machine.execFsgnjx d a b ty s
  | .feq d a b ty => Sys2Proof.Machine.execFeq d a b ty s
  | .flt d a b ty => Sys2Proof.Machine.execFlt d a b ty s
  | .fle d a b ty => Sys2Proof.Machine.execFle d a b ty s
  | .fclass d a ty => Sys2Proof.Machine.execFclass d a ty s
  | .fcvt d a src ty rnd => Sys2Proof.Machine.execFcvt d a src ty rnd s
  | .fcvtI d a ty rnd => Sys2Proof.Machine.execFcvtI d a ty rnd s
  | .fcvtFromI d a ty rnd => Sys2Proof.Machine.execFcvtFromI d a ty rnd s
  | .fmvX d a ty => Sys2Proof.Machine.execFmvX d a ty s
  | .fmvF d a ty => Sys2Proof.Machine.execFmvF d a ty s
  | .fmadd d a b c ty rnd => Sys2Proof.Machine.execFmadd d a b c ty rnd s
  | .fmsub d a b c ty rnd => Sys2Proof.Machine.execFmsub d a b c ty rnd s
  | .fnmadd d a b c ty rnd => Sys2Proof.Machine.execFnmadd d a b c ty rnd s
  | .fnmsub d a b c ty rnd => Sys2Proof.Machine.execFnmsub d a b c ty rnd s
  | .fgetx d a b => Sys2Proof.Machine.execFgetx d a b s
  | .fputx d a b => Sys2Proof.Machine.execFputx d a b s
  | .xgetx d a b => Sys2Proof.Machine.execXgetx d a b s
  | .xputx d a b => Sys2Proof.Machine.execXputx d a b s
  | .gets d n => Sys2Proof.Machine.execGets d n s
  | .puts a n => Sys2Proof.Machine.execPuts a n s
  | .nop => Sys2Proof.Machine.execNop s
  | .trap imm => Sys2Proof.Machine.execTrap imm s
  | .brk imm => Sys2Proof.Machine.execBrk imm s
  | .tret => Sys2Proof.Machine.execTret s
  | .texit imm => Sys2Proof.Machine.execTexit imm s
  | .wfe => Sys2Proof.Machine.execWfe s
  | .sev a => Sys2Proof.Machine.execSev a s
  | .popev d => Sys2Proof.Machine.execPopev d s
  | .region msk => Sys2Proof.Machine.execRegion msk s
  | .commit => Sys2Proof.Machine.execCommit s
  | .abort => Sys2Proof.Machine.execAbort s
  | .gang n => Sys2Proof.Machine.execGang n s
  | .split => Sys2Proof.Machine.execSplit s
  | .fence scope => Sys2Proof.Machine.execFence scope s
  | .probe d a => Sys2Proof.Machine.execProbe d a s
  | .send a b => Sys2Proof.Machine.execSend a b s
  | .recv d => Sys2Proof.Machine.execRecv d s
  | .grp grp => Sys2Proof.Machine.execGrp grp s
  | .rel a b => Sys2Proof.Machine.execRel a b s
  | .grpq d grp => Sys2Proof.Machine.execGrpq d grp s
  | .ldG d a imm sz => Sys2Proof.Machine.execLdG d a imm sz s
  | .ldAcq d a imm sz scope => Sys2Proof.Machine.execLdAcq d a imm sz scope s
  | .stG d a imm sz => Sys2Proof.Machine.execStG d a imm sz s
  | .stRel d a imm sz scope => Sys2Proof.Machine.execStRel d a imm sz scope s
  | .atomAdd d a b ar sz scope => Sys2Proof.Machine.execAtomAdd d a b ar sz scope s
  | .atomAnd d a b ar sz scope => Sys2Proof.Machine.execAtomAnd d a b ar sz scope s
  | .atomOr d a b ar sz scope => Sys2Proof.Machine.execAtomOr d a b ar sz scope s
  | .atomXor d a b ar sz scope => Sys2Proof.Machine.execAtomXor d a b ar sz scope s
  | .atomMin d a b ar sz scope => Sys2Proof.Machine.execAtomMin d a b ar sz scope s
  | .atomMax d a b ar sz scope => Sys2Proof.Machine.execAtomMax d a b ar sz scope s
  | .atomMinu d a b ar sz scope => Sys2Proof.Machine.execAtomMinu d a b ar sz scope s
  | .atomMaxu d a b ar sz scope => Sys2Proof.Machine.execAtomMaxu d a b ar sz scope s
  | .atomSwap d a b ar sz scope => Sys2Proof.Machine.execAtomSwap d a b ar sz scope s
  | .atomCas d a b ar sz scope => Sys2Proof.Machine.execAtomCas d a b ar sz scope s
  | .atomFaddS d a b ar scope => Sys2Proof.Machine.execAtomFaddS d a b ar scope s
  | .atomFminS d a b ar scope => Sys2Proof.Machine.execAtomFminS d a b ar scope s
  | .atomFmaxS d a b ar scope => Sys2Proof.Machine.execAtomFmaxS d a b ar scope s
  | .wait ld st cp mx => Sys2Proof.Machine.execWait ld st cp mx s
  | .vadd d a b ty mask => Sys2Proof.Machine.execVadd d a b ty mask s
  | .vsub d a b ty mask => Sys2Proof.Machine.execVsub d a b ty mask s
  | .vmul d a b ty mask => Sys2Proof.Machine.execVmul d a b ty mask s
  | .vmulh d a b ty mask => Sys2Proof.Machine.execVmulh d a b ty mask s
  | .vmulhu d a b ty mask => Sys2Proof.Machine.execVmulhu d a b ty mask s
  | .vmin d a b ty mask => Sys2Proof.Machine.execVmin d a b ty mask s
  | .vmax d a b ty mask => Sys2Proof.Machine.execVmax d a b ty mask s
  | .vminu d a b ty mask => Sys2Proof.Machine.execVminu d a b ty mask s
  | .vmaxu d a b ty mask => Sys2Proof.Machine.execVmaxu d a b ty mask s
  | .vand d a b ty mask => Sys2Proof.Machine.execVand d a b ty mask s
  | .vor d a b ty mask => Sys2Proof.Machine.execVor d a b ty mask s
  | .vxor d a b ty mask => Sys2Proof.Machine.execVxor d a b ty mask s
  | .vsll d a b ty mask => Sys2Proof.Machine.execVsll d a b ty mask s
  | .vsrl d a b ty mask => Sys2Proof.Machine.execVsrl d a b ty mask s
  | .vsra d a b ty mask => Sys2Proof.Machine.execVsra d a b ty mask s
  | .vadds d a b ty mask => Sys2Proof.Machine.execVadds d a b ty mask s
  | .vsubs d a b ty mask => Sys2Proof.Machine.execVsubs d a b ty mask s
  | .vabs d a ty mask => Sys2Proof.Machine.execVabs d a ty mask s
  | .vneg d a ty mask => Sys2Proof.Machine.execVneg d a ty mask s
  | .vdup d a ty mask => Sys2Proof.Machine.execVdup d a ty mask s
  | .vfadd d a b ty mask => Sys2Proof.Machine.execVfadd d a b ty mask s
  | .vfsub d a b ty mask => Sys2Proof.Machine.execVfsub d a b ty mask s
  | .vfmul d a b ty mask => Sys2Proof.Machine.execVfmul d a b ty mask s
  | .vfdiv d a b ty mask => Sys2Proof.Machine.execVfdiv d a b ty mask s
  | .vfsqrt d a ty mask => Sys2Proof.Machine.execVfsqrt d a ty mask s
  | .vfmin d a b ty mask => Sys2Proof.Machine.execVfmin d a b ty mask s
  | .vfmax d a b ty mask => Sys2Proof.Machine.execVfmax d a b ty mask s
  | .vfabs d a ty mask => Sys2Proof.Machine.execVfabs d a ty mask s
  | .vfneg d a ty mask => Sys2Proof.Machine.execVfneg d a ty mask s
  | .vfdup d a ty mask => Sys2Proof.Machine.execVfdup d a ty mask s
  | .vfmadd d a b ty mask => Sys2Proof.Machine.execVfmadd d a b ty mask s
  | .vfmsub d a b ty mask => Sys2Proof.Machine.execVfmsub d a b ty mask s
  | .vfnmadd d a b ty mask => Sys2Proof.Machine.execVfnmadd d a b ty mask s
  | .vfnmsub d a b ty mask => Sys2Proof.Machine.execVfnmsub d a b ty mask s
  | .vceq d a b ty mask => Sys2Proof.Machine.execVceq d a b ty mask s
  | .vcne d a b ty mask => Sys2Proof.Machine.execVcne d a b ty mask s
  | .vclt d a b ty mask => Sys2Proof.Machine.execVclt d a b ty mask s
  | .vcle d a b ty mask => Sys2Proof.Machine.execVcle d a b ty mask s
  | .vcltu d a b ty mask => Sys2Proof.Machine.execVcltu d a b ty mask s
  | .vcleu d a b ty mask => Sys2Proof.Machine.execVcleu d a b ty mask s
  | .vfceq d a b ty mask => Sys2Proof.Machine.execVfceq d a b ty mask s
  | .vfclt d a b ty mask => Sys2Proof.Machine.execVfclt d a b ty mask s
  | .vfcle d a b ty mask => Sys2Proof.Machine.execVfcle d a b ty mask s
  | .vsel d a b ty mask => Sys2Proof.Machine.execVsel d a b ty mask s
  | .vperm d a b ty mask => Sys2Proof.Machine.execVperm d a b ty mask s
  | .vslup d a b ty mask => Sys2Proof.Machine.execVslup d a b ty mask s
  | .vsldn d a b ty mask => Sys2Proof.Machine.execVsldn d a b ty mask s
  | .vrsum d a ty mask => Sys2Proof.Machine.execVrsum d a ty mask s
  | .vrmin d a ty mask => Sys2Proof.Machine.execVrmin d a ty mask s
  | .vrmax d a ty mask => Sys2Proof.Machine.execVrmax d a ty mask s
  | .vfrsum d a ty mask => Sys2Proof.Machine.execVfrsum d a ty mask s
  | .vfrmin d a ty mask => Sys2Proof.Machine.execVfrmin d a ty mask s
  | .vfrmax d a ty mask => Sys2Proof.Machine.execVfrmax d a ty mask s
  | .vext d a b ty => Sys2Proof.Machine.execVext d a b ty s
  | .vins d a b ty => Sys2Proof.Machine.execVins d a b ty s
  | .vcvt d a src dst rnd mask => Sys2Proof.Machine.execVcvt d a src dst rnd mask s
  | .mand d a b => Sys2Proof.Machine.execMand d a b s
  | .mor d a b => Sys2Proof.Machine.execMor d a b s
  | .mxor d a b => Sys2Proof.Machine.execMxor d a b s
  | .mandn d a b => Sys2Proof.Machine.execMandn d a b s
  | .mnot d a => Sys2Proof.Machine.execMnot d a s
  | .mpopc d a => Sys2Proof.Machine.execMpopc d a s
  | .mfirst d a => Sys2Proof.Machine.execMfirst d a s
  | .mfromx d a => Sys2Proof.Machine.execMfromx d a s
  | .mtox d a => Sys2Proof.Machine.execMtox d a s
  | .vld d a off mask => Sys2Proof.Machine.execVld d a off mask s
  | .vst d a off mask => Sys2Proof.Machine.execVst d a off mask s
  | .vgather d a b ty mask => Sys2Proof.Machine.execVgather d a b ty mask s
  | .vscatter d a b ty mask => Sys2Proof.Machine.execVscatter d a b ty mask s
  | .mmaLo a b f n pair => Sys2Proof.Machine.execMmaLo a b f n pair s
  | .mmaHi a b f n pair => Sys2Proof.Machine.execMmaHi a b f n pair s
  | .mclr n => Sys2Proof.Machine.execMclr n s
  | .mld n a ty => Sys2Proof.Machine.execMld n a ty s
  | .mst n a ty rnd => Sys2Proof.Machine.execMst n a ty rnd s
  | .mcfg a n => Sys2Proof.Machine.execMcfg a n s
  | .vpackM8 d a b rnd => Sys2Proof.Machine.execVpackM8 d a b rnd s
  | .vpackE43 d a b rnd => Sys2Proof.Machine.execVpackE43 d a b rnd s
  | .vpackE52 d a b rnd => Sys2Proof.Machine.execVpackE52 d a b rnd s
  | .vpackE23 d a b rnd => Sys2Proof.Machine.execVpackE23 d a b rnd s
  | .vpackE32 d a b rnd => Sys2Proof.Machine.execVpackE32 d a b rnd s
  | .vpackE21 d a b rnd => Sys2Proof.Machine.execVpackE21 d a b rnd s
  | .vpackI8 d a b rnd => Sys2Proof.Machine.execVpackI8 d a b rnd s
  | .cp a b ch => Sys2Proof.Machine.execCp a b ch s
  | .cpMc a b ch => Sys2Proof.Machine.execCpMc a b ch s
  | .cpDec a b ch => Sys2Proof.Machine.execCpDec a b ch s
  | .subscr a b ch => Sys2Proof.Machine.execSubscr a b ch s
  | .srel a ch => Sys2Proof.Machine.execSrel a ch s
  | .chinit a b ch => Sys2Proof.Machine.execChinit a b ch s
  | .chq d ch => Sys2Proof.Machine.execChq d ch s
  | .cpcfg a n => Sys2Proof.Machine.execCpcfg a n s
  | .waitc ch => Sys2Proof.Machine.execWaitc ch s
  | .nopC => Sys2Proof.Machine.execNopC s
  | .addCX0 d sr => Sys2Proof.Machine.execAddCX0 d sr s
  | .addC d sr => Sys2Proof.Machine.execAddC d sr s
  | .subC d sr => Sys2Proof.Machine.execSubC d sr s
  | .andC d sr => Sys2Proof.Machine.execAndC d sr s
  | .orC d sr => Sys2Proof.Machine.execOrC d sr s
  | .xorC d sr => Sys2Proof.Machine.execXorC d sr s
  | .addiC d imm => Sys2Proof.Machine.execAddiC d imm s
  | .addiCX0 d imm => Sys2Proof.Machine.execAddiCX0 d imm s
  | .slliC d n => Sys2Proof.Machine.execSlliC d n s
  | .srliC d n => Sys2Proof.Machine.execSrliC d n s
  | .sraiC d n => Sys2Proof.Machine.execSraiC d n s
  | .ldDC d sr => Sys2Proof.Machine.execLdDC d sr s
  | .stDC d sr => Sys2Proof.Machine.execStDC d sr s
  | .ldWC d sr => Sys2Proof.Machine.execLdWC d sr s
  | .stWC d sr => Sys2Proof.Machine.execStWC d sr s
  | .jrC sr => Sys2Proof.Machine.execJrC sr s
  | .retC => Sys2Proof.Machine.execRetC s
  | .texitC => Sys2Proof.Machine.execTexitC s
  | .wfeC => Sys2Proof.Machine.execWfeC s
  | .faddSC d sr => Sys2Proof.Machine.execFaddSC d sr s
  | .fmulSC d sr => Sys2Proof.Machine.execFmulSC d sr s
  | .illegalInstruction word => Sys2Proof.Machine.execIllegalInstruction word s
  | .fetchFault rights addr => Sys2Proof.Machine.execFetchFault rights addr s
  | .storeBufferPerform => Sys2Proof.Machine.execStoreBufferPerform s
  | .releaseConditionMet => Sys2Proof.Machine.execReleaseConditionMet s
  | .softError => Sys2Proof.Machine.execSoftError s
  | .linkRetrainComplete => Sys2Proof.Machine.execLinkRetrainComplete s
  | .cxlLinkState => Sys2Proof.Machine.execCxlLinkState s
  | .hostAtomicop => Sys2Proof.Machine.execHostAtomicop s
  | .ideKeyProgramming => Sys2Proof.Machine.execIdeKeyProgramming s
  | .thermalThrottleEnd => Sys2Proof.Machine.execThermalThrottleEnd s

end Sys2Proof.Machine
end

