-- ==== Sys2Proof/WellFormed.lean ====
section
/-! DEFINITION. The field rules that the constructors' types do not say (03 R55 to R65, R68; 10 R207; 20 R321). -/

namespace Sys2Proof

/-- `vcvt` codes that name an integer format (03 R63). -/
def CFmt.isInt : CFmt → Bool
  | .ib | .ih | .iw | .id => true
  | .h | .bf | .s | .d => false

/-- ATOM: a plain atomic has scope 0, and size .q is for `cas` with even registers (03 R56; 10 R207). -/
def atomOk (ar : Bool) (sc : Scope) : Bool := ar || sc == .die

/-- Size .q is not for this operation (03 R56). -/
def notQuad (sz : ASize) : Bool := sz != .q

/-- How many of the optional groups, bits 7 to 10, a region mask names (20 R321). -/
def optGroups (m : BitVec 11) : Nat :=
  (m.getLsbD 7).toNat + (m.getLsbD 8).toNat + (m.getLsbD 9).toNat + (m.getLsbD 10).toNat

/-- The operand values that an encoding admits; an encoding with others traps ILLEGAL (03 R68). -/
def Instr.wellFormed : Instr → Bool
  | .call _ k => k ≤ 24
  | .callr _ k => k ≤ 24
  | .fcvt _ _ src ty _ => src != ty
  | .vcvt _ _ src dst rnd _ => src != dst && (!(src.isInt && dst.isInt) || rnd == .rne)
  | .mst _ _ ty rnd => ty != .s || rnd == .rne
  | .region m => optGroups m ≤ 2
  | .gang n => n == 2 || n == 4 || n == 8
  | .grp g => g ≤ 16
  | .rel _ b => b ≤ 16
  | .grpq _ g => g ≤ 15
  | .atomAdd _ _ _ ar sz sc => atomOk ar sc && notQuad sz
  | .atomAnd _ _ _ ar sz sc => atomOk ar sc && notQuad sz
  | .atomOr _ _ _ ar sz sc => atomOk ar sc && notQuad sz
  | .atomXor _ _ _ ar sz sc => atomOk ar sc && notQuad sz
  | .atomMin _ _ _ ar sz sc => atomOk ar sc && notQuad sz
  | .atomMax _ _ _ ar sz sc => atomOk ar sc && notQuad sz
  | .atomMinu _ _ _ ar sz sc => atomOk ar sc && notQuad sz
  | .atomMaxu _ _ _ ar sz sc => atomOk ar sc && notQuad sz
  | .atomSwap _ _ _ ar sz sc => atomOk ar sc && notQuad sz
  | .atomCas d _ b ar sz sc => atomOk ar sc && (notQuad sz || (!d.getLsbD 0 && !b.getLsbD 0))
  | .atomFaddS _ _ _ ar sc => atomOk ar sc
  | .atomFminS _ _ _ ar sc => atomOk ar sc
  | .atomFmaxS _ _ _ ar sc => atomOk ar sc
  | _ => true

end Sys2Proof
end

