-- ==== Sys2Proof/Decode.lean ====
section
/-! DEFINITION. The decoder (03 R50 to R68), total on any bytes, and the encoder written from the same tables. -/

namespace Sys2Proof

/-- Why bytes are no instruction. -/
inductive Reject where
  /-- fewer bytes than the first parcel has -/
  | noFirstParcel
  /-- bit 0 of the first parcel is 1 and its second parcel is missing -/
  | noSecondParcel
  /-- the parcel or word is not an instruction (03 R68) -/
  | illegal (word : Nat)
  deriving DecidableEq, Repr

/-- The field of `n` bits at bit `lo`. -/
def fld (w lo n : Nat) : BitVec n := BitVec.ofNat n (bits w lo n)

/-- A candidate that keeps the field rules of 03 R55 to R65, or nothing (03 R68). -/
def keep (i : Instr) : Option Instr := if i.wellFormed then some i else none

/-- The code of the field (03 Table 3-4). -/
def Size.code : Size → Nat
  | .b => 0
  | .h => 1
  | .w => 2
  | .d => 3

/-- What a code of the field stands for (03 Table 3-4). -/
def Size.ofCode : Nat → Size
  | 0 => .b
  | 1 => .h
  | 2 => .w
  | _ => .d

/-- The code of the field (03 Table 3-4). -/
def Scope.code : Scope → Nat
  | .die => 0
  | .pkg => 1
  | .dom => 2
  | .sys => 3

/-- What a code of the field stands for (03 Table 3-4). -/
def Scope.ofCode : Nat → Scope
  | 0 => .die
  | 1 => .pkg
  | 2 => .dom
  | _ => .sys

/-- The code of the field (03 Table 3-4). -/
def Rnd.code : Rnd → Nat
  | .rne => 0
  | .rtz => 1
  | .rto => 2
  | .rsr => 3

/-- What a code of the field stands for (03 Table 3-4). -/
def Rnd.ofCode : Nat → Rnd
  | 0 => .rne
  | 1 => .rtz
  | 2 => .rto
  | _ => .rsr

/-- The code of the field (03 Table 3-4). -/
def IType.code : IType → Nat
  | .b => 0
  | .h => 1
  | .w => 2
  | .d => 3

/-- What a code of the field stands for (03 Table 3-4). -/
def IType.ofCode : Nat → IType
  | 0 => .b
  | 1 => .h
  | 2 => .w
  | _ => .d

/-- The code of the field (03 Table 3-4). -/
def FType.code : FType → Nat
  | .h => 0
  | .bf => 1
  | .s => 2
  | .d => 3

/-- What a code of the field stands for (03 Table 3-4). -/
def FType.ofCode : Nat → FType
  | 0 => .h
  | 1 => .bf
  | 2 => .s
  | _ => .d

/-- The code of the field (03 R63). -/
def CFmt.code : CFmt → Nat
  | .ib => 0
  | .ih => 1
  | .iw => 2
  | .id => 3
  | .h => 4
  | .bf => 5
  | .s => 6
  | .d => 7

/-- What a code of the field stands for (03 R63). -/
def CFmt.ofCode : Nat → CFmt
  | 0 => .ib
  | 1 => .ih
  | 2 => .iw
  | 3 => .id
  | 4 => .h
  | 5 => .bf
  | 6 => .s
  | _ => .d

/-- The code of the field (03 Table 3-4). -/
def FSize.code : FSize → Nat
  | .h => 1
  | .s => 2
  | .d => 3

/-- What a code of the field stands for, if it is assigned (03 Table 3-4). -/
def FSize.ofCode? : Nat → Option FSize
  | 1 => some .h
  | 2 => some .s
  | 3 => some .d
  | _ => none

/-- The code of the field (03 Table 3-4). -/
def ASize.code : ASize → Nat
  | .w => 0
  | .d => 1
  | .q => 2

/-- What a code of the field stands for, if it is assigned (03 Table 3-4). -/
def ASize.ofCode? : Nat → Option ASize
  | 0 => some .w
  | 1 => some .d
  | 2 => some .q
  | _ => none

/-- The code of the field (03 R64). -/
def MType.code : MType → Nat
  | .s => 0
  | .bf => 1
  | .h => 2

/-- What a code of the field stands for, if it is assigned (03 R64). -/
def MType.ofCode? : Nat → Option MType
  | 0 => some .s
  | 1 => some .bf
  | 2 => some .h
  | _ => none

/-- The code of the field (03 Table 3-10). -/
def Pair.code : Pair → Nat
  | .m8m8 => 0
  | .e43e43 => 1
  | .e43e52 => 2
  | .e52e43 => 3
  | .e52e52 => 4
  | .i8i8 => 5
  | .e23e23 => 6
  | .e23e32 => 7
  | .e32e23 => 8
  | .e32e32 => 9
  | .e21e21 => 10
  | .bfbf => 11
  | .hh => 12

/-- What a code of the field stands for, if it is assigned (03 Table 3-10). -/
def Pair.ofCode? : Nat → Option Pair
  | 0 => some .m8m8
  | 1 => some .e43e43
  | 2 => some .e43e52
  | 3 => some .e52e43
  | 4 => some .e52e52
  | 5 => some .i8i8
  | 6 => some .e23e23
  | 7 => some .e23e32
  | 8 => some .e32e23
  | 9 => some .e32e32
  | 10 => some .e21e21
  | 11 => some .bfbf
  | 12 => some .hh
  | _ => none

/-- Major 0x01 (03 R52 to R65). -/
def decodeAlu (w : Nat) : Option Instr :=
  match bits w 27 5 with
  | 0 => if bits w 22 5 = 0 then some (.add (fld w 7 5) (fld w 12 5) (fld w 17 5)) else none
  | 1 => if bits w 22 5 = 0 then some (.sub (fld w 7 5) (fld w 12 5) (fld w 17 5)) else none
  | 2 => if bits w 22 5 = 0 then some (.and (fld w 7 5) (fld w 12 5) (fld w 17 5)) else none
  | 3 => if bits w 22 5 = 0 then some (.or (fld w 7 5) (fld w 12 5) (fld w 17 5)) else none
  | 4 => if bits w 22 5 = 0 then some (.xor (fld w 7 5) (fld w 12 5) (fld w 17 5)) else none
  | 5 => if bits w 22 5 = 0 then some (.andn (fld w 7 5) (fld w 12 5) (fld w 17 5)) else none
  | 6 => if bits w 22 5 = 0 then some (.orn (fld w 7 5) (fld w 12 5) (fld w 17 5)) else none
  | 7 => if bits w 22 5 = 0 then some (.xnor (fld w 7 5) (fld w 12 5) (fld w 17 5)) else none
  | 8 => if bits w 22 5 = 0 then some (.sll (fld w 7 5) (fld w 12 5) (fld w 17 5)) else none
  | 9 => if bits w 22 5 = 0 then some (.srl (fld w 7 5) (fld w 12 5) (fld w 17 5)) else none
  | 10 => if bits w 22 5 = 0 then some (.sra (fld w 7 5) (fld w 12 5) (fld w 17 5)) else none
  | 11 => if bits w 22 5 = 0 then some (.rol (fld w 7 5) (fld w 12 5) (fld w 17 5)) else none
  | 12 => if bits w 22 5 = 0 then some (.ror (fld w 7 5) (fld w 12 5) (fld w 17 5)) else none
  | 13 => if bits w 22 5 = 0 then some (.slt (fld w 7 5) (fld w 12 5) (fld w 17 5)) else none
  | 14 => if bits w 22 5 = 0 then some (.sltu (fld w 7 5) (fld w 12 5) (fld w 17 5)) else none
  | 15 => if bits w 22 5 = 0 then some (.seq (fld w 7 5) (fld w 12 5) (fld w 17 5)) else none
  | 16 => if bits w 22 5 = 0 then some (.min (fld w 7 5) (fld w 12 5) (fld w 17 5)) else none
  | 17 => if bits w 22 5 = 0 then some (.max (fld w 7 5) (fld w 12 5) (fld w 17 5)) else none
  | 18 => if bits w 22 5 = 0 then some (.minu (fld w 7 5) (fld w 12 5) (fld w 17 5)) else none
  | 19 => if bits w 22 5 = 0 then some (.maxu (fld w 7 5) (fld w 12 5) (fld w 17 5)) else none
  | 20 => some (.csel (fld w 7 5) (fld w 12 5) (fld w 17 5) (fld w 22 5))
  | 21 => if bits w 22 5 = 0 then some (.mul (fld w 7 5) (fld w 12 5) (fld w 17 5)) else none
  | 22 => if bits w 22 5 = 0 then some (.mulh (fld w 7 5) (fld w 12 5) (fld w 17 5)) else none
  | 23 => if bits w 22 5 = 0 then some (.mulhu (fld w 7 5) (fld w 12 5) (fld w 17 5)) else none
  | 24 => if bits w 22 5 = 0 then some (.div (fld w 7 5) (fld w 12 5) (fld w 17 5)) else none
  | 25 => if bits w 22 5 = 0 then some (.divu (fld w 7 5) (fld w 12 5) (fld w 17 5)) else none
  | 26 => if bits w 22 5 = 0 then some (.rem (fld w 7 5) (fld w 12 5) (fld w 17 5)) else none
  | 27 => if bits w 22 5 = 0 then some (.remu (fld w 7 5) (fld w 12 5) (fld w 17 5)) else none
  | _ => none

/-- Major 0x02 (03 R52 to R65). -/
def decodeAlu1 (w : Nat) : Option Instr :=
  match bits w 27 5 with
  | 0 => if bits w 17 10 = 0 then some (.clz (fld w 7 5) (fld w 12 5)) else none
  | 1 => if bits w 17 10 = 0 then some (.ctz (fld w 7 5) (fld w 12 5)) else none
  | 2 => if bits w 17 10 = 0 then some (.popc (fld w 7 5) (fld w 12 5)) else none
  | 3 => if bits w 17 10 = 0 then some (.sextB (fld w 7 5) (fld w 12 5)) else none
  | 4 => if bits w 17 10 = 0 then some (.sextH (fld w 7 5) (fld w 12 5)) else none
  | 5 => if bits w 17 10 = 0 then some (.sextW (fld w 7 5) (fld w 12 5)) else none
  | 6 => if bits w 17 10 = 0 then some (.zextW (fld w 7 5) (fld w 12 5)) else none
  | 7 => if bits w 17 10 = 0 then some (.brev (fld w 7 5) (fld w 12 5)) else none
  | 8 => if bits w 17 10 = 0 then some (.abs (fld w 7 5) (fld w 12 5)) else none
  | _ => none

/-- Major 0x0a (03 R52 to R65). -/
def decodeShi (w : Nat) : Option Instr :=
  match bits w 28 4 with
  | 0 => if bits w 17 5 = 0 then some (.slli (fld w 7 5) (fld w 12 5) (fld w 22 6)) else none
  | 1 => if bits w 17 5 = 0 then some (.srli (fld w 7 5) (fld w 12 5) (fld w 22 6)) else none
  | 2 => if bits w 17 5 = 0 then some (.srai (fld w 7 5) (fld w 12 5) (fld w 22 6)) else none
  | 3 => if bits w 17 5 = 0 then some (.roli (fld w 7 5) (fld w 12 5) (fld w 22 6)) else none
  | 4 => if bits w 17 5 = 0 then some (.rori (fld w 7 5) (fld w 12 5) (fld w 22 6)) else none
  | _ => none

/-- Major 0x10 (03 R58). -/
def decodeBr (w : Nat) : Option Instr :=
  match bits w 7 3 with
  | 0 => some (.bEq (fld w 12 5) (fld w 17 5) (BitVec.ofNat 12 (bits w 22 10 * 4 + bits w 10 2)))
  | 1 => some (.bNe (fld w 12 5) (fld w 17 5) (BitVec.ofNat 12 (bits w 22 10 * 4 + bits w 10 2)))
  | 2 => some (.bLt (fld w 12 5) (fld w 17 5) (BitVec.ofNat 12 (bits w 22 10 * 4 + bits w 10 2)))
  | 3 => some (.bGe (fld w 12 5) (fld w 17 5) (BitVec.ofNat 12 (bits w 22 10 * 4 + bits w 10 2)))
  | 4 => some (.bLtu (fld w 12 5) (fld w 17 5) (BitVec.ofNat 12 (bits w 22 10 * 4 + bits w 10 2)))
  | 5 => some (.bGeu (fld w 12 5) (fld w 17 5) (BitVec.ofNat 12 (bits w 22 10 * 4 + bits w 10 2)))
  | _ => none

/-- Major 0x13 (03 R58). -/
def decodeJmp (w : Nat) : Option Instr :=
  match bits w 27 5 with
  | 0 => if bits w 7 5 = 0 ∧ bits w 17 10 = 0 then some (.jr (fld w 12 5)) else none
  | 1 => if bits w 7 5 = 0 ∧ bits w 17 5 = 0 then keep (.callr (fld w 12 5) (fld w 22 5)) else none
  | 2 => if bits w 7 20 = 0 then some .ret else none
  | _ => none

/-- Major 0x20 (03 R52 to R65). -/
def decodeFop (w : Nat) : Option Instr :=
  match bits w 27 5 with
  | 0 => if bits w 22 1 = 0 then some (.fadd (fld w 7 5) (fld w 12 5) (fld w 17 5) (FType.ofCode (bits w 25 2)) (Rnd.ofCode (bits w 23 2))) else none
  | 1 => if bits w 22 1 = 0 then some (.fsub (fld w 7 5) (fld w 12 5) (fld w 17 5) (FType.ofCode (bits w 25 2)) (Rnd.ofCode (bits w 23 2))) else none
  | 2 => if bits w 22 1 = 0 then some (.fmul (fld w 7 5) (fld w 12 5) (fld w 17 5) (FType.ofCode (bits w 25 2)) (Rnd.ofCode (bits w 23 2))) else none
  | 3 => if bits w 22 1 = 0 then some (.fdiv (fld w 7 5) (fld w 12 5) (fld w 17 5) (FType.ofCode (bits w 25 2)) (Rnd.ofCode (bits w 23 2))) else none
  | 4 => if bits w 17 6 = 0 then some (.fsqrt (fld w 7 5) (fld w 12 5) (FType.ofCode (bits w 25 2)) (Rnd.ofCode (bits w 23 2))) else none
  | 5 => if bits w 22 3 = 0 then some (.fmin (fld w 7 5) (fld w 12 5) (fld w 17 5) (FType.ofCode (bits w 25 2))) else none
  | 6 => if bits w 22 3 = 0 then some (.fmax (fld w 7 5) (fld w 12 5) (fld w 17 5) (FType.ofCode (bits w 25 2))) else none
  | 7 => if bits w 22 3 = 0 then some (.fsgnj (fld w 7 5) (fld w 12 5) (fld w 17 5) (FType.ofCode (bits w 25 2))) else none
  | 8 => if bits w 22 3 = 0 then some (.fsgnjn (fld w 7 5) (fld w 12 5) (fld w 17 5) (FType.ofCode (bits w 25 2))) else none
  | 9 => if bits w 22 3 = 0 then some (.fsgnjx (fld w 7 5) (fld w 12 5) (fld w 17 5) (FType.ofCode (bits w 25 2))) else none
  | 10 => if bits w 22 3 = 0 then some (.feq (fld w 7 5) (fld w 12 5) (fld w 17 5) (FType.ofCode (bits w 25 2))) else none
  | 11 => if bits w 22 3 = 0 then some (.flt (fld w 7 5) (fld w 12 5) (fld w 17 5) (FType.ofCode (bits w 25 2))) else none
  | 12 => if bits w 22 3 = 0 then some (.fle (fld w 7 5) (fld w 12 5) (fld w 17 5) (FType.ofCode (bits w 25 2))) else none
  | 13 => if bits w 17 8 = 0 then some (.fclass (fld w 7 5) (fld w 12 5) (FType.ofCode (bits w 25 2))) else none
  | 14 => if bits w 19 4 = 0 then keep (.fcvt (fld w 7 5) (fld w 12 5) (FType.ofCode (bits w 17 2)) (FType.ofCode (bits w 25 2)) (Rnd.ofCode (bits w 23 2))) else none
  | 15 => if bits w 17 6 = 0 then some (.fcvtI (fld w 7 5) (fld w 12 5) (FType.ofCode (bits w 25 2)) (Rnd.ofCode (bits w 23 2))) else none
  | 16 => if bits w 17 6 = 0 then some (.fcvtFromI (fld w 7 5) (fld w 12 5) (FType.ofCode (bits w 25 2)) (Rnd.ofCode (bits w 23 2))) else none
  | 17 => if bits w 17 8 = 0 then some (.fmvX (fld w 7 5) (fld w 12 5) (FType.ofCode (bits w 25 2))) else none
  | 18 => if bits w 17 8 = 0 then some (.fmvF (fld w 7 5) (fld w 12 5) (FType.ofCode (bits w 25 2))) else none
  | _ => none

/-- Major 0x21 (03 R52 to R65). -/
def decodeFmadd (w : Nat) : Option Instr :=
  match bits w 27 1 with
  | 0 => some (.fmadd (fld w 7 5) (fld w 12 5) (fld w 17 5) (fld w 22 5) (FType.ofCode (bits w 30 2)) (Rnd.ofCode (bits w 28 2)))
  | 1 => some (.fmsub (fld w 7 5) (fld w 12 5) (fld w 17 5) (fld w 22 5) (FType.ofCode (bits w 30 2)) (Rnd.ofCode (bits w 28 2)))
  | _ => none

/-- Major 0x22 (03 R52 to R65). -/
def decodeFnmadd (w : Nat) : Option Instr :=
  match bits w 27 1 with
  | 0 => some (.fnmadd (fld w 7 5) (fld w 12 5) (fld w 17 5) (fld w 22 5) (FType.ofCode (bits w 30 2)) (Rnd.ofCode (bits w 28 2)))
  | 1 => some (.fnmsub (fld w 7 5) (fld w 12 5) (fld w 17 5) (fld w 22 5) (FType.ofCode (bits w 30 2)) (Rnd.ofCode (bits w 28 2)))
  | _ => none

/-- Major 0x23 (03 R52 to R65). -/
def decodeXidx (w : Nat) : Option Instr :=
  match bits w 27 5 with
  | 0 => if bits w 22 5 = 0 then some (.fgetx (fld w 7 5) (fld w 12 5) (fld w 17 5)) else none
  | 1 => if bits w 22 5 = 0 then some (.fputx (fld w 7 5) (fld w 12 5) (fld w 17 5)) else none
  | 2 => if bits w 22 5 = 0 then some (.xgetx (fld w 7 5) (fld w 12 5) (fld w 17 5)) else none
  | 3 => if bits w 22 5 = 0 then some (.xputx (fld w 7 5) (fld w 12 5) (fld w 17 5)) else none
  | _ => none

/-- Major 0x24 (03 R52 to R65). -/
def decodeSpr (w : Nat) : Option Instr :=
  match bits w 17 3 with
  | 0 => if bits w 12 5 = 0 then some (.gets (fld w 7 5) (fld w 20 12)) else none
  | 1 => if bits w 7 5 = 0 then some (.puts (fld w 12 5) (fld w 20 12)) else none
  | _ => none

/-- Major 0x25 (03 R52 to R65). -/
def decodeSys (w : Nat) : Option Instr :=
  match bits w 27 5 with
  | 0 => if bits w 7 20 = 0 then some .nop else none
  | 1 => if bits w 7 5 = 0 then some (.trap (fld w 12 15)) else none
  | 2 => if bits w 7 5 = 0 then some (.brk (fld w 12 15)) else none
  | 3 => if bits w 7 20 = 0 then some .tret else none
  | 4 => if bits w 7 5 = 0 then some (.texit (fld w 12 15)) else none
  | 5 => if bits w 7 20 = 0 then some .wfe else none
  | 6 => if bits w 7 5 = 0 ∧ bits w 17 10 = 0 then some (.sev (fld w 12 5)) else none
  | 7 => if bits w 12 15 = 0 then some (.popev (fld w 7 5)) else none
  | 8 => if bits w 7 5 = 0 ∧ bits w 23 4 = 0 then keep (.region (fld w 12 11)) else none
  | 9 => if bits w 7 20 = 0 then some .commit else none
  | 10 => if bits w 7 20 = 0 then some .abort else none
  | 11 => if bits w 7 5 = 0 then keep (.gang (fld w 12 15)) else none
  | 12 => if bits w 7 20 = 0 then some .split else none
  | 13 => if bits w 7 5 = 0 ∧ bits w 14 13 = 0 then some (.fence (Scope.ofCode (bits w 12 2))) else none
  | 14 => if bits w 17 10 = 0 then some (.probe (fld w 7 5) (fld w 12 5)) else none
  | _ => none

/-- Major 0x26 (03 R52 to R65). -/
def decodeMsg (w : Nat) : Option Instr :=
  match bits w 27 5 with
  | 0 => if bits w 7 5 = 0 ∧ bits w 22 5 = 0 then some (.send (fld w 12 5) (fld w 17 5)) else none
  | 1 => if bits w 12 15 = 0 then some (.recv (fld w 7 5)) else none
  | _ => none

/-- Major 0x27 (03 R52 to R65). -/
def decodeFab (w : Nat) : Option Instr :=
  match bits w 27 5 with
  | 0 => if bits w 7 10 = 0 ∧ bits w 22 5 = 0 then keep (.grp (fld w 17 5)) else none
  | 1 => if bits w 7 5 = 0 ∧ bits w 22 5 = 0 then keep (.rel (fld w 12 5) (fld w 17 5)) else none
  | 2 => if bits w 12 5 = 0 ∧ bits w 22 5 = 0 then keep (.grpq (fld w 7 5) (fld w 17 5)) else none
  | _ => none

/-- Major 0x1c (03 R52 to R65). -/
def decodeLdg (w : Nat) : Option Instr :=
  match bits w 17 2 with
  | 0 => if bits w 19 2 = 0 then some (.ldG (fld w 7 5) (fld w 12 5) (fld w 23 9) (Size.ofCode (bits w 21 2))) else none
  | 1 => some (.ldAcq (fld w 7 5) (fld w 12 5) (fld w 23 9) (Size.ofCode (bits w 21 2)) (Scope.ofCode (bits w 19 2)))
  | _ => none

/-- Major 0x1d (03 R52 to R65). -/
def decodeStg (w : Nat) : Option Instr :=
  match bits w 17 2 with
  | 0 => if bits w 19 2 = 0 then some (.stG (fld w 7 5) (fld w 12 5) (fld w 23 9) (Size.ofCode (bits w 21 2))) else none
  | 1 => some (.stRel (fld w 7 5) (fld w 12 5) (fld w 23 9) (Size.ofCode (bits w 21 2)) (Scope.ofCode (bits w 19 2)))
  | _ => none

/-- Major 0x1e (03 R52 to R65). -/
def decodeAtom (w : Nat) : Option Instr :=
  match bits w 27 5 with
  | 0 => (ASize.ofCode? (bits w 25 2)).bind fun sz => keep (.atomAdd (fld w 7 5) (fld w 12 5) (fld w 17 5) (bits w 22 1 == 1) sz (Scope.ofCode (bits w 23 2)))
  | 1 => (ASize.ofCode? (bits w 25 2)).bind fun sz => keep (.atomAnd (fld w 7 5) (fld w 12 5) (fld w 17 5) (bits w 22 1 == 1) sz (Scope.ofCode (bits w 23 2)))
  | 2 => (ASize.ofCode? (bits w 25 2)).bind fun sz => keep (.atomOr (fld w 7 5) (fld w 12 5) (fld w 17 5) (bits w 22 1 == 1) sz (Scope.ofCode (bits w 23 2)))
  | 3 => (ASize.ofCode? (bits w 25 2)).bind fun sz => keep (.atomXor (fld w 7 5) (fld w 12 5) (fld w 17 5) (bits w 22 1 == 1) sz (Scope.ofCode (bits w 23 2)))
  | 4 => (ASize.ofCode? (bits w 25 2)).bind fun sz => keep (.atomMin (fld w 7 5) (fld w 12 5) (fld w 17 5) (bits w 22 1 == 1) sz (Scope.ofCode (bits w 23 2)))
  | 5 => (ASize.ofCode? (bits w 25 2)).bind fun sz => keep (.atomMax (fld w 7 5) (fld w 12 5) (fld w 17 5) (bits w 22 1 == 1) sz (Scope.ofCode (bits w 23 2)))
  | 6 => (ASize.ofCode? (bits w 25 2)).bind fun sz => keep (.atomMinu (fld w 7 5) (fld w 12 5) (fld w 17 5) (bits w 22 1 == 1) sz (Scope.ofCode (bits w 23 2)))
  | 7 => (ASize.ofCode? (bits w 25 2)).bind fun sz => keep (.atomMaxu (fld w 7 5) (fld w 12 5) (fld w 17 5) (bits w 22 1 == 1) sz (Scope.ofCode (bits w 23 2)))
  | 8 => (ASize.ofCode? (bits w 25 2)).bind fun sz => keep (.atomSwap (fld w 7 5) (fld w 12 5) (fld w 17 5) (bits w 22 1 == 1) sz (Scope.ofCode (bits w 23 2)))
  | 9 => (ASize.ofCode? (bits w 25 2)).bind fun sz => keep (.atomCas (fld w 7 5) (fld w 12 5) (fld w 17 5) (bits w 22 1 == 1) sz (Scope.ofCode (bits w 23 2)))
  | 10 => if bits w 25 2 = 0 then keep (.atomFaddS (fld w 7 5) (fld w 12 5) (fld w 17 5) (bits w 22 1 == 1) (Scope.ofCode (bits w 23 2))) else none
  | 11 => if bits w 25 2 = 0 then keep (.atomFminS (fld w 7 5) (fld w 12 5) (fld w 17 5) (bits w 22 1 == 1) (Scope.ofCode (bits w 23 2))) else none
  | 12 => if bits w 25 2 = 0 then keep (.atomFmaxS (fld w 7 5) (fld w 12 5) (fld w 17 5) (bits w 22 1 == 1) (Scope.ofCode (bits w 23 2))) else none
  | _ => none

/-- Major 0x28 (03 R52 to R65). -/
def decodeVint (w : Nat) : Option Instr :=
  match bits w 27 5 with
  | 0 => some (.vadd (fld w 7 5) (fld w 12 5) (fld w 17 5) (IType.ofCode (bits w 25 2)) (fld w 22 3))
  | 1 => some (.vsub (fld w 7 5) (fld w 12 5) (fld w 17 5) (IType.ofCode (bits w 25 2)) (fld w 22 3))
  | 2 => some (.vmul (fld w 7 5) (fld w 12 5) (fld w 17 5) (IType.ofCode (bits w 25 2)) (fld w 22 3))
  | 3 => some (.vmulh (fld w 7 5) (fld w 12 5) (fld w 17 5) (IType.ofCode (bits w 25 2)) (fld w 22 3))
  | 4 => some (.vmulhu (fld w 7 5) (fld w 12 5) (fld w 17 5) (IType.ofCode (bits w 25 2)) (fld w 22 3))
  | 5 => some (.vmin (fld w 7 5) (fld w 12 5) (fld w 17 5) (IType.ofCode (bits w 25 2)) (fld w 22 3))
  | 6 => some (.vmax (fld w 7 5) (fld w 12 5) (fld w 17 5) (IType.ofCode (bits w 25 2)) (fld w 22 3))
  | 7 => some (.vminu (fld w 7 5) (fld w 12 5) (fld w 17 5) (IType.ofCode (bits w 25 2)) (fld w 22 3))
  | 8 => some (.vmaxu (fld w 7 5) (fld w 12 5) (fld w 17 5) (IType.ofCode (bits w 25 2)) (fld w 22 3))
  | 9 => some (.vand (fld w 7 5) (fld w 12 5) (fld w 17 5) (IType.ofCode (bits w 25 2)) (fld w 22 3))
  | 10 => some (.vor (fld w 7 5) (fld w 12 5) (fld w 17 5) (IType.ofCode (bits w 25 2)) (fld w 22 3))
  | 11 => some (.vxor (fld w 7 5) (fld w 12 5) (fld w 17 5) (IType.ofCode (bits w 25 2)) (fld w 22 3))
  | 12 => some (.vsll (fld w 7 5) (fld w 12 5) (fld w 17 5) (IType.ofCode (bits w 25 2)) (fld w 22 3))
  | 13 => some (.vsrl (fld w 7 5) (fld w 12 5) (fld w 17 5) (IType.ofCode (bits w 25 2)) (fld w 22 3))
  | 14 => some (.vsra (fld w 7 5) (fld w 12 5) (fld w 17 5) (IType.ofCode (bits w 25 2)) (fld w 22 3))
  | 15 => some (.vadds (fld w 7 5) (fld w 12 5) (fld w 17 5) (IType.ofCode (bits w 25 2)) (fld w 22 3))
  | 16 => some (.vsubs (fld w 7 5) (fld w 12 5) (fld w 17 5) (IType.ofCode (bits w 25 2)) (fld w 22 3))
  | 17 => if bits w 17 5 = 0 then some (.vabs (fld w 7 5) (fld w 12 5) (IType.ofCode (bits w 25 2)) (fld w 22 3)) else none
  | 18 => if bits w 17 5 = 0 then some (.vneg (fld w 7 5) (fld w 12 5) (IType.ofCode (bits w 25 2)) (fld w 22 3)) else none
  | 19 => if bits w 17 5 = 0 then some (.vdup (fld w 7 5) (fld w 12 5) (IType.ofCode (bits w 25 2)) (fld w 22 3)) else none
  | _ => none

/-- Major 0x29 (03 R52 to R65). -/
def decodeVfp (w : Nat) : Option Instr :=
  match bits w 27 5 with
  | 0 => some (.vfadd (fld w 7 5) (fld w 12 5) (fld w 17 5) (FType.ofCode (bits w 25 2)) (fld w 22 3))
  | 1 => some (.vfsub (fld w 7 5) (fld w 12 5) (fld w 17 5) (FType.ofCode (bits w 25 2)) (fld w 22 3))
  | 2 => some (.vfmul (fld w 7 5) (fld w 12 5) (fld w 17 5) (FType.ofCode (bits w 25 2)) (fld w 22 3))
  | 3 => some (.vfdiv (fld w 7 5) (fld w 12 5) (fld w 17 5) (FType.ofCode (bits w 25 2)) (fld w 22 3))
  | 4 => if bits w 17 5 = 0 then some (.vfsqrt (fld w 7 5) (fld w 12 5) (FType.ofCode (bits w 25 2)) (fld w 22 3)) else none
  | 5 => some (.vfmin (fld w 7 5) (fld w 12 5) (fld w 17 5) (FType.ofCode (bits w 25 2)) (fld w 22 3))
  | 6 => some (.vfmax (fld w 7 5) (fld w 12 5) (fld w 17 5) (FType.ofCode (bits w 25 2)) (fld w 22 3))
  | 7 => if bits w 17 5 = 0 then some (.vfabs (fld w 7 5) (fld w 12 5) (FType.ofCode (bits w 25 2)) (fld w 22 3)) else none
  | 8 => if bits w 17 5 = 0 then some (.vfneg (fld w 7 5) (fld w 12 5) (FType.ofCode (bits w 25 2)) (fld w 22 3)) else none
  | 9 => if bits w 17 5 = 0 then some (.vfdup (fld w 7 5) (fld w 12 5) (FType.ofCode (bits w 25 2)) (fld w 22 3)) else none
  | _ => none

/-- Major 0x2a (03 R52 to R65). -/
def decodeVfma (w : Nat) : Option Instr :=
  match bits w 27 5 with
  | 0 => some (.vfmadd (fld w 7 5) (fld w 12 5) (fld w 17 5) (FType.ofCode (bits w 25 2)) (fld w 22 3))
  | 1 => some (.vfmsub (fld w 7 5) (fld w 12 5) (fld w 17 5) (FType.ofCode (bits w 25 2)) (fld w 22 3))
  | 2 => some (.vfnmadd (fld w 7 5) (fld w 12 5) (fld w 17 5) (FType.ofCode (bits w 25 2)) (fld w 22 3))
  | 3 => some (.vfnmsub (fld w 7 5) (fld w 12 5) (fld w 17 5) (FType.ofCode (bits w 25 2)) (fld w 22 3))
  | _ => none

/-- Major 0x2b (03 R52 to R65). -/
def decodeVcmp (w : Nat) : Option Instr :=
  match bits w 27 5 with
  | 0 => if bits w 10 2 = 0 then some (.vceq (fld w 7 3) (fld w 12 5) (fld w 17 5) (IType.ofCode (bits w 25 2)) (fld w 22 3)) else none
  | 1 => if bits w 10 2 = 0 then some (.vcne (fld w 7 3) (fld w 12 5) (fld w 17 5) (IType.ofCode (bits w 25 2)) (fld w 22 3)) else none
  | 2 => if bits w 10 2 = 0 then some (.vclt (fld w 7 3) (fld w 12 5) (fld w 17 5) (IType.ofCode (bits w 25 2)) (fld w 22 3)) else none
  | 3 => if bits w 10 2 = 0 then some (.vcle (fld w 7 3) (fld w 12 5) (fld w 17 5) (IType.ofCode (bits w 25 2)) (fld w 22 3)) else none
  | 4 => if bits w 10 2 = 0 then some (.vcltu (fld w 7 3) (fld w 12 5) (fld w 17 5) (IType.ofCode (bits w 25 2)) (fld w 22 3)) else none
  | 5 => if bits w 10 2 = 0 then some (.vcleu (fld w 7 3) (fld w 12 5) (fld w 17 5) (IType.ofCode (bits w 25 2)) (fld w 22 3)) else none
  | 8 => if bits w 10 2 = 0 then some (.vfceq (fld w 7 3) (fld w 12 5) (fld w 17 5) (FType.ofCode (bits w 25 2)) (fld w 22 3)) else none
  | 9 => if bits w 10 2 = 0 then some (.vfclt (fld w 7 3) (fld w 12 5) (fld w 17 5) (FType.ofCode (bits w 25 2)) (fld w 22 3)) else none
  | 10 => if bits w 10 2 = 0 then some (.vfcle (fld w 7 3) (fld w 12 5) (fld w 17 5) (FType.ofCode (bits w 25 2)) (fld w 22 3)) else none
  | _ => none

/-- Major 0x2c (03 R52 to R65). -/
def decodeVperm (w : Nat) : Option Instr :=
  match bits w 27 5 with
  | 0 => some (.vsel (fld w 7 5) (fld w 12 5) (fld w 17 5) (IType.ofCode (bits w 25 2)) (fld w 22 3))
  | 1 => some (.vperm (fld w 7 5) (fld w 12 5) (fld w 17 5) (IType.ofCode (bits w 25 2)) (fld w 22 3))
  | 2 => some (.vslup (fld w 7 5) (fld w 12 5) (fld w 17 5) (IType.ofCode (bits w 25 2)) (fld w 22 3))
  | 3 => some (.vsldn (fld w 7 5) (fld w 12 5) (fld w 17 5) (IType.ofCode (bits w 25 2)) (fld w 22 3))
  | 4 => if bits w 17 5 = 0 then some (.vrsum (fld w 7 5) (fld w 12 5) (IType.ofCode (bits w 25 2)) (fld w 22 3)) else none
  | 5 => if bits w 17 5 = 0 then some (.vrmin (fld w 7 5) (fld w 12 5) (IType.ofCode (bits w 25 2)) (fld w 22 3)) else none
  | 6 => if bits w 17 5 = 0 then some (.vrmax (fld w 7 5) (fld w 12 5) (IType.ofCode (bits w 25 2)) (fld w 22 3)) else none
  | 7 => if bits w 17 5 = 0 then some (.vfrsum (fld w 7 5) (fld w 12 5) (FType.ofCode (bits w 25 2)) (fld w 22 3)) else none
  | 8 => if bits w 17 5 = 0 then some (.vfrmin (fld w 7 5) (fld w 12 5) (FType.ofCode (bits w 25 2)) (fld w 22 3)) else none
  | 9 => if bits w 17 5 = 0 then some (.vfrmax (fld w 7 5) (fld w 12 5) (FType.ofCode (bits w 25 2)) (fld w 22 3)) else none
  | 10 => if bits w 22 3 = 0 then some (.vext (fld w 7 5) (fld w 12 5) (fld w 17 5) (IType.ofCode (bits w 25 2))) else none
  | 11 => if bits w 22 3 = 0 then some (.vins (fld w 7 5) (fld w 12 5) (fld w 17 5) (IType.ofCode (bits w 25 2))) else none
  | _ => none

/-- Major 0x2e (03 R52 to R65). -/
def decodeVmask (w : Nat) : Option Instr :=
  match bits w 27 5 with
  | 0 => if bits w 10 2 = 0 ∧ bits w 15 2 = 0 ∧ bits w 20 7 = 0 then some (.mand (fld w 7 3) (fld w 12 3) (fld w 17 3)) else none
  | 1 => if bits w 10 2 = 0 ∧ bits w 15 2 = 0 ∧ bits w 20 7 = 0 then some (.mor (fld w 7 3) (fld w 12 3) (fld w 17 3)) else none
  | 2 => if bits w 10 2 = 0 ∧ bits w 15 2 = 0 ∧ bits w 20 7 = 0 then some (.mxor (fld w 7 3) (fld w 12 3) (fld w 17 3)) else none
  | 3 => if bits w 10 2 = 0 ∧ bits w 15 2 = 0 ∧ bits w 20 7 = 0 then some (.mandn (fld w 7 3) (fld w 12 3) (fld w 17 3)) else none
  | 4 => if bits w 10 2 = 0 ∧ bits w 15 12 = 0 then some (.mnot (fld w 7 3) (fld w 12 3)) else none
  | 5 => if bits w 15 12 = 0 then some (.mpopc (fld w 7 5) (fld w 12 3)) else none
  | 6 => if bits w 15 12 = 0 then some (.mfirst (fld w 7 5) (fld w 12 3)) else none
  | 7 => if bits w 10 2 = 0 ∧ bits w 17 10 = 0 then some (.mfromx (fld w 7 3) (fld w 12 5)) else none
  | 8 => if bits w 15 12 = 0 then some (.mtox (fld w 7 5) (fld w 12 3)) else none
  | _ => none

/-- Major 0x2f (03 R52 to R65). -/
def decodeVmem (w : Nat) : Option Instr :=
  match bits w 17 3 with
  | 0 => if bits w 20 2 = 0 then some (.vld (fld w 7 5) (fld w 12 5) (fld w 25 7) (fld w 22 3)) else none
  | 1 => if bits w 20 2 = 0 then some (.vst (fld w 7 5) (fld w 12 5) (fld w 25 7) (fld w 22 3)) else none
  | _ => none

/-- Major 0x30 (03 R52 to R65). -/
def decodeVgs (w : Nat) : Option Instr :=
  match bits w 27 5 with
  | 0 => some (.vgather (fld w 7 5) (fld w 12 5) (fld w 17 5) (IType.ofCode (bits w 25 2)) (fld w 22 3))
  | 1 => some (.vscatter (fld w 7 5) (fld w 12 5) (fld w 17 5) (IType.ofCode (bits w 25 2)) (fld w 22 3))
  | _ => none

/-- Major 0x34 (03 R52 to R65). -/
def decodeMxc (w : Nat) : Option Instr :=
  match bits w 27 5 with
  | 0 => if bits w 12 14 = 0 then some (.mclr (BitVec.ofNat 6 (bits w 26 1 * 32 + bits w 7 5))) else none
  | 1 => if bits w 17 5 = 0 ∧ bits w 24 2 = 0 then (MType.ofCode? (bits w 22 2)).bind fun ty => some (.mld (BitVec.ofNat 6 (bits w 26 1 * 32 + bits w 7 5)) (fld w 12 5) ty) else none
  | 2 => if bits w 17 5 = 0 then (MType.ofCode? (bits w 22 2)).bind fun ty => keep (.mst (BitVec.ofNat 6 (bits w 26 1 * 32 + bits w 7 5)) (fld w 12 5) ty (Rnd.ofCode (bits w 24 2))) else none
  | 3 => if bits w 7 5 = 0 ∧ bits w 22 5 = 0 then some (.mcfg (fld w 12 5) (fld w 17 5)) else none
  | 4 => if bits w 22 2 = 0 ∧ bits w 26 1 = 0 then some (.vpackM8 (fld w 7 5) (fld w 12 5) (fld w 17 5) (Rnd.ofCode (bits w 24 2))) else none
  | 5 => if bits w 22 2 = 0 ∧ bits w 26 1 = 0 then some (.vpackE43 (fld w 7 5) (fld w 12 5) (fld w 17 5) (Rnd.ofCode (bits w 24 2))) else none
  | 6 => if bits w 22 2 = 0 ∧ bits w 26 1 = 0 then some (.vpackE52 (fld w 7 5) (fld w 12 5) (fld w 17 5) (Rnd.ofCode (bits w 24 2))) else none
  | 7 => if bits w 22 2 = 0 ∧ bits w 26 1 = 0 then some (.vpackE23 (fld w 7 5) (fld w 12 5) (fld w 17 5) (Rnd.ofCode (bits w 24 2))) else none
  | 8 => if bits w 22 2 = 0 ∧ bits w 26 1 = 0 then some (.vpackE32 (fld w 7 5) (fld w 12 5) (fld w 17 5) (Rnd.ofCode (bits w 24 2))) else none
  | 9 => if bits w 22 2 = 0 ∧ bits w 26 1 = 0 then some (.vpackE21 (fld w 7 5) (fld w 12 5) (fld w 17 5) (Rnd.ofCode (bits w 24 2))) else none
  | 10 => if bits w 22 2 = 0 ∧ bits w 26 1 = 0 then some (.vpackI8 (fld w 7 5) (fld w 12 5) (fld w 17 5) (Rnd.ofCode (bits w 24 2))) else none
  | _ => none

/-- Major 0x35 (03 R52 to R65). -/
def decodeCp (w : Nat) : Option Instr :=
  match bits w 27 5 with
  | 0 => if bits w 7 5 = 0 ∧ bits w 26 1 = 0 then some (.cp (fld w 12 5) (fld w 17 5) (fld w 22 4)) else none
  | 1 => if bits w 7 5 = 0 ∧ bits w 26 1 = 0 then some (.cpMc (fld w 12 5) (fld w 17 5) (fld w 22 4)) else none
  | 2 => if bits w 7 5 = 0 ∧ bits w 26 1 = 0 then some (.cpDec (fld w 12 5) (fld w 17 5) (fld w 22 4)) else none
  | 3 => if bits w 7 5 = 0 ∧ bits w 26 1 = 0 then some (.subscr (fld w 12 5) (fld w 17 5) (fld w 22 4)) else none
  | 4 => if bits w 7 5 = 0 ∧ bits w 17 5 = 0 ∧ bits w 26 1 = 0 then some (.srel (fld w 12 5) (fld w 22 4)) else none
  | 5 => if bits w 7 5 = 0 ∧ bits w 26 1 = 0 then some (.chinit (fld w 12 5) (fld w 17 5) (fld w 22 4)) else none
  | 6 => if bits w 12 10 = 0 ∧ bits w 26 1 = 0 then some (.chq (fld w 7 5) (fld w 22 4)) else none
  | 7 => if bits w 7 5 = 0 ∧ bits w 22 5 = 0 then some (.cpcfg (fld w 12 5) (fld w 17 5)) else none
  | 8 => if bits w 7 15 = 0 ∧ bits w 26 1 = 0 then some (.waitc (fld w 22 4)) else none
  | _ => none

/-- The instruction that the 32-bit word `w` encodes, if it encodes one (03 R52 to R65, R68). -/
def decodeFull (w : Nat) : Option Instr :=
  match bits w 0 7 with
  | 3 => decodeAlu w
  | 5 => decodeAlu1 w
  | 7 => if bits w 27 5 = 0 then some (.addsl (fld w 7 5) (fld w 12 5) (fld w 17 5) (fld w 22 5)) else none
  | 9 => some (.addi (fld w 7 5) (fld w 12 5) (fld w 17 15))
  | 11 => some (.andi (fld w 7 5) (fld w 12 5) (fld w 17 15))
  | 13 => some (.ori (fld w 7 5) (fld w 12 5) (fld w 17 15))
  | 15 => some (.xori (fld w 7 5) (fld w 12 5) (fld w 17 15))
  | 17 => some (.slti (fld w 7 5) (fld w 12 5) (fld w 17 15))
  | 19 => some (.sltiu (fld w 7 5) (fld w 12 5) (fld w 17 15))
  | 21 => decodeShi w
  | 23 => some (.lih (fld w 7 5) (fld w 12 20))
  | 25 => some (.lia (fld w 7 5) (fld w 12 20))
  | 33 => decodeBr w
  | 35 => some (.j (fld w 7 25))
  | 37 => keep (.call (fld w 12 20) (fld w 7 5))
  | 39 => decodeJmp w
  | 41 => if bits w 7 5 = 0 ∧ bits w 28 4 = 0 then some (.loop (fld w 12 5) (fld w 17 11)) else none
  | 43 => if bits w 7 2 = 0 then some (.loopi (fld w 20 12) (fld w 9 11)) else none
  | 49 => some (.ld (fld w 7 5) (fld w 12 5) (fld w 19 13) (Size.ofCode (bits w 17 2)))
  | 51 => some (.st (fld w 7 5) (fld w 12 5) (fld w 19 13) (Size.ofCode (bits w 17 2)))
  | 53 => (FSize.ofCode? (bits w 17 2)).bind fun sz => some (.fld (fld w 7 5) (fld w 12 5) (fld w 19 13) sz)
  | 55 => (FSize.ofCode? (bits w 17 2)).bind fun sz => some (.fst (fld w 7 5) (fld w 12 5) (fld w 19 13) sz)
  | 57 => decodeLdg w
  | 59 => decodeStg w
  | 61 => decodeAtom w
  | 63 => if bits w 7 9 = 0 then some (.wait (fld w 16 4) (fld w 20 4) (fld w 24 4) (fld w 28 4)) else none
  | 65 => decodeFop w
  | 67 => decodeFmadd w
  | 69 => decodeFnmadd w
  | 71 => decodeXidx w
  | 73 => decodeSpr w
  | 75 => decodeSys w
  | 77 => decodeMsg w
  | 79 => decodeFab w
  | 81 => decodeVint w
  | 83 => decodeVfp w
  | 85 => decodeVfma w
  | 87 => decodeVcmp w
  | 89 => decodeVperm w
  | 91 => if bits w 17 4 = 0 then keep (.vcvt (fld w 7 5) (fld w 12 5) (CFmt.ofCode (bits w 26 3)) (CFmt.ofCode (bits w 29 3)) (Rnd.ofCode (bits w 24 2)) (fld w 21 3)) else none
  | 93 => decodeVmask w
  | 95 => decodeVmem w
  | 97 => decodeVgs w
  | 101 => (Pair.ofCode? (bits w 27 5)).bind fun pair => some (.mmaLo (fld w 12 5) (fld w 17 5) (fld w 22 5) (fld w 7 5) pair)
  | 103 => (Pair.ofCode? (bits w 27 5)).bind fun pair => some (.mmaHi (fld w 12 5) (fld w 17 5) (fld w 22 5) (fld w 7 5) pair)
  | 105 => decodeMxc w
  | 107 => decodeCp w
  | _ => none

/-- The instruction that the 16-bit parcel `w` encodes, if it encodes one (03 R66, R67). -/
def decodeCompact (w : Nat) : Option Instr :=
  match bits w 11 5 with
  | 1 => if bits w 1 10 = 0 then some .nopC else none
  | 2 => some (.addCX0 (fld w 6 5) (fld w 1 5))
  | 3 => some (.addC (fld w 6 5) (fld w 1 5))
  | 4 => some (.subC (fld w 6 5) (fld w 1 5))
  | 5 => some (.andC (fld w 6 5) (fld w 1 5))
  | 6 => some (.orC (fld w 6 5) (fld w 1 5))
  | 7 => some (.xorC (fld w 6 5) (fld w 1 5))
  | 8 => some (.addiC (fld w 6 5) (fld w 1 5))
  | 9 => some (.addiCX0 (fld w 6 5) (fld w 1 5))
  | 10 => some (.slliC (fld w 6 5) (fld w 1 5))
  | 11 => some (.srliC (fld w 6 5) (fld w 1 5))
  | 12 => some (.sraiC (fld w 6 5) (fld w 1 5))
  | 13 => some (.ldDC (fld w 6 5) (fld w 1 5))
  | 14 => some (.stDC (fld w 6 5) (fld w 1 5))
  | 15 => some (.ldWC (fld w 6 5) (fld w 1 5))
  | 16 => some (.stWC (fld w 6 5) (fld w 1 5))
  | 17 => if bits w 6 5 = 0 then some (.jrC (fld w 1 5)) else none
  | 18 => if bits w 1 10 = 0 then some .retC else none
  | 19 => if bits w 1 10 = 0 then some .texitC else none
  | 20 => if bits w 1 10 = 0 then some .wfeC else none
  | 21 => some (.faddSC (fld w 6 5) (fld w 1 5))
  | 22 => some (.fmulSC (fld w 6 5) (fld w 1 5))
  | _ => none

/-- The length in bytes and the word of an instruction, from the encoding tables (03 R52 to R67); none for the steps that
have no encoding. One word of 05 Table 5-1, at 0x103C, does not follow them: the tables stand (DEDUCED, log 66). -/
def encode : Instr → Option (Nat × Nat)
  | .deviceReset => none
  | .doorbell => none
  | .ringReset => none
  | .capsuleAcceptance => none
  | .codeVerdict => none
  | .placeGroup => none
  | .priorityAging => none
  | .deficitCharge => none
  | .cohortReservation => none
  | .parkCapsule => none
  | .parkCaptureEnd => none
  | .resumeCapsule => none
  | .capsuleCompletion => none
  | .capsuleFault => none
  | .messageArrival => none
  | .overflowActivation => none
  | .sevArrival => none
  | .remoteAccessArrival => none
  | .accessResponse => none
  | .responseTimeout => none
  | .atsTranslationComplete => none
  | .atsInvalidation => none
  | .hostMemoryAccess => none
  | .heldWriteDepart => none
  | .relFlagDepart => none
  | .engineCommandStart => none
  | .engineCommandRetire => none
  | .copyCommandAccept => none
  | .copyPieceServe => none
  | .decCopy => none
  | .channelCount => none
  | .copyPieceLost => none
  | .subscriptionStart => none
  | .switchForward => none
  | .linkFlitReceive => none
  | .flitReplay => none
  | .linkDown => none
  | .laneLoss => none
  | .portPacketReceive => none
  | .countedPacketArrival => none
  | .arrivalTimeout => none
  | .arrivalOrphan => none
  | .rosterInstall => none
  | .fmkeyWrite => none
  | .cellarDoorbell => none
  | .cellarStep => none
  | .cellarPacketDepart => none
  | .clip => none
  | .promote => none
  | .rootSign => none
  | .egressTokenTick => none
  | .hostReadWithheld => none
  | .jconsumedWrite => none
  | .firmwareUpdate => none
  | .firmwareRestart => none
  | .cxlPortConfig => none
  | .registerWrite => none
  | .debugRead => none
  | .powerLimitControl => none
  | .thermalThrottle => none
  | .thermalShutdown => none
  | .tdispStateChange => none
  | .expanderFailure => none
  | .add d a b => some (4, 0x3 + d.toNat * 128 + a.toNat * 4096 + b.toNat * 131072)
  | .sub d a b => some (4, 0x8000003 + d.toNat * 128 + a.toNat * 4096 + b.toNat * 131072)
  | .and d a b => some (4, 0x10000003 + d.toNat * 128 + a.toNat * 4096 + b.toNat * 131072)
  | .or d a b => some (4, 0x18000003 + d.toNat * 128 + a.toNat * 4096 + b.toNat * 131072)
  | .xor d a b => some (4, 0x20000003 + d.toNat * 128 + a.toNat * 4096 + b.toNat * 131072)
  | .andn d a b => some (4, 0x28000003 + d.toNat * 128 + a.toNat * 4096 + b.toNat * 131072)
  | .orn d a b => some (4, 0x30000003 + d.toNat * 128 + a.toNat * 4096 + b.toNat * 131072)
  | .xnor d a b => some (4, 0x38000003 + d.toNat * 128 + a.toNat * 4096 + b.toNat * 131072)
  | .sll d a b => some (4, 0x40000003 + d.toNat * 128 + a.toNat * 4096 + b.toNat * 131072)
  | .srl d a b => some (4, 0x48000003 + d.toNat * 128 + a.toNat * 4096 + b.toNat * 131072)
  | .sra d a b => some (4, 0x50000003 + d.toNat * 128 + a.toNat * 4096 + b.toNat * 131072)
  | .rol d a b => some (4, 0x58000003 + d.toNat * 128 + a.toNat * 4096 + b.toNat * 131072)
  | .ror d a b => some (4, 0x60000003 + d.toNat * 128 + a.toNat * 4096 + b.toNat * 131072)
  | .slt d a b => some (4, 0x68000003 + d.toNat * 128 + a.toNat * 4096 + b.toNat * 131072)
  | .sltu d a b => some (4, 0x70000003 + d.toNat * 128 + a.toNat * 4096 + b.toNat * 131072)
  | .seq d a b => some (4, 0x78000003 + d.toNat * 128 + a.toNat * 4096 + b.toNat * 131072)
  | .min d a b => some (4, 0x80000003 + d.toNat * 128 + a.toNat * 4096 + b.toNat * 131072)
  | .max d a b => some (4, 0x88000003 + d.toNat * 128 + a.toNat * 4096 + b.toNat * 131072)
  | .minu d a b => some (4, 0x90000003 + d.toNat * 128 + a.toNat * 4096 + b.toNat * 131072)
  | .maxu d a b => some (4, 0x98000003 + d.toNat * 128 + a.toNat * 4096 + b.toNat * 131072)
  | .csel d a b c => some (4, 0xa0000003 + d.toNat * 128 + a.toNat * 4096 + b.toNat * 131072 + c.toNat * 4194304)
  | .mul d a b => some (4, 0xa8000003 + d.toNat * 128 + a.toNat * 4096 + b.toNat * 131072)
  | .mulh d a b => some (4, 0xb0000003 + d.toNat * 128 + a.toNat * 4096 + b.toNat * 131072)
  | .mulhu d a b => some (4, 0xb8000003 + d.toNat * 128 + a.toNat * 4096 + b.toNat * 131072)
  | .div d a b => some (4, 0xc0000003 + d.toNat * 128 + a.toNat * 4096 + b.toNat * 131072)
  | .divu d a b => some (4, 0xc8000003 + d.toNat * 128 + a.toNat * 4096 + b.toNat * 131072)
  | .rem d a b => some (4, 0xd0000003 + d.toNat * 128 + a.toNat * 4096 + b.toNat * 131072)
  | .remu d a b => some (4, 0xd8000003 + d.toNat * 128 + a.toNat * 4096 + b.toNat * 131072)
  | .clz d a => some (4, 0x5 + d.toNat * 128 + a.toNat * 4096)
  | .ctz d a => some (4, 0x8000005 + d.toNat * 128 + a.toNat * 4096)
  | .popc d a => some (4, 0x10000005 + d.toNat * 128 + a.toNat * 4096)
  | .sextB d a => some (4, 0x18000005 + d.toNat * 128 + a.toNat * 4096)
  | .sextH d a => some (4, 0x20000005 + d.toNat * 128 + a.toNat * 4096)
  | .sextW d a => some (4, 0x28000005 + d.toNat * 128 + a.toNat * 4096)
  | .zextW d a => some (4, 0x30000005 + d.toNat * 128 + a.toNat * 4096)
  | .brev d a => some (4, 0x38000005 + d.toNat * 128 + a.toNat * 4096)
  | .abs d a => some (4, 0x40000005 + d.toNat * 128 + a.toNat * 4096)
  | .addsl d a b n => some (4, 0x7 + d.toNat * 128 + a.toNat * 4096 + b.toNat * 131072 + n.toNat * 4194304)
  | .addi d a imm => some (4, 0x9 + d.toNat * 128 + a.toNat * 4096 + imm.toNat * 131072)
  | .andi d a imm => some (4, 0xb + d.toNat * 128 + a.toNat * 4096 + imm.toNat * 131072)
  | .ori d a imm => some (4, 0xd + d.toNat * 128 + a.toNat * 4096 + imm.toNat * 131072)
  | .xori d a imm => some (4, 0xf + d.toNat * 128 + a.toNat * 4096 + imm.toNat * 131072)
  | .slti d a imm => some (4, 0x11 + d.toNat * 128 + a.toNat * 4096 + imm.toNat * 131072)
  | .sltiu d a imm => some (4, 0x13 + d.toNat * 128 + a.toNat * 4096 + imm.toNat * 131072)
  | .slli d a n => some (4, 0x15 + d.toNat * 128 + a.toNat * 4096 + n.toNat * 4194304)
  | .srli d a n => some (4, 0x10000015 + d.toNat * 128 + a.toNat * 4096 + n.toNat * 4194304)
  | .srai d a n => some (4, 0x20000015 + d.toNat * 128 + a.toNat * 4096 + n.toNat * 4194304)
  | .roli d a n => some (4, 0x30000015 + d.toNat * 128 + a.toNat * 4096 + n.toNat * 4194304)
  | .rori d a n => some (4, 0x40000015 + d.toNat * 128 + a.toNat * 4096 + n.toNat * 4194304)
  | .lih d imm => some (4, 0x17 + d.toNat * 128 + imm.toNat * 4096)
  | .lia d imm => some (4, 0x19 + d.toNat * 128 + imm.toNat * 4096)
  | .bEq a b off => some (4, 0x21 + a.toNat * 4096 + b.toNat * 131072 + off.toNat / 4 % 1024 * 4194304 + off.toNat % 4 * 1024)
  | .bNe a b off => some (4, 0xa1 + a.toNat * 4096 + b.toNat * 131072 + off.toNat / 4 % 1024 * 4194304 + off.toNat % 4 * 1024)
  | .bLt a b off => some (4, 0x121 + a.toNat * 4096 + b.toNat * 131072 + off.toNat / 4 % 1024 * 4194304 + off.toNat % 4 * 1024)
  | .bGe a b off => some (4, 0x1a1 + a.toNat * 4096 + b.toNat * 131072 + off.toNat / 4 % 1024 * 4194304 + off.toNat % 4 * 1024)
  | .bLtu a b off => some (4, 0x221 + a.toNat * 4096 + b.toNat * 131072 + off.toNat / 4 % 1024 * 4194304 + off.toNat % 4 * 1024)
  | .bGeu a b off => some (4, 0x2a1 + a.toNat * 4096 + b.toNat * 131072 + off.toNat / 4 % 1024 * 4194304 + off.toNat % 4 * 1024)
  | .j off => some (4, 0x23 + off.toNat * 128)
  | .call off k => some (4, 0x25 + off.toNat * 4096 + k.toNat * 128)
  | .jr a => some (4, 0x27 + a.toNat * 4096)
  | .callr a k => some (4, 0x8000027 + a.toNat * 4096 + k.toNat * 4194304)
  | .ret => some (4, 0x10000027)
  | .loop a len => some (4, 0x29 + a.toNat * 4096 + len.toNat * 131072)
  | .loopi count len => some (4, 0x2b + count.toNat * 1048576 + len.toNat * 512)
  | .ld d a imm sz => some (4, 0x31 + d.toNat * 128 + a.toNat * 4096 + imm.toNat * 524288 + sz.code * 131072)
  | .st d a imm sz => some (4, 0x33 + d.toNat * 128 + a.toNat * 4096 + imm.toNat * 524288 + sz.code * 131072)
  | .fld d a imm sz => some (4, 0x35 + d.toNat * 128 + a.toNat * 4096 + imm.toNat * 524288 + sz.code * 131072)
  | .fst d a imm sz => some (4, 0x37 + d.toNat * 128 + a.toNat * 4096 + imm.toNat * 524288 + sz.code * 131072)
  | .fadd d a b ty rnd => some (4, 0x41 + d.toNat * 128 + a.toNat * 4096 + b.toNat * 131072 + ty.code * 33554432 + rnd.code * 8388608)
  | .fsub d a b ty rnd => some (4, 0x8000041 + d.toNat * 128 + a.toNat * 4096 + b.toNat * 131072 + ty.code * 33554432 + rnd.code * 8388608)
  | .fmul d a b ty rnd => some (4, 0x10000041 + d.toNat * 128 + a.toNat * 4096 + b.toNat * 131072 + ty.code * 33554432 + rnd.code * 8388608)
  | .fdiv d a b ty rnd => some (4, 0x18000041 + d.toNat * 128 + a.toNat * 4096 + b.toNat * 131072 + ty.code * 33554432 + rnd.code * 8388608)
  | .fsqrt d a ty rnd => some (4, 0x20000041 + d.toNat * 128 + a.toNat * 4096 + ty.code * 33554432 + rnd.code * 8388608)
  | .fmin d a b ty => some (4, 0x28000041 + d.toNat * 128 + a.toNat * 4096 + b.toNat * 131072 + ty.code * 33554432)
  | .fmax d a b ty => some (4, 0x30000041 + d.toNat * 128 + a.toNat * 4096 + b.toNat * 131072 + ty.code * 33554432)
  | .fsgnj d a b ty => some (4, 0x38000041 + d.toNat * 128 + a.toNat * 4096 + b.toNat * 131072 + ty.code * 33554432)
  | .fsgnjn d a b ty => some (4, 0x40000041 + d.toNat * 128 + a.toNat * 4096 + b.toNat * 131072 + ty.code * 33554432)
  | .fsgnjx d a b ty => some (4, 0x48000041 + d.toNat * 128 + a.toNat * 4096 + b.toNat * 131072 + ty.code * 33554432)
  | .feq d a b ty => some (4, 0x50000041 + d.toNat * 128 + a.toNat * 4096 + b.toNat * 131072 + ty.code * 33554432)
  | .flt d a b ty => some (4, 0x58000041 + d.toNat * 128 + a.toNat * 4096 + b.toNat * 131072 + ty.code * 33554432)
  | .fle d a b ty => some (4, 0x60000041 + d.toNat * 128 + a.toNat * 4096 + b.toNat * 131072 + ty.code * 33554432)
  | .fclass d a ty => some (4, 0x68000041 + d.toNat * 128 + a.toNat * 4096 + ty.code * 33554432)
  | .fcvt d a src ty rnd => some (4, 0x70000041 + d.toNat * 128 + a.toNat * 4096 + src.code * 131072 + ty.code * 33554432 + rnd.code * 8388608)
  | .fcvtI d a ty rnd => some (4, 0x78000041 + d.toNat * 128 + a.toNat * 4096 + ty.code * 33554432 + rnd.code * 8388608)
  | .fcvtFromI d a ty rnd => some (4, 0x80000041 + d.toNat * 128 + a.toNat * 4096 + ty.code * 33554432 + rnd.code * 8388608)
  | .fmvX d a ty => some (4, 0x88000041 + d.toNat * 128 + a.toNat * 4096 + ty.code * 33554432)
  | .fmvF d a ty => some (4, 0x90000041 + d.toNat * 128 + a.toNat * 4096 + ty.code * 33554432)
  | .fmadd d a b c ty rnd => some (4, 0x43 + d.toNat * 128 + a.toNat * 4096 + b.toNat * 131072 + c.toNat * 4194304 + ty.code * 1073741824 + rnd.code * 268435456)
  | .fmsub d a b c ty rnd => some (4, 0x8000043 + d.toNat * 128 + a.toNat * 4096 + b.toNat * 131072 + c.toNat * 4194304 + ty.code * 1073741824 + rnd.code * 268435456)
  | .fnmadd d a b c ty rnd => some (4, 0x45 + d.toNat * 128 + a.toNat * 4096 + b.toNat * 131072 + c.toNat * 4194304 + ty.code * 1073741824 + rnd.code * 268435456)
  | .fnmsub d a b c ty rnd => some (4, 0x8000045 + d.toNat * 128 + a.toNat * 4096 + b.toNat * 131072 + c.toNat * 4194304 + ty.code * 1073741824 + rnd.code * 268435456)
  | .fgetx d a b => some (4, 0x47 + d.toNat * 128 + a.toNat * 4096 + b.toNat * 131072)
  | .fputx d a b => some (4, 0x8000047 + d.toNat * 128 + a.toNat * 4096 + b.toNat * 131072)
  | .xgetx d a b => some (4, 0x10000047 + d.toNat * 128 + a.toNat * 4096 + b.toNat * 131072)
  | .xputx d a b => some (4, 0x18000047 + d.toNat * 128 + a.toNat * 4096 + b.toNat * 131072)
  | .gets d n => some (4, 0x49 + d.toNat * 128 + n.toNat * 1048576)
  | .puts a n => some (4, 0x20049 + a.toNat * 4096 + n.toNat * 1048576)
  | .nop => some (4, 0x4b)
  | .trap imm => some (4, 0x800004b + imm.toNat * 4096)
  | .brk imm => some (4, 0x1000004b + imm.toNat * 4096)
  | .tret => some (4, 0x1800004b)
  | .texit imm => some (4, 0x2000004b + imm.toNat * 4096)
  | .wfe => some (4, 0x2800004b)
  | .sev a => some (4, 0x3000004b + a.toNat * 4096)
  | .popev d => some (4, 0x3800004b + d.toNat * 128)
  | .region msk => some (4, 0x4000004b + msk.toNat * 4096)
  | .commit => some (4, 0x4800004b)
  | .abort => some (4, 0x5000004b)
  | .gang n => some (4, 0x5800004b + n.toNat * 4096)
  | .split => some (4, 0x6000004b)
  | .fence scope => some (4, 0x6800004b + scope.code * 4096)
  | .probe d a => some (4, 0x7000004b + d.toNat * 128 + a.toNat * 4096)
  | .send a b => some (4, 0x4d + a.toNat * 4096 + b.toNat * 131072)
  | .recv d => some (4, 0x800004d + d.toNat * 128)
  | .grp grp => some (4, 0x4f + grp.toNat * 131072)
  | .rel a b => some (4, 0x800004f + a.toNat * 4096 + b.toNat * 131072)
  | .grpq d grp => some (4, 0x1000004f + d.toNat * 128 + grp.toNat * 131072)
  | .ldG d a imm sz => some (4, 0x39 + d.toNat * 128 + a.toNat * 4096 + imm.toNat * 8388608 + sz.code * 2097152)
  | .ldAcq d a imm sz scope => some (4, 0x20039 + d.toNat * 128 + a.toNat * 4096 + imm.toNat * 8388608 + sz.code * 2097152 + scope.code * 524288)
  | .stG d a imm sz => some (4, 0x3b + d.toNat * 128 + a.toNat * 4096 + imm.toNat * 8388608 + sz.code * 2097152)
  | .stRel d a imm sz scope => some (4, 0x2003b + d.toNat * 128 + a.toNat * 4096 + imm.toNat * 8388608 + sz.code * 2097152 + scope.code * 524288)
  | .atomAdd d a b ar sz scope => some (4, 0x3d + d.toNat * 128 + a.toNat * 4096 + b.toNat * 131072 + ar.toNat * 4194304 + sz.code * 33554432 + scope.code * 8388608)
  | .atomAnd d a b ar sz scope => some (4, 0x800003d + d.toNat * 128 + a.toNat * 4096 + b.toNat * 131072 + ar.toNat * 4194304 + sz.code * 33554432 + scope.code * 8388608)
  | .atomOr d a b ar sz scope => some (4, 0x1000003d + d.toNat * 128 + a.toNat * 4096 + b.toNat * 131072 + ar.toNat * 4194304 + sz.code * 33554432 + scope.code * 8388608)
  | .atomXor d a b ar sz scope => some (4, 0x1800003d + d.toNat * 128 + a.toNat * 4096 + b.toNat * 131072 + ar.toNat * 4194304 + sz.code * 33554432 + scope.code * 8388608)
  | .atomMin d a b ar sz scope => some (4, 0x2000003d + d.toNat * 128 + a.toNat * 4096 + b.toNat * 131072 + ar.toNat * 4194304 + sz.code * 33554432 + scope.code * 8388608)
  | .atomMax d a b ar sz scope => some (4, 0x2800003d + d.toNat * 128 + a.toNat * 4096 + b.toNat * 131072 + ar.toNat * 4194304 + sz.code * 33554432 + scope.code * 8388608)
  | .atomMinu d a b ar sz scope => some (4, 0x3000003d + d.toNat * 128 + a.toNat * 4096 + b.toNat * 131072 + ar.toNat * 4194304 + sz.code * 33554432 + scope.code * 8388608)
  | .atomMaxu d a b ar sz scope => some (4, 0x3800003d + d.toNat * 128 + a.toNat * 4096 + b.toNat * 131072 + ar.toNat * 4194304 + sz.code * 33554432 + scope.code * 8388608)
  | .atomSwap d a b ar sz scope => some (4, 0x4000003d + d.toNat * 128 + a.toNat * 4096 + b.toNat * 131072 + ar.toNat * 4194304 + sz.code * 33554432 + scope.code * 8388608)
  | .atomCas d a b ar sz scope => some (4, 0x4800003d + d.toNat * 128 + a.toNat * 4096 + b.toNat * 131072 + ar.toNat * 4194304 + sz.code * 33554432 + scope.code * 8388608)
  | .atomFaddS d a b ar scope => some (4, 0x5000003d + d.toNat * 128 + a.toNat * 4096 + b.toNat * 131072 + ar.toNat * 4194304 + scope.code * 8388608)
  | .atomFminS d a b ar scope => some (4, 0x5800003d + d.toNat * 128 + a.toNat * 4096 + b.toNat * 131072 + ar.toNat * 4194304 + scope.code * 8388608)
  | .atomFmaxS d a b ar scope => some (4, 0x6000003d + d.toNat * 128 + a.toNat * 4096 + b.toNat * 131072 + ar.toNat * 4194304 + scope.code * 8388608)
  | .wait ld st cp mx => some (4, 0x3f + ld.toNat * 65536 + st.toNat * 1048576 + cp.toNat * 16777216 + mx.toNat * 268435456)
  | .vadd d a b ty mask => some (4, 0x51 + d.toNat * 128 + a.toNat * 4096 + b.toNat * 131072 + ty.code * 33554432 + mask.toNat * 4194304)
  | .vsub d a b ty mask => some (4, 0x8000051 + d.toNat * 128 + a.toNat * 4096 + b.toNat * 131072 + ty.code * 33554432 + mask.toNat * 4194304)
  | .vmul d a b ty mask => some (4, 0x10000051 + d.toNat * 128 + a.toNat * 4096 + b.toNat * 131072 + ty.code * 33554432 + mask.toNat * 4194304)
  | .vmulh d a b ty mask => some (4, 0x18000051 + d.toNat * 128 + a.toNat * 4096 + b.toNat * 131072 + ty.code * 33554432 + mask.toNat * 4194304)
  | .vmulhu d a b ty mask => some (4, 0x20000051 + d.toNat * 128 + a.toNat * 4096 + b.toNat * 131072 + ty.code * 33554432 + mask.toNat * 4194304)
  | .vmin d a b ty mask => some (4, 0x28000051 + d.toNat * 128 + a.toNat * 4096 + b.toNat * 131072 + ty.code * 33554432 + mask.toNat * 4194304)
  | .vmax d a b ty mask => some (4, 0x30000051 + d.toNat * 128 + a.toNat * 4096 + b.toNat * 131072 + ty.code * 33554432 + mask.toNat * 4194304)
  | .vminu d a b ty mask => some (4, 0x38000051 + d.toNat * 128 + a.toNat * 4096 + b.toNat * 131072 + ty.code * 33554432 + mask.toNat * 4194304)
  | .vmaxu d a b ty mask => some (4, 0x40000051 + d.toNat * 128 + a.toNat * 4096 + b.toNat * 131072 + ty.code * 33554432 + mask.toNat * 4194304)
  | .vand d a b ty mask => some (4, 0x48000051 + d.toNat * 128 + a.toNat * 4096 + b.toNat * 131072 + ty.code * 33554432 + mask.toNat * 4194304)
  | .vor d a b ty mask => some (4, 0x50000051 + d.toNat * 128 + a.toNat * 4096 + b.toNat * 131072 + ty.code * 33554432 + mask.toNat * 4194304)
  | .vxor d a b ty mask => some (4, 0x58000051 + d.toNat * 128 + a.toNat * 4096 + b.toNat * 131072 + ty.code * 33554432 + mask.toNat * 4194304)
  | .vsll d a b ty mask => some (4, 0x60000051 + d.toNat * 128 + a.toNat * 4096 + b.toNat * 131072 + ty.code * 33554432 + mask.toNat * 4194304)
  | .vsrl d a b ty mask => some (4, 0x68000051 + d.toNat * 128 + a.toNat * 4096 + b.toNat * 131072 + ty.code * 33554432 + mask.toNat * 4194304)
  | .vsra d a b ty mask => some (4, 0x70000051 + d.toNat * 128 + a.toNat * 4096 + b.toNat * 131072 + ty.code * 33554432 + mask.toNat * 4194304)
  | .vadds d a b ty mask => some (4, 0x78000051 + d.toNat * 128 + a.toNat * 4096 + b.toNat * 131072 + ty.code * 33554432 + mask.toNat * 4194304)
  | .vsubs d a b ty mask => some (4, 0x80000051 + d.toNat * 128 + a.toNat * 4096 + b.toNat * 131072 + ty.code * 33554432 + mask.toNat * 4194304)
  | .vabs d a ty mask => some (4, 0x88000051 + d.toNat * 128 + a.toNat * 4096 + ty.code * 33554432 + mask.toNat * 4194304)
  | .vneg d a ty mask => some (4, 0x90000051 + d.toNat * 128 + a.toNat * 4096 + ty.code * 33554432 + mask.toNat * 4194304)
  | .vdup d a ty mask => some (4, 0x98000051 + d.toNat * 128 + a.toNat * 4096 + ty.code * 33554432 + mask.toNat * 4194304)
  | .vfadd d a b ty mask => some (4, 0x53 + d.toNat * 128 + a.toNat * 4096 + b.toNat * 131072 + ty.code * 33554432 + mask.toNat * 4194304)
  | .vfsub d a b ty mask => some (4, 0x8000053 + d.toNat * 128 + a.toNat * 4096 + b.toNat * 131072 + ty.code * 33554432 + mask.toNat * 4194304)
  | .vfmul d a b ty mask => some (4, 0x10000053 + d.toNat * 128 + a.toNat * 4096 + b.toNat * 131072 + ty.code * 33554432 + mask.toNat * 4194304)
  | .vfdiv d a b ty mask => some (4, 0x18000053 + d.toNat * 128 + a.toNat * 4096 + b.toNat * 131072 + ty.code * 33554432 + mask.toNat * 4194304)
  | .vfsqrt d a ty mask => some (4, 0x20000053 + d.toNat * 128 + a.toNat * 4096 + ty.code * 33554432 + mask.toNat * 4194304)
  | .vfmin d a b ty mask => some (4, 0x28000053 + d.toNat * 128 + a.toNat * 4096 + b.toNat * 131072 + ty.code * 33554432 + mask.toNat * 4194304)
  | .vfmax d a b ty mask => some (4, 0x30000053 + d.toNat * 128 + a.toNat * 4096 + b.toNat * 131072 + ty.code * 33554432 + mask.toNat * 4194304)
  | .vfabs d a ty mask => some (4, 0x38000053 + d.toNat * 128 + a.toNat * 4096 + ty.code * 33554432 + mask.toNat * 4194304)
  | .vfneg d a ty mask => some (4, 0x40000053 + d.toNat * 128 + a.toNat * 4096 + ty.code * 33554432 + mask.toNat * 4194304)
  | .vfdup d a ty mask => some (4, 0x48000053 + d.toNat * 128 + a.toNat * 4096 + ty.code * 33554432 + mask.toNat * 4194304)
  | .vfmadd d a b ty mask => some (4, 0x55 + d.toNat * 128 + a.toNat * 4096 + b.toNat * 131072 + ty.code * 33554432 + mask.toNat * 4194304)
  | .vfmsub d a b ty mask => some (4, 0x8000055 + d.toNat * 128 + a.toNat * 4096 + b.toNat * 131072 + ty.code * 33554432 + mask.toNat * 4194304)
  | .vfnmadd d a b ty mask => some (4, 0x10000055 + d.toNat * 128 + a.toNat * 4096 + b.toNat * 131072 + ty.code * 33554432 + mask.toNat * 4194304)
  | .vfnmsub d a b ty mask => some (4, 0x18000055 + d.toNat * 128 + a.toNat * 4096 + b.toNat * 131072 + ty.code * 33554432 + mask.toNat * 4194304)
  | .vceq d a b ty mask => some (4, 0x57 + d.toNat * 128 + a.toNat * 4096 + b.toNat * 131072 + ty.code * 33554432 + mask.toNat * 4194304)
  | .vcne d a b ty mask => some (4, 0x8000057 + d.toNat * 128 + a.toNat * 4096 + b.toNat * 131072 + ty.code * 33554432 + mask.toNat * 4194304)
  | .vclt d a b ty mask => some (4, 0x10000057 + d.toNat * 128 + a.toNat * 4096 + b.toNat * 131072 + ty.code * 33554432 + mask.toNat * 4194304)
  | .vcle d a b ty mask => some (4, 0x18000057 + d.toNat * 128 + a.toNat * 4096 + b.toNat * 131072 + ty.code * 33554432 + mask.toNat * 4194304)
  | .vcltu d a b ty mask => some (4, 0x20000057 + d.toNat * 128 + a.toNat * 4096 + b.toNat * 131072 + ty.code * 33554432 + mask.toNat * 4194304)
  | .vcleu d a b ty mask => some (4, 0x28000057 + d.toNat * 128 + a.toNat * 4096 + b.toNat * 131072 + ty.code * 33554432 + mask.toNat * 4194304)
  | .vfceq d a b ty mask => some (4, 0x40000057 + d.toNat * 128 + a.toNat * 4096 + b.toNat * 131072 + ty.code * 33554432 + mask.toNat * 4194304)
  | .vfclt d a b ty mask => some (4, 0x48000057 + d.toNat * 128 + a.toNat * 4096 + b.toNat * 131072 + ty.code * 33554432 + mask.toNat * 4194304)
  | .vfcle d a b ty mask => some (4, 0x50000057 + d.toNat * 128 + a.toNat * 4096 + b.toNat * 131072 + ty.code * 33554432 + mask.toNat * 4194304)
  | .vsel d a b ty mask => some (4, 0x59 + d.toNat * 128 + a.toNat * 4096 + b.toNat * 131072 + ty.code * 33554432 + mask.toNat * 4194304)
  | .vperm d a b ty mask => some (4, 0x8000059 + d.toNat * 128 + a.toNat * 4096 + b.toNat * 131072 + ty.code * 33554432 + mask.toNat * 4194304)
  | .vslup d a b ty mask => some (4, 0x10000059 + d.toNat * 128 + a.toNat * 4096 + b.toNat * 131072 + ty.code * 33554432 + mask.toNat * 4194304)
  | .vsldn d a b ty mask => some (4, 0x18000059 + d.toNat * 128 + a.toNat * 4096 + b.toNat * 131072 + ty.code * 33554432 + mask.toNat * 4194304)
  | .vrsum d a ty mask => some (4, 0x20000059 + d.toNat * 128 + a.toNat * 4096 + ty.code * 33554432 + mask.toNat * 4194304)
  | .vrmin d a ty mask => some (4, 0x28000059 + d.toNat * 128 + a.toNat * 4096 + ty.code * 33554432 + mask.toNat * 4194304)
  | .vrmax d a ty mask => some (4, 0x30000059 + d.toNat * 128 + a.toNat * 4096 + ty.code * 33554432 + mask.toNat * 4194304)
  | .vfrsum d a ty mask => some (4, 0x38000059 + d.toNat * 128 + a.toNat * 4096 + ty.code * 33554432 + mask.toNat * 4194304)
  | .vfrmin d a ty mask => some (4, 0x40000059 + d.toNat * 128 + a.toNat * 4096 + ty.code * 33554432 + mask.toNat * 4194304)
  | .vfrmax d a ty mask => some (4, 0x48000059 + d.toNat * 128 + a.toNat * 4096 + ty.code * 33554432 + mask.toNat * 4194304)
  | .vext d a b ty => some (4, 0x50000059 + d.toNat * 128 + a.toNat * 4096 + b.toNat * 131072 + ty.code * 33554432)
  | .vins d a b ty => some (4, 0x58000059 + d.toNat * 128 + a.toNat * 4096 + b.toNat * 131072 + ty.code * 33554432)
  | .vcvt d a src dst rnd mask => some (4, 0x5b + d.toNat * 128 + a.toNat * 4096 + src.code * 67108864 + dst.code * 536870912 + rnd.code * 16777216 + mask.toNat * 2097152)
  | .mand d a b => some (4, 0x5d + d.toNat * 128 + a.toNat * 4096 + b.toNat * 131072)
  | .mor d a b => some (4, 0x800005d + d.toNat * 128 + a.toNat * 4096 + b.toNat * 131072)
  | .mxor d a b => some (4, 0x1000005d + d.toNat * 128 + a.toNat * 4096 + b.toNat * 131072)
  | .mandn d a b => some (4, 0x1800005d + d.toNat * 128 + a.toNat * 4096 + b.toNat * 131072)
  | .mnot d a => some (4, 0x2000005d + d.toNat * 128 + a.toNat * 4096)
  | .mpopc d a => some (4, 0x2800005d + d.toNat * 128 + a.toNat * 4096)
  | .mfirst d a => some (4, 0x3000005d + d.toNat * 128 + a.toNat * 4096)
  | .mfromx d a => some (4, 0x3800005d + d.toNat * 128 + a.toNat * 4096)
  | .mtox d a => some (4, 0x4000005d + d.toNat * 128 + a.toNat * 4096)
  | .vld d a off mask => some (4, 0x5f + d.toNat * 128 + a.toNat * 4096 + off.toNat * 33554432 + mask.toNat * 4194304)
  | .vst d a off mask => some (4, 0x2005f + d.toNat * 128 + a.toNat * 4096 + off.toNat * 33554432 + mask.toNat * 4194304)
  | .vgather d a b ty mask => some (4, 0x61 + d.toNat * 128 + a.toNat * 4096 + b.toNat * 131072 + ty.code * 33554432 + mask.toNat * 4194304)
  | .vscatter d a b ty mask => some (4, 0x8000061 + d.toNat * 128 + a.toNat * 4096 + b.toNat * 131072 + ty.code * 33554432 + mask.toNat * 4194304)
  | .mmaLo a b f n pair => some (4, 0x65 + a.toNat * 4096 + b.toNat * 131072 + f.toNat * 4194304 + n.toNat * 128 + pair.code * 134217728)
  | .mmaHi a b f n pair => some (4, 0x67 + a.toNat * 4096 + b.toNat * 131072 + f.toNat * 4194304 + n.toNat * 128 + pair.code * 134217728)
  | .mclr n => some (4, 0x69 + n.toNat / 32 % 2 * 67108864 + n.toNat % 32 * 128)
  | .mld n a ty => some (4, 0x8000069 + n.toNat / 32 % 2 * 67108864 + n.toNat % 32 * 128 + a.toNat * 4096 + ty.code * 4194304)
  | .mst n a ty rnd => some (4, 0x10000069 + n.toNat / 32 % 2 * 67108864 + n.toNat % 32 * 128 + a.toNat * 4096 + ty.code * 4194304 + rnd.code * 16777216)
  | .mcfg a n => some (4, 0x18000069 + a.toNat * 4096 + n.toNat * 131072)
  | .vpackM8 d a b rnd => some (4, 0x20000069 + d.toNat * 128 + a.toNat * 4096 + b.toNat * 131072 + rnd.code * 16777216)
  | .vpackE43 d a b rnd => some (4, 0x28000069 + d.toNat * 128 + a.toNat * 4096 + b.toNat * 131072 + rnd.code * 16777216)
  | .vpackE52 d a b rnd => some (4, 0x30000069 + d.toNat * 128 + a.toNat * 4096 + b.toNat * 131072 + rnd.code * 16777216)
  | .vpackE23 d a b rnd => some (4, 0x38000069 + d.toNat * 128 + a.toNat * 4096 + b.toNat * 131072 + rnd.code * 16777216)
  | .vpackE32 d a b rnd => some (4, 0x40000069 + d.toNat * 128 + a.toNat * 4096 + b.toNat * 131072 + rnd.code * 16777216)
  | .vpackE21 d a b rnd => some (4, 0x48000069 + d.toNat * 128 + a.toNat * 4096 + b.toNat * 131072 + rnd.code * 16777216)
  | .vpackI8 d a b rnd => some (4, 0x50000069 + d.toNat * 128 + a.toNat * 4096 + b.toNat * 131072 + rnd.code * 16777216)
  | .cp a b ch => some (4, 0x6b + a.toNat * 4096 + b.toNat * 131072 + ch.toNat * 4194304)
  | .cpMc a b ch => some (4, 0x800006b + a.toNat * 4096 + b.toNat * 131072 + ch.toNat * 4194304)
  | .cpDec a b ch => some (4, 0x1000006b + a.toNat * 4096 + b.toNat * 131072 + ch.toNat * 4194304)
  | .subscr a b ch => some (4, 0x1800006b + a.toNat * 4096 + b.toNat * 131072 + ch.toNat * 4194304)
  | .srel a ch => some (4, 0x2000006b + a.toNat * 4096 + ch.toNat * 4194304)
  | .chinit a b ch => some (4, 0x2800006b + a.toNat * 4096 + b.toNat * 131072 + ch.toNat * 4194304)
  | .chq d ch => some (4, 0x3000006b + d.toNat * 128 + ch.toNat * 4194304)
  | .cpcfg a n => some (4, 0x3800006b + a.toNat * 4096 + n.toNat * 131072)
  | .waitc ch => some (4, 0x4000006b + ch.toNat * 4194304)
  | .nopC => some (2, 0x800)
  | .addCX0 d s => some (2, 0x1000 + d.toNat * 64 + s.toNat * 2)
  | .addC d s => some (2, 0x1800 + d.toNat * 64 + s.toNat * 2)
  | .subC d s => some (2, 0x2000 + d.toNat * 64 + s.toNat * 2)
  | .andC d s => some (2, 0x2800 + d.toNat * 64 + s.toNat * 2)
  | .orC d s => some (2, 0x3000 + d.toNat * 64 + s.toNat * 2)
  | .xorC d s => some (2, 0x3800 + d.toNat * 64 + s.toNat * 2)
  | .addiC d imm => some (2, 0x4000 + d.toNat * 64 + imm.toNat * 2)
  | .addiCX0 d imm => some (2, 0x4800 + d.toNat * 64 + imm.toNat * 2)
  | .slliC d n => some (2, 0x5000 + d.toNat * 64 + n.toNat * 2)
  | .srliC d n => some (2, 0x5800 + d.toNat * 64 + n.toNat * 2)
  | .sraiC d n => some (2, 0x6000 + d.toNat * 64 + n.toNat * 2)
  | .ldDC d s => some (2, 0x6800 + d.toNat * 64 + s.toNat * 2)
  | .stDC d s => some (2, 0x7000 + d.toNat * 64 + s.toNat * 2)
  | .ldWC d s => some (2, 0x7800 + d.toNat * 64 + s.toNat * 2)
  | .stWC d s => some (2, 0x8000 + d.toNat * 64 + s.toNat * 2)
  | .jrC s => some (2, 0x8800 + s.toNat * 2)
  | .retC => some (2, 0x9000)
  | .texitC => some (2, 0x9800)
  | .wfeC => some (2, 0xa000)
  | .faddSC d s => some (2, 0xa800 + d.toNat * 64 + s.toNat * 2)
  | .fmulSC d s => some (2, 0xb000 + d.toNat * 64 + s.toNat * 2)
  | .illegalInstruction _ => none
  | .fetchFault _ _ => none
  | .storeBufferPerform => none
  | .releaseConditionMet => none
  | .softError => none
  | .linkRetrainComplete => none
  | .cxlLinkState => none
  | .hostAtomicop => none
  | .ideKeyProgramming => none
  | .thermalThrottleEnd => none

/-- Decoding of the first instruction of `bs`: its parcels, and the bytes after it (03 R50, R51). -/
def decode (bs : List Byte) : Except Reject (Instr × List Byte) :=
  match bs with
  | b0 :: b1 :: rest =>
    if b0.toNat % 2 = 0 then
      let w := leNat [b0, b1]
      match decodeCompact w with
      | some i => .ok (i, rest)
      | none => .error (.illegal w)
    else
      match rest with
      | b2 :: b3 :: rest' =>
        let w := leNat [b0, b1, b2, b3]
        match decodeFull w with
        | some i => .ok (i, rest')
        | none => .error (.illegal w)
      | _ => .error .noSecondParcel
  | _ => .error .noFirstParcel

/-- The bytes of an instruction, as they lie in memory. -/
def encodeBytes (i : Instr) : Option (List Byte) :=
  match encode i with
  | some (n, w) => some (leBytes n w)
  | none => none

/-- The instruction read from the bits of an opcode-table row, laid out as memory holds them. -/
def decodeTableWord (nbits w : Nat) : Option Instr :=
  match decode (leBytes (nbits / 8) w ++ [0, 0]) with
  | .ok (i, _) => some i
  | .error _ => none

end Sys2Proof
end

