-- ==== Sys2Proof/Machine/Issue.lean ====
section
/-! DEFINITION. Fetching, the choice of the slot that issues, gangs, and what stands around the meaning of an instruction in a step
(01 R22, R419; 03 R50, R51; 06 R121 to R126). -/

namespace Sys2Proof.Machine

/-! ### Fetching (01 R22, R419; 03 R51) -/

/-- What a fetch gives. -/
inductive Fetch (α : Type) where
  | wait
  | trap (c : Cause) (v : Word)
  | got (a : α)

/-- One of the values that a parcel has held under `key` since the capsule in hand first fetched (01 R419): the value itself, where nothing has
changed it. Each fetch of each parcel picks for itself. -/
def pickParcel (s : State) (k : Nat) (key : KeyId) (cur : BitVec 16) : BitVec 16 :=
  match (sget [] s.mem.past (k / 2)).filterMap fun v => if some v.1 = s.slot.capsule ∧ v.2.1 = key then some v.2.2 else none with
  | [] => cur
  | old => (cur :: old).getD (Config.fetchPick s.fetches k % (old.length + 1)) cur

/-- The parcel at window address `a`. -/
def fetchParcel (s : State) (a : Word) : Fetch (BitVec 16) :=
  match translate (rangesOf s) a 2 .fetch with
  | .error (c, _) => .trap c a
  | .ok (.mem cls addr key) =>
    let at0 : Option Nat := if cls = 2 then hostByte s addr else some (memKey cls addr)
    let view := if cls = 2 then atsView s .fetch addr 2 else .ready
    match view, at0 with
    | .refused, _ => .trap .ats (BitVec.ofNat 64 addr)
    | .missing, _ => .wait
    | .ready, none => .wait
    | .ready, some k =>
      if s.mem.poisoned k || (cls == 1 && expanderFailed s addr 2) then .trap .poison a
      else
        let key := if cls = 2 then hostKey key addr else key
        .got (pickParcel s k key (BitVec.ofNat 16 (leNat (s.mem.read key 2 k))))
  | .ok _ => .trap .extent a

/-- The instruction at the pc of the slot in hand: an encoding that is none is ILLEGAL_INSTRUCTION (03 R51, R68). -/
def fetchInstr (s : State) : Fetch Instr :=
  match fetchParcel s s.slot.pc with
  | .wait => .wait
  | .trap .extent a => .got (.fetchFault false a)
  | .trap .rights a => .got (.fetchFault true a)
  | .trap c v => .trap c v
  | .got p0 =>
    let bytes : Fetch (List Byte) :=
      if p0.getLsbD 0 then
        match fetchParcel s (s.slot.pc + 2) with
        | .wait => .wait
        | .trap c v => .trap c v
        | .got p1 => .got (leBytes 2 p0.toNat ++ leBytes 2 p1.toNat)
      else .got (leBytes 2 p0.toNat)
    match bytes with
    | .wait => .wait
    | .trap .extent a => .got (.fetchFault false a)
    | .trap .rights a => .got (.fetchFault true a)
    | .trap c v => .trap c v
    | .got bs =>
      match decode bs with
      | .ok (i, _) => .got i
      | .error _ => .got (.illegalInstruction (BitVec.ofNat 32 (leNat bs)))

/-! ### One instruction of a slot or of its gang (06 R122, R124, R126) -/

/-- A meaning for every constructor. -/
abbrev Exec := Instr → State → Out

/-- Refusals of host pages that are not reported yet. -/
def refusals (s : State) : SMap Translation := s.hub.atc.filter fun p => p.2.page.isNone

/-- The host's refusals as they stood before the first member: each member meets them (06 R126; 09 R203). -/
def withRefusals (r : SMap Translation) (s : State) : State :=
  if r.isEmpty then s
  else
    { s with hub := { s.hub with atc := r.foldl (fun m p => if (sfind m p.1).isSome then m else sput m p.1 p.2) s.hub.atc } }

/-- A refusal that a member has reported is gone when all have run. -/
def dropReported (r : SMap Translation) (after s : State) : State :=
  if r.isEmpty then s
  else
    { s with hub := { s.hub with atc := r.foldl (fun m p => if (sfind after.hub.atc p.1).isSome then m else serase m p.1) s.hub.atc } }

/-- Each member in turn; the first end that is no next state ends the step, and a member that cannot go on stops the others. -/
def runMembers (ex : State → Out) (r : SMap Translation) : List SlotId → State → Out
  | [], s => .next s
  | m :: t, s =>
    match ex (focus (withRefusals r s) m) with
    | .next s' =>
      if s'.stalled then .next s'
      else
        match runMembers ex r t s' with
        | .next u => .next (dropReported r s' u)
        | o => o
    | o => o

/-- The members that cannot go on, with what their slots keep of the attempt (log 12). -/
def stuckMembers (ex : State → Out) (ms : List SlotId) (s : State) : List (SlotId × Slot) :=
  ms.filterMap fun m =>
    match ex (focus s m) with
    | .next t => if t.stalled then some (m, getSlot t m) else none
    | _ => none

/-- Where one member has left the gang, it is dissolved for all (06 R125, R126). -/
def dissolve (ms : List SlotId) (s : State) : State :=
  if ms.all fun m => (getSlot s m).gangSize != 1 then s
  else ms.foldl (fun s m => modSlot s m fun l => { l with gangPos := 0, gangSize := 1 }) s

/-- What the gang's slots keep where members cannot go on: where one has closed its region, all have (20 R317). -/
def keepStuck (ms : List SlotId) (stuck : List (SlotId × Slot)) (s : State) : State :=
  let s := stuck.foldl (fun s p => setSlot s p.1 p.2) s
  if stuck.any fun p => p.2.closing then ms.foldl (fun s m => modSlot s m closeRegion) s else s

/-- An instruction in every member of the gang of the slot in hand, or in that slot alone. -/
def runGang (ex : State → Out) (s : State) : Out :=
  if s.slot.gangSize ≤ 1 then ex { s with latch := [] }
  else
    let ms := gangOf s s.cur
    let s := { s with latch := ms.map fun m => (m, getSlot s m) }
    match stuckMembers ex ms s with
    | [] =>
      match runMembers ex (refusals s) ms s with
      | .next t => if t.stalled then stall { s with latch := [] } else .next { dissolve ms t with latch := [] }
      | o => o
    | stuck => .next { keepStuck ms stuck s with latch := [], stalled := true }

/-- The memory behind the extent that a parcel is fetched from: first byte, number of bytes and key; of host memory the pages with a
translation (01 R419). -/
def codeBehind (s : State) (a : Word) : List (Nat × Nat × KeyId) :=
  match rangeAt (rangesOf s) a.toNat with
  | none => []
  | some (_, e) =>
    if e.cls = 2 then
      s.hub.atc.filterMap fun p => match p.2.page with
        | some q =>
          if e.target / 4096 ≤ p.1 ∧ p.1 ≤ (e.target + e.length - 1) / 4096 then some (memKey 2 (q * 4096), 4096, hostKey e.key (4096 * p.1))
          else none
        | none => none
    else [(memKey e.cls e.target, e.length, e.key)]

/-- From the first fetch on, the values of the capsule's code are kept (01 R419): of the extent behind `a`. -/
def watchCode (s : State) (a : Word) : State :=
  let cap := s.slot.capsule.getD 0
  let new := ((codeBehind s a).map fun r => (cap, r)).filter fun w => !s.mem.watch.contains w
  { s with mem := { s.mem with watch := s.mem.watch ++ new } }

/-- The parcel at `a` is fetched: its code is watched, and its host page used (09 R203). -/
def noteParcel (s : State) (a : Word) : State :=
  match translate (rangesOf s) a 2 .fetch with
  | .ok p => touchPlace (watchCode s a) p 2
  | .error _ => watchCode s a

/-- A fetch counts; a second parcel is fetched where the first asks for one. -/
def noteFetch (s : State) : State :=
  let s := noteParcel { s with fetches := s.fetches + 1 } s.slot.pc
  match fetchParcel s s.slot.pc with
  | .got p => if p.getLsbD 0 then noteParcel s (s.slot.pc + 2) else s
  | _ => s

/-- Loads that have been performed before their instructions stay over an instruction that accesses no memory, and over plain global loads, which
see to them themselves; any other may have to be performed before them (11 R225, R226; log 74). -/
def keepsEarly : Instr → Bool
  | .add _ _ _ | .sub _ _ _ | .and _ _ _ | .or _ _ _ | .xor _ _ _ | .andn _ _ _ | .orn _ _ _ | .xnor _ _ _ | .sll _ _ _ | .srl _ _ _
  | .sra _ _ _ | .rol _ _ _ | .ror _ _ _ | .slt _ _ _ | .sltu _ _ _ | .seq _ _ _ | .min _ _ _ | .max _ _ _ | .minu _ _ _ | .maxu _ _ _
  | .csel _ _ _ _ | .mul _ _ _ | .addsl _ _ _ _ | .addi _ _ _ | .andi _ _ _ | .ori _ _ _ | .xori _ _ _ | .slti _ _ _ | .sltiu _ _ _
  | .slli _ _ _ | .srli _ _ _ | .srai _ _ _ | .lih _ _ | .lia _ _ | .bEq _ _ _ | .bNe _ _ _ | .bLt _ _ _ | .bGe _ _ _ | .bLtu _ _ _
  | .bGeu _ _ _ | .j _ | .jr _ | .loop _ _ | .loopi _ _ | .gets _ _ | .ldG _ _ _ _ | .nop | .nopC | .jrC _ | .addCX0 _ _ | .addC _ _
  | .subC _ _ | .andC _ _ | .orC _ _ | .xorC _ _ | .addiC _ _ | .addiCX0 _ _ | .slliC _ _ | .srliC _ _ | .sraiC _ _ => true
  | _ => false

/-- The slot in hand begins an instruction. -/
def begins (i : Instr) (s : State) : State := if keepsEarly i then s else onSlot s fun l => { l with early := [] }

/-- The next instruction of slot `i`: its gang's leader fetches (06 R124). One that has closed its region goes on when every held write has
left (20 R319). -/
def runSlot (ex : Exec) (i : SlotId) (s : State) : Out :=
  if (gangOf s i).any fun m => draining (getSlot s m) then stall s
  else
    let s := noteFetch (focus { s with stalled := false } ((gangOf s i).headD i))
    match fetchInstr s with
    | .wait => stall s
    | .trap c v => runGang (trap c v) s
    | .got i => runGang (ex i) (begins i s)

/-! ### The choice of the slot (06 R121) -/

/-- A slot that may issue, but for what its instruction waits for. -/
def ready (s : State) (i : SlotId) : Bool := (getSlot s i).run == .running

/-- The slots of a core in the order in which one is chosen: the turn slot, the service slot in an activation, the others. -/
def issueOrder (s : State) (c : CoreId) : List SlotId :=
  let t := dieCycles s (dieOf c) % 5
  let rest := (List.range 4).map fun i => (t + 1 + i) % 5
  let order := if t = 4 then t :: rest else t :: 4 :: rest.filter fun j => j != 4
  (order.map fun j => (⟨c, j⟩ : SlotId)).filter (ready s)

/-- The core has made its issue of this cycle (06 R121). -/
def issued (s : State) (c : CoreId) : Bool := (coreOf s c).issuedAt == some (dieCycles s (dieOf c))

/-- The core makes or passes its issue of this cycle. -/
def markIssued (s : State) (c : CoreId) : State := modCore s c fun k => { k with issuedAt := some (dieCycles s (dieOf c)) }

/-- The candidate of a core: the first slot whose instruction can go on. -/
def candidate (ex : Exec) : List SlotId → State → Option SlotId
  | [], _ => none
  | i :: rest, s =>
    match runSlot ex i s with
    | .next t => if t.stalled then candidate ex rest s else some i
    | _ => some i

/-- The cores of the other members choose the gang in this cycle too (06 R122). -/
def gangAgrees (ex : Exec) (s : State) (i : SlotId) : Bool :=
  (gangOf s i).all fun m => m == i || (!issued s m.core && candidate ex (issueOrder s m.core) s == some m)

/-- The first slot whose instruction can go on issues it, for a gang on every member core (06 R121, R122). -/
def issueFirst (ex : Exec) (c : CoreId) : List SlotId → State → Out
  | [], s => stall (markIssued s c)
  | i :: rest, s =>
    match runSlot ex i s with
    | .next t =>
      if t.stalled then issueFirst ex c rest t
      else if gangAgrees ex s i then .next ((gangOf s i).foldl (fun t m => markIssued t m.core) t)
      else stall (markIssued s c)
    | o => o

/-- An issue on a core. -/
def issueOn (ex : Exec) (c : CoreId) (s : State) : Out := issueFirst ex c (issueOrder s c) s

/-! ### A step (log 4, log 5) -/

/-- The constructor stands for a step that is no instruction. -/
def isEvent (i : Instr) : Bool :=
  match i with
  | .illegalInstruction _ => false
  | .fetchFault _ _ => false
  | _ => (encode i).isNone

/-- A step that is no instruction, with what is supplied to it. -/
abbrev Doing := Instr × EventArg

/-- Cores with a slot that runs. -/
def busyCores (s : State) : List Nat :=
  let mine := if s.slot.run = .running then [s.cur.core.toNat] else []
  mine ++ s.others.filterMap fun p => if p.2.run = .running then some (p.1 / 5) else none

/-- The core that issues next where the agenda names none: the next one, cyclically, that has not yet issued in its die's cycle (log 5). -/
def nextCore (s : State) : Option CoreId :=
  let cs := (busyCores s).filter fun c => !issued s (BitVec.ofNat 11 c)
  let up := cs.filter fun c => s.cur.core.toNat < c
  ((if up.isEmpty then cs else up).min?).map fun c => BitVec.ofNat 11 c

/-- When the next cycle begins on a die with a core that issues, or else on the die in hand. -/
def nextTime (s : State) : Nat :=
  let here := nextCycle s (dieOf s.cur.core)
  (((busyCores s).map fun c => nextCycle s (dieOf (BitVec.ofNat 11 c))).min?).getD here

/-- The meaning of a step that is no instruction. -/
def runEvent (ex : Exec) (i : Instr) (a : EventArg) (s : State) : Out :=
  if isEvent i then ex i { s with arg := a } else .next s

/-- The first thing that is due by now and changes something (log 71). -/
def overdue (ex : Exec) (dl : List (Nat × Doing)) (s : State) : Option Doing :=
  (dl.find? fun d => decide (d.1 ≤ s.now) && (match runEvent ex d.2.1 d.2.2 s with
    | .next t => { t with arg := s.arg } != s
    | _ => false)).map fun d => d.2

/-- The end of the cycle in which a core makes its next issue: this one, or the next where it has made that of this. -/
def issueEnd (s : State) (c : CoreId) : Nat :=
  let e := nextCycle s (dieOf c)
  (if issued s c then nextCycle { s with now := e } (dieOf c) else e) - 1

/-- Cores with a slot that could issue, of which a cycle with an issue to come has ended by `t` (06 R121, R134). -/
def pressing (ex : Exec) (t : Nat) (s : State) : List CoreId :=
  ((busyCores s).map (BitVec.ofNat 11)).filter fun c => decide (issueEnd s c < t) && (candidate ex (issueOrder s c) s).isSome

/-- Those that have not issued in the cycle in hand. -/
def owing (ex : Exec) (t : Nat) (s : State) : List CoreId := (pressing ex t s).filter fun c => !issued s c

/-- Time goes on to `t`, but it stops where something is due by then, and no cycle ends in which a core still owes its issue; while something is
overdue, no time passes (06 R134; log 71). -/
def passTo (ex : Exec) (dl : State → List (Nat × Doing)) (t : Nat) (s : State) : State :=
  if t ≤ s.now ∨ (overdue ex (dl s) s).isSome = true then s
  else
    let stops := ((dl s).map fun d => d.1).filter fun d => decide (s.now < d)
    let ends := (pressing ex t s).map (issueEnd s)
    { s with now := max s.now ((stops ++ ends).foldl min t) }

/-- What every step does at its end: the time that State.dwell adds goes by, and what was supplied to the step is used up. -/
def tick (ex : Exec) (dl : State → List (Nat × Doing)) (s : State) : State :=
  let s := { s with arg := {} }
  { passTo ex dl (s.now + s.dwell.headD 0) s with dwell := s.dwell.drop 1 }

/-- The next cycle of a die begins, or a core that owes its issue makes it. -/
def passCycle (ex : Exec) (dl : State → List (Nat × Doing)) (d : Nat) (s : State) : Out :=
  match owing ex (nextCycle s d) s with
  | c :: _ => issueOn ex c s
  | [] => .next (passTo ex dl (nextCycle s d) s)

/-- A step of the schedule: what the agenda names; with an empty agenda every core issues once in a cycle, and then one of the things that
may happen of themselves happens, if there is one, and the next cycle begins (06 R121, R134; log 4, log 5). An issue that the agenda names on
a core that has issued in this cycle waits for the next. -/
def moveWith (ex : Exec) (due : State → Option Doing) (dl : State → List (Nat × Doing)) (s : State) : Out :=
  match s.agenda with
  | .event i a :: rest => runEvent ex i a { s with agenda := rest }
  | .issue c :: rest => if issued s c then passCycle ex dl (dieOf c) s else issueOn ex c { s with agenda := rest }
  | [] =>
    match nextCore s with
    | some c => issueOn ex c s
    | none =>
      match due s with
      | some (i, a) =>
        match runEvent ex i a s with
        | .next t => .next (passTo ex dl (nextTime t) t)
        | o => o
      | none => .next (passTo ex dl (nextTime s) s)

/-- One step, given the meanings, what may happen of itself, and what happens by a given time: that comes first. -/
def stepWith (ex : Exec) (due : State → Option Doing) (dl : State → List (Nat × Doing)) (s : State) : Out :=
  if s.powered = false then .fault .poweredOff
  else
    let s := { s with stalled := false }
    let o :=
      match overdue ex (dl s) s with
      | some (i, a) => runEvent ex i a s
      | none => moveWith ex due dl s
    match o with
    | .next t => .next (tick ex dl t)
    | o => o

end Sys2Proof.Machine
end

