-- ==== Sys2Proof/Machine/Due.lean ====
section
/-! DEFINITION. What happens of itself where the agenda names no move: one schedule of the many that the spec allows (log 5). -/

namespace Sys2Proof.Machine

/-- Nothing is supplied. -/
def noArg : EventArg := {}

/-- What the hub and the dispatcher have to do. -/
def hubDoings (s : State) : List Doing :=
  let caps := s.hub.capsules.map fun p => p.1
  let each : Instr → List Doing := fun i => caps.map fun n => (i, { cap := n })
  (if s.hub.jhead = 0 then [(.deviceReset, noArg)] else [])
    ++ (if guardedOpen s then [(.egressTokenTick, noArg)] else [])
    ++ [(.rootSign, noArg), (.capsuleAcceptance, noArg)]
    ++ each .codeVerdict ++ each .resumeCapsule ++ each .capsuleFault ++ each .parkCaptureEnd ++ each .capsuleCompletion
    ++ (if caps.isEmpty then [] else [(.priorityAging, noArg), (.deficitCharge, noArg), (.placeGroup, noArg), (.parkCapsule, noArg)])
    ++ (if s.hub.update.isSome then [(.firmwareRestart, noArg)] else [])
    ++ s.deferred.map fun p => (p.1, { p.2 with again := true })

/-- Free slots are reserved for a waiting cohort. -/
def cohortDoings (s : State) : List Doing := if (waitingCohort s).isSome then [(.cohortReservation, noArg)] else []

/-- The byte indices at which a copy may send a piece next: of a subscription one for each half. -/
def nextIndices (c : Channel) (x : Copy) : List Nat :=
  match x.form, c.sub with
  | .subscr, some u => [x.next, u.tiles * u.box + x.nextStore]
  | .subscr, none => []
  | .dec, _ => []
  | _, _ => [x.next]

/-- What one copy in flight has to do. -/
def copyDoings (s : State) (c : CoreId) (x : Copy) : List Doing :=
  let a : EventArg := { core := c, copy := x.id }
  (if x.form = .dec then [(.decCopy, a)] else [])
    ++ (if x.form = .subscr then [(.subscriptionStart, a)] else [])
    ++ ((x.served.map fun p => p.1) ++ nextIndices (chanAt (getSlot s ⟨c, x.slot⟩) x.ch) x).map fun b => (.copyPieceServe, { a with at0 := b })

/-- What one core's units have to do. -/
def coreDoings (s : State) (n : Nat) : List Doing :=
  let c : CoreId := BitVec.ofNat 11 n
  let a : EventArg := { core := c }
  [(.engineCommandRetire, a), (.engineCommandStart, a), (.copyCommandAccept, a), (.overflowActivation, a)]
    ++ (coreOf s c).copies.flatMap (copyDoings s c)

/-- What one slot's buffers have to do. -/
def slotDoings (s : State) (i : SlotId) : List Doing :=
  let l := getSlot s i
  let a : EventArg := { slot := i }
  (if l.storeBuf.isEmpty then [] else [(.storeBufferPerform, a)])
    ++ (if l.hold.isEmpty then [] else [(.heldWriteDepart, a), (.relFlagDepart, a)])
    ++ (if l.wantRel.isSome then [(.releaseConditionMet, a)] else [])
    ++ l.pending.map fun q => (.responseTimeout, { a with copy := q.req })

/-- What one cellar engine has to do. -/
def engineDoings (n : Nat) : List Doing :=
  let a : EventArg := { slice := n }
  [(.cellarDoorbell, a), (.cellarStep, a), (.clip, a), (.promote, a), (.cellarPacketDepart, a)]

/-- The next hop or the arrival of one packet. -/
def packetDoing (id : Nat) (p : Packet) : Doing :=
  let a : EventArg := { pkt := id, pkts := [id], flag := true }
  if p.hop ≠ .target then (.switchForward, a)
  else
    match p.cargo with
    | .piece _ _ _ _ _ => (.copyPieceServe, a)
    | .data _ _ => (.accessResponse, a)
    | .message _ => (.messageArrival, a)
    | .event => (.sevArrival, a)
    | .count _ _ _ _ => (.channelCount, a)
    | _ => if p.header.isSome then (.countedPacketArrival, a) else (.remoteAccessArrival, a)

/-- Everything that may happen of itself, in the order in which it is tried. -/
def doings (s : State) : List Doing :=
  let busy := ((listedSlots s).map fun i => i.core.toNat).dedup
  let cores := (busy ++ s.cores.map fun p => p.1).dedup
  hubDoings s ++ cohortDoings s ++ cores.flatMap (coreDoings s) ++ (listedSlots s).flatMap (slotDoings s)
    ++ (s.engines.flatMap fun p => engineDoings p.1) ++ (s.net.map fun p => packetDoing p.1 p.2)
    ++ s.dies.flatMap fun p => [(.arrivalTimeout, { die := p.1 }), (.arrivalOrphan, { die := p.1 })]

/-! ### What happens by a given time (log 71) -/

/-- One microsecond. -/
def microsecond : Nat := 1000 * Config.nanosecond

/-- Packets that must be performed or dropped by a time (10 R213; 21 R336). -/
def packetDeadlines (s : State) : List (Nat × Doing) :=
  s.net.flatMap fun p => p.2.due.toList.map fun t => (t, packetDoing p.1 p.2)

/-- A slot's oldest buffered store is visible after 1 us (06 R134), and its accesses to other devices time out (10 R209). -/
def slotDeadlines (s : State) (i : SlotId) : List (Nat × Doing) :=
  let l := getSlot s i
  (l.storeBuf.head?.toList.map fun e => (e.since + microsecond, (.storeBufferPerform, { slot := i })))
    ++ l.pending.flatMap fun q => q.left.toList.map fun t => (t + 2 * Config.lifeMax, (.responseTimeout, { slot := i, copy := q.req }))

/-- Pieces asked of another device are lost after 2 L_max (18 Table 18-7). -/
def copyDeadlines (s : State) : List (Nat × Doing) :=
  s.cores.flatMap fun k => k.2.copies.flatMap fun x => x.served.flatMap fun p =>
    if p.2.remote then
      p.2.left.toList.map fun t =>
        (t + 2 * Config.lifeMax, (.copyPieceLost, { core := BitVec.ofNat 11 k.1, copy := x.id, at0 := p.1 }))
    else []

/-- The arrival tables are checked once in a microsecond (21 R348). -/
def arrivalDeadlines (s : State) : List (Nat × Doing) :=
  s.dies.flatMap fun d => d.2.arrivals.map fun e =>
    match e.flag with
    | some (_, t) => (t + (e.wait + 1) * microsecond, (.arrivalTimeout, { die := d.1 }))
    | none => (e.created + (4 * e.wait + 1) * microsecond, (.arrivalOrphan, { die := d.1 }))

/-- A root is signed 1 ms after the first entry that none covers (25 R398). -/
def rootDeadlines (s : State) : List (Nat × Doing) := s.hub.uncovered.toList.map fun t => (t + 1000 * microsecond, (.rootSign, noArg))

/-- Everything that happens by a given time. -/
def deadlines (s : State) : List (Nat × Doing) :=
  packetDeadlines s ++ (listedSlots s).flatMap (slotDeadlines s) ++ copyDeadlines s ++ arrivalDeadlines s ++ rootDeadlines s

/-- The step changes something. -/
def changes (s : State) (d : Doing) : Bool :=
  match exec d.1 { s with arg := d.2 } with
  | .next t => { t with arg := s.arg } != s
  | _ => false

/-- The step that is due. -/
def due (s : State) : Option Doing := (doings s).find? (changes s)

end Sys2Proof.Machine
end

