-- ==== Sys2Proof/Machine/Load.lean ====
section
/-! DEFINITION. One instruction placed where the next step fetches it: what stands for the load of a program from outside the
machine (08 R171, R183; 01 R20; log 7). -/

namespace Sys2Proof.Machine

/-- The extent that an instruction is fetched through: 64 bytes of device memory with R and X. -/
def loadRange : RangeEntry :=
  { base := 0, length := 64, cls := 0, target := 0, rights := 0x05, keysel := 0, key := .clear }

/-- Slot 0 of core 0 as it starts a tile task at pc 0 with the smallest partition. -/
def loadSlot (l : Slot) (cap : Nat) : Slot :=
  openRegion 1 true { l with pc := 0, run := .running, capsule := some cap, gangPos := 0, gangSize := 1, part := 0x01010101
                             hold := [], closing := false, pending := [], condMet := none, wantRel := none, half := none }

/-- Bytes of device memory from address 0 on as the host writes them. -/
def loadBytes (m : Memory) (bs : List Byte) : Memory :=
  { m with cells := putBytes m.cells 0 bs, poison := serase m.poison 0, keys := serase m.keys 0, past := [] }

/-- The `nbits` bits of `w`, and zeros to the longest instruction, at the address that slot 0 of core 0 fetches next; the
schedule gives that core the next step, and its turn is slot 0's (06 R121). -/
def placeWord (s : State) (nbits w : Nat) : State :=
  let cap := s.hub.capNo
  let s := focus s ⟨0, 0⟩
  let s := onSlot s fun l => loadSlot l cap
  let s := modCore s 0 fun k => { k with ranges := sset [] k.ranges cap [loadRange], issuedAt := none }
  let s := modDie s 0 fun d => { d with cycles := (dieCycles s 0 + 4) / 5 * 5, since := s.now }
  { s with mem := loadBytes s.mem (leBytes 4 (w % 2 ^ nbits)), agenda := .issue 0 :: s.agenda, powered := true }

end Sys2Proof.Machine
end

