-- ==== Sys2Proof/Machine/Step.lean ====
section
/-! DEFINITION. One step of the machine, and an instruction placed where it is fetched next. -/

namespace Sys2Proof.Machine

/-- One step: what has to happen by now, else the next move of the agenda, else an issue on the next core or what is due (log 5, log 71). -/
def step (s : State) : Host.Outcome State Fault Refusal := stepWith exec due deadlines s

/-- The state in which the next step runs the instruction whose `nbits` bits are `w` (log 7). -/
def State.withFetchWord (s : State) (nbits w : Nat) : State := placeWord s nbits w

end Sys2Proof.Machine
end

