-- ==== Sys2Proof/Safety.lean ====
section
/-! DEFINITION. The words that statements use: what is ready, what an instruction leaves unchanged, what a retirement does, and
what every step keeps. -/

namespace Sys2Proof.Safety

open Sys2Proof.Machine

/-! ### What every step keeps -/

/-- Memory is in its canonical form: cells, poison marks, keys and the past values of running code (log 2). -/
def Inv (s : State) : Prop := s.mem.wf

/-! ### Readiness of operands -/

/-- xn can be read: no data is on its way to it, and it bears no poison mark (10 R209). -/
abbrev XReady (s : State) (n : BitVec 5) : Prop :=
  n = 0 ∨ (awaited s.slot (xKey s.slot n) = false ∧ sfind s.slot.xPoison (xKey s.slot n) = none)

/-- The value that decides control: the leader's as the gang issued, outside a gang the slot's own (06 R124). -/
def leadX (s : State) (n : BitVec 5) : Word := if s.slot.gangPos = 0 then xval s.slot n else xval (leader s) n

/-- That value can be read. -/
abbrev LeadReady (s : State) (n : BitVec 5) : Prop := s.slot.gangPos ≠ 0 ∨ XReady s n

/-- The open region can close at once: no held write is left, and the code verdict is in (20 R319, R323; 08 R170). -/
abbrev CanClose (s : State) : Prop := verdictPending s = false ∧ s.slot.hold = []

/-- The state in which an instruction that closes the open region has its own effect: the region is closed (20 R317, R323). -/
def closed (s : State) : State := onSlot s closeRegion

/-- The checks of 04 R92 on `n` bytes at program address `ea` pass, at pool offset `off`. -/
abbrev LocalOk (s : State) (ea : Word) (n : Nat) (store : Bool) (off : Nat) : Prop :=
  memBlocked s = false ∧ (store = true ∨ noEntries s 1 = false) ∧ localOff s ea n = some off ∧ lockHit s off n store = false ∧ chansView s.slot off n = .pass ∧
    (if store then storePoison s off n else poolPoison s off n) = false ∧ (store && copySourceBusy s off n) = false

/-! ### What an instruction leaves unchanged -/

/-- The keys under which the destination xd is kept; x0 has none. -/
def xDst (s : State) (d : BitVec 5) : List Nat := if d = 0 then [] else [xKey s.slot d]

/-- Nothing differs but the register files, what a register write touches beside them (data on its way, the checkpoint, the
draw counter) and what every retirement changes: memory, every other slot, every special register and everything else of the
module are as before. -/
def RegistersOnly (s t : State) : Prop :=
  t = { s with slot := { s.slot with
          x := t.slot.x, xPoison := t.slot.xPoison, f := t.slot.f, v := t.slot.v, m := t.slot.m
          pending := t.slot.pending, draws := t.slot.draws, region := { s.slot.region with saved := t.slot.region.saved }
          pc := t.slot.pc, outer := t.slot.outer, inner := t.slot.inner, retired := t.slot.retired
          condMet := t.slot.condMet, wantRel := t.slot.wantRel, half := t.slot.half, closing := t.slot.closing } }

/-- Data on its way once the x registers `xs` have been written: it lands in none of them (10 R219). -/
def overtaken (l : Slot) (xs : List Nat) : List Pending :=
  xs.foldr (fun k ps => supersede { saveX l k with pending := ps } k) l.pending

/-- The x registers outside `xs`, the f registers outside `fs`, the v registers outside `vs` and the m registers outside `ms` keep
value and poison mark; `n` draws are taken; nothing else changes but pc, loops and the retired count. -/
structure Keeps (s t : State) (xs fs vs ms : List Nat) (n : Nat) : Prop where
  rest : RegistersOnly s t
  x : ∀ k, k ∉ xs → sget 0 t.slot.x k = sget 0 s.slot.x k ∧ sfind t.slot.xPoison k = sfind s.slot.xPoison k
  f : ∀ k, k ∉ fs → sget 0 t.slot.f k = sget 0 s.slot.f k
  v : ∀ k, k ∉ vs → sget 0 t.slot.v k = sget 0 s.slot.v k
  m : ∀ k, k ∉ ms → sget 0 t.slot.m k = sget 0 s.slot.m k
  pending : t.slot.pending = overtaken s.slot xs
  draws : t.slot.draws = s.slot.draws + BitVec.ofNat 64 n

/-- The instruction has retired and control goes on at `n`, but for what the hardware loops make of it (04 R87, R88). -/
def GoesTo (s t : State) (n : Word) (jump : Bool) : Prop :=
  t.slot.retired = s.slot.retired + 1 ∧ (t.slot.outer, t.slot.inner, t.slot.pc) = loopNext s.slot n jump

/-- The instruction of `len` bytes has retired and control goes on behind it. -/
def Retires (s t : State) (len : Word) : Prop := GoesTo s t (s.slot.pc + len) false

/-- A new region is open at `t`'s pc with the mask of the old one (20 R317), and no data on its way is bound for its saved registers. -/
def Reopened (s t : State) : Prop :=
  t.slot.region = (openRegion s.slot.region.mask false t.slot).region ∧ s.slot.regionNo < t.slot.regionNo ∧
    t.slot.shadow = t.slot.chans ∧ ∀ p ∈ t.slot.pending, p.old = none ∧ p.old2 = none

/-! ### Results -/

/-- The instruction completes: xd holds `v` without a mark (a write to x0 is discarded), and nothing else changes. -/
def XResult (s : State) (len : Word) (d : BitVec 5) (v : Word) (n : Nat) (o : Out) : Prop :=
  ∃ t, o = .next t ∧ Retires s t len ∧ Keeps s t (xDst s d) [] [] [] n ∧
    (d ≠ 0 → xval t.slot d = v ∧ sfind t.slot.xPoison (xKey t.slot d) = none)

/-- The instruction completes: fd holds `v`, and nothing else changes. -/
def FResult (s : State) (len : Word) (d : BitVec 5) (v : Word) (n : Nat) (o : Out) : Prop :=
  ∃ t, o = .next t ∧ Retires s t len ∧ Keeps s t [] [d.toNat] [] [] n ∧ fval t.slot d = v

/-- The instruction completes: vd holds `v`, and nothing else changes. -/
def VResult (s : State) (len : Word) (d : BitVec 5) (v : Vec) (n : Nat) (o : Out) : Prop :=
  ∃ t, o = .next t ∧ Retires s t len ∧ Keeps s t [] [] [d.toNat] [] n ∧ vval t.slot d = v

/-- The instruction completes: md holds `v` (m0 stays all ones), and nothing else changes. -/
def MResult (s : State) (len : Word) (d : BitVec 3) (v : Word) (n : Nat) (o : Out) : Prop :=
  ∃ t, o = .next t ∧ Retires s t len ∧ Keeps s t [] [] [] (if d = 0 then [] else [d.toNat]) n ∧
    mval t.slot d = if d = 0 then BitVec.allOnes 64 else v

/-- A register with the value that it takes. -/
inductive Dst where
  | x (d : BitVec 5) (v : Word)
  | f (d : BitVec 5) (v : Word)
  | v (d : BitVec 5) (v : Vec)
  | m (d : BitVec 3) (v : Word)
  deriving DecidableEq, Repr

/-- What the spec says of an instruction that writes one register: its bytes, the x registers that it reads, the register with its
value, and the draws that it takes. -/
structure Row where
  len : Word := 4
  need : List (BitVec 5) := []
  dst : Dst
  draws : Nat := 0
  deriving DecidableEq, Repr

/-- The instruction completes as its row says, and nothing else changes. -/
def Row.Holds (r : Row) (s : State) (o : Out) : Prop :=
  match r.dst with
  | .x d v => XResult s r.len d v r.draws o
  | .f d v => FResult s r.len d v r.draws o
  | .v d v => VResult s r.len d v r.draws o
  | .m d v => MResult s r.len d v r.draws o

/-- The x registers that a row names can be read. -/
def Row.Ready (r : Row) (s : State) : Prop := ∀ n ∈ r.need, XReady s n

/-- Phases 3 to 5 of 07 R150 pass on all pieces of a vector access; a load takes `n` free load entries (07 R152). -/
abbrev SegsOk (s : State) (segs : List Seg) (n : Nat) (store skip : Bool) : Prop :=
  memBlocked s = false ∧ (store = true ∨ noEntries s n = false) ∧ ∀ g ∈ segs, lockHit s g.off g.n store = false ∧ chansView s.slot g.off g.n = .pass ∧
    (skip = true ∨ (if store then storePoison s g.off g.n else poolPoison s g.off g.n) = false) ∧
    (store && copySourceBusy s g.off g.n) = false

/-- The instruction completes and changes nothing but the slot's pc, loops and retired count. -/
def Control (s t : State) : Prop :=
  t = { s with slot := { s.slot with pc := t.slot.pc, outer := t.slot.outer, inner := t.slot.inner, retired := t.slot.retired
                                     condMet := t.slot.condMet, wantRel := t.slot.wantRel, half := t.slot.half
                                     closing := t.slot.closing } }

/-- The instruction of `len` bytes has retired, and a new region is open behind it (20 R317). -/
def Boundary (s t : State) (len : Word) : Prop := Retires s t len ∧ Reopened s t

/-- As `Control`, but that a new region is open. -/
def BoundaryOnly (s t : State) : Prop :=
  Control s { t with slot := { t.slot with
    region := s.slot.region, regionNo := s.slot.regionNo, shadow := s.slot.shadow, pending := s.slot.pending } } ∧
  t.slot.pending = s.slot.pending.map fun p => { p with old := none, old2 := none }

/-- The instruction cannot go on yet: nothing changes but the mark that says so (log 12). -/
def Waits (s : State) (o : Out) : Prop := o = .next { s with stalled := true }

/-- The instruction traps: TakeTrap with this cause and value, and nothing of its own effect. -/
def Traps (s : State) (c : Cause) (v : Word) (o : Out) : Prop := o = .next (takeTrap c v s)

end Sys2Proof.Safety
end

