-- ==== Sys2Proof/Certificates/Slice0/Obligations.lean ====
section
/-! DEFINITION. The statements for the provers. Each says which rule of the spec it formalises. Tables of rows name the instructions that
one statement covers, with what the spec says of each. -/

open Sys2Proof Sys2Proof.Machine Sys2Proof.Safety

/-! ### Integer arithmetic (04 R71 to R78; 03 R67) -/

/-- A row of an integer instruction with two source registers: bytes, destination, sources, and the result as 04 Table 4-2 gives it on
unsigned and signed integers. -/
def Sys2Proof.aluRow : Instr → Option (Word × BitVec 5 × BitVec 5 × BitVec 5 × (Word → Word → Word))
  | .add d a b => some (4, d, a, b, fun x y => BitVec.ofNat 64 (x.toNat + y.toNat))
  | .addC d r => some (2, d, d, r, fun x y => BitVec.ofNat 64 (x.toNat + y.toNat))
  | .addCX0 d r => some (2, d, r, 0, fun x y => BitVec.ofNat 64 (x.toNat + y.toNat))
  | .sub d a b => some (4, d, a, b, fun x y => BitVec.ofInt 64 (x.toInt - y.toInt))
  | .subC d r => some (2, d, d, r, fun x y => BitVec.ofInt 64 (x.toInt - y.toInt))
  | .and d a b => some (4, d, a, b, fun x y => x &&& y)
  | .andC d r => some (2, d, d, r, fun x y => x &&& y)
  | .or d a b => some (4, d, a, b, fun x y => x ||| y)
  | .orC d r => some (2, d, d, r, fun x y => x ||| y)
  | .xor d a b => some (4, d, a, b, fun x y => x ^^^ y)
  | .xorC d r => some (2, d, d, r, fun x y => x ^^^ y)
  | .andn d a b => some (4, d, a, b, fun x y => x &&& ~~~y)
  | .orn d a b => some (4, d, a, b, fun x y => x ||| ~~~y)
  | .xnor d a b => some (4, d, a, b, fun x y => ~~~(x ^^^ y))
  | .sll d a b => some (4, d, a, b, fun x y => BitVec.ofNat 64 (x.toNat * 2 ^ (y.toNat % 64)))
  | .srl d a b => some (4, d, a, b, fun x y => BitVec.ofNat 64 (x.toNat / 2 ^ (y.toNat % 64)))
  | .sra d a b => some (4, d, a, b, fun x y => BitVec.ofInt 64 (x.toInt / 2 ^ (y.toNat % 64)))
  | .rol d a b => some (4, d, a, b, fun x y => x.rotateLeft (y.toNat % 64))
  | .ror d a b => some (4, d, a, b, fun x y => x.rotateRight (y.toNat % 64))
  | .slt d a b => some (4, d, a, b, fun x y => if x.toInt < y.toInt then 1 else 0)
  | .sltu d a b => some (4, d, a, b, fun x y => if x.toNat < y.toNat then 1 else 0)
  | .seq d a b => some (4, d, a, b, fun x y => if x = y then 1 else 0)
  | .min d a b => some (4, d, a, b, fun x y => BitVec.ofInt 64 (Min.min x.toInt y.toInt))
  | .max d a b => some (4, d, a, b, fun x y => BitVec.ofInt 64 (Max.max x.toInt y.toInt))
  | .minu d a b => some (4, d, a, b, fun x y => BitVec.ofNat 64 (Min.min x.toNat y.toNat))
  | .maxu d a b => some (4, d, a, b, fun x y => BitVec.ofNat 64 (Max.max x.toNat y.toNat))
  | .mul d a b => some (4, d, a, b, fun x y => BitVec.ofInt 64 (x.toInt * y.toInt))
  | .mulh d a b => some (4, d, a, b, fun x y => BitVec.ofInt 64 (x.toInt * y.toInt / 2 ^ 64))
  | .mulhu d a b => some (4, d, a, b, fun x y => BitVec.ofNat 64 (x.toNat * y.toNat / 2 ^ 64))
  | .addsl d a b n => some (4, d, a, b, fun x y => BitVec.ofNat 64 (x.toNat + y.toNat * 2 ^ n.toNat))
  | _ => none

/-- Each integer instruction with two source registers completes: xd holds the result of 04 Table 4-2 (a write to x0 is discarded), and
every other register, special register, slot and byte of memory stays (R71, R72, R75; 03 R67). -/
def Obligations.IntegerTwoSources : Prop :=
  ∀ (i : Instr) (len : Word) (d a b : BitVec 5) (f : Word → Word → Word) (s : State),
    aluRow i = some (len, d, a, b, f) → XReady s a → XReady s b →
      XResult s len d (f (xval s.slot a) (xval s.slot b)) 0 (exec i s)

/-- Division (R73): a zero divisor gives all ones and the dividend, the one overflow wraps, and otherwise the quotient is truncated toward
zero and the remainder has the sign of the dividend. -/
def Sys2Proof.divRow : Instr → Option (BitVec 5 × BitVec 5 × BitVec 5 × (Word → Word → Word))
  | .div d a b => some (d, a, b, fun x y => if y = 0 then BitVec.allOnes 64
      else if x.toInt = -2 ^ 63 ∧ y.toInt = -1 then x else BitVec.ofInt 64 (x.toInt.tdiv y.toInt))
  | .rem d a b => some (d, a, b, fun x y => if y = 0 then x
      else if x.toInt = -2 ^ 63 ∧ y.toInt = -1 then 0 else BitVec.ofInt 64 (x.toInt.tmod y.toInt))
  | .divu d a b => some (d, a, b, fun x y => if y = 0 then BitVec.allOnes 64 else BitVec.ofNat 64 (x.toNat / y.toNat))
  | .remu d a b => some (d, a, b, fun x y => if y = 0 then x else BitVec.ofNat 64 (x.toNat % y.toNat))
  | _ => none

/-- div, divu, rem and remu complete on every operand, never trap, and give what R73 says; nothing else changes. -/
def Obligations.Division : Prop :=
  ∀ (i : Instr) (d a b : BitVec 5) (f : Word → Word → Word) (s : State),
    divRow i = some (d, a, b, f) → XReady s a → XReady s b →
      XResult s 4 d (f (xval s.slot a) (xval s.slot b)) 0 (exec i s)

/-- A row of an integer instruction with one source register: bytes, destination, source and result (04 Table 4-4, R76, R77; 03 R67). -/
def Sys2Proof.unaryRow : Instr → Option (Word × BitVec 5 × BitVec 5 × (Word → Word))
  | .clz d a => some (4, d, a, fun x => BitVec.ofNat 64 (if x = 0 then 64 else 63 - Nat.log 2 x.toNat))
  | .ctz d a => some (4, d, a, fun x => BitVec.ofNat 64 (((List.range 64).find? fun i => x.getLsbD i).getD 64))
  | .popc d a => some (4, d, a, fun x => BitVec.ofNat 64 ((List.range 64).filter fun i => x.getLsbD i).length)
  | .sextB d a => some (4, d, a, fun x => BitVec.ofInt 64 (BitVec.ofNat 8 x.toNat).toInt)
  | .sextH d a => some (4, d, a, fun x => BitVec.ofInt 64 (BitVec.ofNat 16 x.toNat).toInt)
  | .sextW d a => some (4, d, a, fun x => BitVec.ofInt 64 (BitVec.ofNat 32 x.toNat).toInt)
  | .zextW d a => some (4, d, a, fun x => BitVec.ofNat 64 (x.toNat % 2 ^ 32))
  | .brev d a => some (4, d, a, fun x => BitVec.ofFnLE fun i : Fin 64 => x.getLsbD (63 - i))
  | .abs d a => some (4, d, a, fun x => BitVec.ofNat 64 x.toInt.natAbs)
  | .addi d a imm => some (4, d, a, fun x => BitVec.ofInt 64 (x.toInt + imm.toInt))
  | .addiC d imm => some (2, d, d, fun x => BitVec.ofInt 64 (x.toInt + imm.toInt))
  | .addiCX0 d imm => some (2, d, 0, fun x => BitVec.ofInt 64 (x.toInt + imm.toInt))
  | .andi d a imm => some (4, d, a, fun x => x &&& BitVec.ofInt 64 imm.toInt)
  | .ori d a imm => some (4, d, a, fun x => x ||| BitVec.ofInt 64 imm.toInt)
  | .xori d a imm => some (4, d, a, fun x => x ^^^ BitVec.ofInt 64 imm.toInt)
  | .slti d a imm => some (4, d, a, fun x => if x.toInt < imm.toInt then 1 else 0)
  | .sltiu d a imm => some (4, d, a, fun x => if x.toNat < (BitVec.ofInt 64 imm.toInt).toNat then 1 else 0)
  | .slli d a n => some (4, d, a, fun x => BitVec.ofNat 64 (x.toNat * 2 ^ n.toNat))
  | .slliC d n => some (2, d, d, fun x => BitVec.ofNat 64 (x.toNat * 2 ^ n.toNat))
  | .srli d a n => some (4, d, a, fun x => BitVec.ofNat 64 (x.toNat / 2 ^ n.toNat))
  | .srliC d n => some (2, d, d, fun x => BitVec.ofNat 64 (x.toNat / 2 ^ n.toNat))
  | .srai d a n => some (4, d, a, fun x => BitVec.ofInt 64 (x.toInt / 2 ^ n.toNat))
  | .sraiC d n => some (2, d, d, fun x => BitVec.ofInt 64 (x.toInt / 2 ^ n.toNat))
  | .roli d a n => some (4, d, a, fun x => x.rotateLeft n.toNat)
  | .rori d a n => some (4, d, a, fun x => x.rotateRight n.toNat)
  | _ => none

/-- Each integer instruction with one source register completes with that result, and nothing else changes. -/
def Sys2Proof.integerOneSourceClause : Prop :=
  ∀ (i : Instr) (len : Word) (d a : BitVec 5) (f : Word → Word) (s : State),
    unaryRow i = some (len, d, a, f) → XReady s a → XResult s len d (f (xval s.slot a)) 0 (exec i s)

/-- csel takes a where c is not 0 and else b (R72); lih and lia build a constant and a pc-relative address (R78). -/
def Sys2Proof.selectAndConstantsClause : Prop :=
  (∀ (d a b c : BitVec 5) (s : State), XReady s a → XReady s b → XReady s c →
    XResult s 4 d (if xval s.slot c = 0 then xval s.slot b else xval s.slot a) 0 (exec (.csel d a b c) s)) ∧
  (∀ (d : BitVec 5) (imm : BitVec 20) (s : State),
    XResult s 4 d (BitVec.ofInt 64 (imm.toInt * 2 ^ 12)) 0 (exec (.lih d imm) s)) ∧
  (∀ (d : BitVec 5) (imm : BitVec 20) (s : State),
    XResult s 4 d (s.slot.pc + BitVec.ofInt 64 (imm.toInt * 2 ^ 12)) 0 (exec (.lia d imm) s))

/-- The integer instructions with one source register, csel, lih and lia. -/
def Obligations.IntegerOneSource : Prop := integerOneSourceClause ∧ selectAndConstantsClause

/-! ### Branches, jumps, calls and loops (04 R79 to R89) -/

/-- A row of a branch: registers, offset, and the condition of 04 Table 4-5. -/
def Sys2Proof.branchRow : Instr → Option (BitVec 5 × BitVec 5 × BitVec 12 × (Word → Word → Prop))
  | .bEq a b off => some (a, b, off, fun x y => x = y)
  | .bNe a b off => some (a, b, off, fun x y => x ≠ y)
  | .bLt a b off => some (a, b, off, fun x y => x.toInt < y.toInt)
  | .bGe a b off => some (a, b, off, fun x y => y.toInt ≤ x.toInt)
  | .bLtu a b off => some (a, b, off, fun x y => x.toNat < y.toNat)
  | .bGeu a b off => some (a, b, off, fun x y => y.toNat ≤ x.toNat)
  | _ => none

/-- Each branch completes: it is taken to pc + 2 SignExt(off) where its condition holds, and else control goes on behind it. Nothing but
pc, loops and the retired count changes. In a gang the leader's registers decide (R79; 06 R124). -/
def Obligations.Branches : Prop :=
  ∀ (i : Instr) (a b : BitVec 5) (off : BitVec 12) (c : Word → Word → Prop) (s : State),
    branchRow i = some (a, b, off, c) → LeadReady s a → LeadReady s b →
      ∃ t, exec i s = .next t ∧ Control s t ∧
        (c (leadX s a) (leadX s b) → GoesTo s t (s.slot.pc + BitVec.ofInt 64 (2 * off.toInt)) true) ∧
        (¬ c (leadX s a) (leadX s b) → Retires s t 4)

/-- j goes to pc + 2 SignExt(off25); jr, in both its forms, goes to the register's value with bit 0 cleared (R80, R81). -/
def Obligations.Jumps : Prop :=
  (∀ (off : BitVec 25) (s : State), ∃ t, exec (.j off) s = .next t ∧ Control s t ∧
    GoesTo s t (s.slot.pc + BitVec.ofInt 64 (2 * off.toInt)) true) ∧
  (∀ (i : Instr) (a : BitVec 5) (s : State), i = .jr a ∨ i = .jrC a → LeadReady s a →
    ∃ t, exec i s = .next t ∧ Control s t ∧ GoesTo s t (BitVec.ofNat 64 ((leadX s a).toNat / 2 * 2)) true)

/-- A branch or jump out of the body: the branch lies in it and the target does not (R89). -/
abbrev Sys2Proof.LeavesBody (l : Loop) (at0 n : Word) : Prop := (l.start ≤ at0 ∧ at0 < l.stop) ∧ ¬ (l.start ≤ n ∧ n < l.stop)

/-- Where a retired instruction leaves the loops and the pc, from the next pc `n` that it would have without loops: one loop, two loops,
none (R87 to R89). -/
def Obligations.LoopEnds : Prop :=
  ∀ (s t : State) (n : Word) (jump : Bool), GoesTo s t n jump →
    (s.slot.outer = none → t.slot.outer = none ∧ t.slot.inner = none ∧ t.slot.pc = n) ∧
    (∀ l, s.slot.outer = some l → s.slot.inner = none → t.slot.inner = none ∧
      (jump = true → LeavesBody l s.slot.pc n → t.slot.outer = none ∧ t.slot.pc = n) ∧
      (jump = true → ¬ LeavesBody l s.slot.pc n → t.slot.outer = some l ∧ t.slot.pc = n) ∧
      (jump = false → n = l.stop → l.cnt.toNat ≤ 1 → t.slot.outer = none ∧ t.slot.pc = n) ∧
      (jump = false → n = l.stop → 1 < l.cnt.toNat →
        t.slot.outer = some { l with cnt := l.cnt - 1 } ∧ t.slot.pc = l.start) ∧
      (jump = false → n ≠ l.stop → t.slot.outer = some l ∧ t.slot.pc = n)) ∧
    (∀ o l, s.slot.outer = some o → s.slot.inner = some l →
      (jump = false → n = l.stop → 1 < l.cnt.toNat →
        t.slot.outer = some o ∧ t.slot.inner = some { l with cnt := l.cnt - 1 } ∧ t.slot.pc = l.start) ∧
      ((jump = true ∧ LeavesBody l s.slot.pc n) ∨ (jump = false ∧ n = l.stop ∧ l.cnt.toNat ≤ 1) →
        GoesTo { s with slot := { s.slot with inner := none } } t n jump) ∧
      ((jump = true ∧ ¬ LeavesBody l s.slot.pc n) ∨ (jump = false ∧ n ≠ l.stop) →
        (((jump = true ∧ LeavesBody o s.slot.pc n) ∨ (jump = false ∧ n = o.stop ∧ o.cnt.toNat ≤ 1)) →
          t.slot.outer = some l ∧ t.slot.inner = none ∧ t.slot.pc = n) ∧
        (jump = false → n = o.stop → 1 < o.cnt.toNat →
          t.slot.outer = some { o with cnt := o.cnt - 1 } ∧ t.slot.inner = some l ∧ t.slot.pc = o.start) ∧
        ((jump = true ∧ ¬ LeavesBody o s.slot.pc n) ∨ (jump = false ∧ n ≠ o.stop) →
          t.slot.outer = some o ∧ t.slot.inner = some l ∧ t.slot.pc = n)))

/-- What the windowed calls may change beside pc, loops and the retired count: the window and what it holds. -/
def Sys2Proof.WindowOnly (s t : State) : Prop :=
  t = { s with slot := { s.slot with
          x := t.slot.x, xPoison := t.slot.xPoison, pending := t.slot.pending
          region := { s.slot.region with saved := { s.slot.region.saved with x := t.slot.region.saved.x } }
          wbase := t.slot.wbase, calls := t.slot.calls, spill := t.slot.spill
          pc := t.slot.pc, outer := t.slot.outer, inner := t.slot.inner, retired := t.slot.retired
          condMet := t.slot.condMet, wantRel := t.slot.wantRel, half := t.slot.half, closing := t.slot.closing } }

/-- A windowed call: k and the target, call pc-relative, callr from a register of the caller's frame (R83). -/
def Sys2Proof.IsCall (i : Instr) (k : BitVec 5) (target : Word) (s : State) : Prop :=
  (∃ off : BitVec 20, i = .call off k ∧ target = s.slot.pc + BitVec.ofInt 64 (2 * off.toInt)) ∨
    (∃ a : BitVec 5, i = .callr a k ∧ LeadReady s a ∧ target = BitVec.ofNat 64 ((leadX s a).toNat / 2 * 2))

/-- A call with room completes: the return address and k are recorded, the window slides by k, the caller's x(8+k) to x31 are the callee's
x8 to x(31-k), the callee's other windowed registers read 0, x1 to x7 and every location below stay, and control goes to the target.
Without room, or past window base 65511, it traps WINDOW with value 0 and has no effect (R83). -/
def Obligations.Calls : Prop :=
  ∀ (i : Instr) (k : BitVec 5) (target : Word) (s : State), IsCall i k target s → k.toNat ≤ 24 →
    (65511 < s.slot.wbase + k.toNat ∨ spillRoom s.slot (s.slot.wbase + k.toNat) (s.slot.calls.length + 1) = none →
      Traps s .window 0 (exec i s)) ∧
    (s.slot.wbase + k.toNat ≤ 65511 →
      (spillRoom s.slot (s.slot.wbase + k.toNat) (s.slot.calls.length + 1)).isSome = true →
      ∃ t, exec i s = .next t ∧ GoesTo s t target false ∧ WindowOnly s t ∧
        t.slot.wbase = s.slot.wbase + k.toNat ∧ t.slot.calls = ⟨s.slot.pc + 4, k.toNat⟩ :: s.slot.calls ∧
        (∀ n m : BitVec 5, 8 ≤ n.toNat → n.toNat + k.toNat = m.toNat → xval t.slot n = xval s.slot m) ∧
        (∀ n : BitVec 5, 8 ≤ n.toNat → 32 ≤ n.toNat + k.toNat →
          xval t.slot n = 0 ∧ sfind t.slot.xPoison (xKey t.slot n) = none) ∧
        (∀ j, j < s.slot.wbase + 32 → sget 0 t.slot.x j = sget 0 s.slot.x j ∧
          sfind t.slot.xPoison j = sfind s.slot.xPoison j))

/-- ret, in both its forms, ends the most recent call: the window slides back, the locations above the frame are discarded, and control
goes to the return address. Where the call is older than the region, the region closes first and a new one opens behind (R85; 20 R317).
With no active call it traps WINDOW with value 1. -/
def Obligations.Returns : Prop :=
  ∀ (i : Instr) (s : State), i = .ret ∨ i = .retC →
    (s.slot.calls = [] → Traps s .window 1 (exec i s)) ∧
    (∀ c rest, s.slot.calls = c :: rest → (s.slot.region.calls < s.slot.calls.length ∨ CanClose s) →
      ∃ t, exec i s = .next t ∧ GoesTo s t c.ret false ∧ t.slot.calls = rest ∧ t.slot.wbase = s.slot.wbase - c.k ∧
        (∀ j, j < s.slot.wbase - c.k + 32 → sget 0 t.slot.x j = sget 0 s.slot.x j ∧
          sfind t.slot.xPoison j = sfind s.slot.xPoison j) ∧
        (∀ j, s.slot.wbase - c.k + 32 ≤ j → sget 0 t.slot.x j = 0 ∧ sfind t.slot.xPoison j = none) ∧
        (s.slot.region.calls < s.slot.calls.length → WindowOnly s t) ∧
        (s.slot.calls.length ≤ s.slot.region.calls → Reopened s t ∧
          WindowOnly s { t with slot := { t.slot with
            region := s.slot.region, regionNo := s.slot.regionNo, shadow := s.slot.shadow } }))

/-- A loop instruction: its trip count and the length field (R86). -/
def Sys2Proof.IsLoop (i : Instr) (count : Word) (len : BitVec 11) (s : State) : Prop :=
  (∃ a : BitVec 5, i = .loop a len ∧ LeadReady s a ∧ count = leadX s a) ∨
    (∃ c : BitVec 12, i = .loopi c len ∧ count = BitVec.ofNat 64 c.toNat)

/-- loop and loopi: with two loops active they trap LOOP with value 0, also for a count of 0; a count of 0 skips the body; else a loop
with this start, end and count becomes active and control goes to its body (R86). -/
def Obligations.Loops : Prop :=
  ∀ (i : Instr) (count : Word) (len : BitVec 11) (s : State), IsLoop i count len s →
    (s.slot.inner.isSome = true → Traps s .loop 0 (exec i s)) ∧
    (s.slot.inner = none → ∃ t, exec i s = .next t ∧ Control s t ∧
      (count = 0 → GoesTo s t (s.slot.pc + 4 + BitVec.ofNat 64 (2 * (len.toNat + 1))) false) ∧
      (count ≠ 0 → s.slot.outer = none → t.slot.retired = s.slot.retired + 1 ∧ t.slot.inner = none ∧
        t.slot.outer = some ⟨s.slot.pc + 4, s.slot.pc + 4 + BitVec.ofNat 64 (2 * (len.toNat + 1)), count⟩ ∧
        t.slot.pc = s.slot.pc + 4) ∧
      (count ≠ 0 → ∀ o, s.slot.outer = some o →
        GoesTo { s with slot := { s.slot with
          inner := some ⟨s.slot.pc + 4, s.slot.pc + 4 + BitVec.ofNat 64 (2 * (len.toNat + 1)), count⟩ } }
          t (s.slot.pc + 4) false))

/-! ### Local loads and stores (04 R90 to R94; 03 Table 3-13) -/

/-- A row of a local load into an x register: bytes of the instruction, destination, base, offset and bytes loaded. -/
def Sys2Proof.xLoadRow : Instr → Option (Word × BitVec 5 × BitVec 5 × Int × Nat)
  | .ld d a imm sz => some (4, d, a, imm.toInt, match sz with | .b => 1 | .h => 2 | .w => 4 | .d => 8)
  | .ldDC d r => some (2, d, r, 0, 8)
  | .ldWC d r => some (2, d, r, 0, 4)
  | _ => none

/-- How a local load of `w` bytes at `ea` comes to its bytes, for which `res` says what completes. Within one block of 64 bytes it reads them
at once; across a boundary it reads the part in the lower block and waits, holding that part, and at its next attempt reads the other part
(R94; 10 R212; that the lower part comes first is the model's choice, log 64). -/
def Sys2Proof.LoadsFrom (s : State) (ea : Word) (w : Nat) (res : List Byte → Out → Prop) (o : Out) : Prop :=
  (∀ off, LocalOk s ea w false off → off % 64 + w ≤ 64 → res (poolRead s w off) o) ∧
  (∀ off, LocalOk s ea w false off → 64 < off % 64 + w → s.slot.half = none →
    o = .next { s with stalled := true, slot := { s.slot with half := some (poolRead s (64 - off % 64) off, false) } }) ∧
  (∀ off bs bad, off = bits ea.toNat 0 19 → 64 < off % 64 + w → s.slot.half = some (bs, bad) →
    res (bs ++ poolRead s (w - (64 - off % 64)) (off + (64 - off % 64))) o)

/-- A local load completes with the loaded bytes sign-extended to 64 bits, or for fld with 0 above them; no byte of memory and no other
register changes. The bytes are those of the pool, with the slot's own buffered stores before them (R90, R93, R94; 11 R224). -/
def Sys2Proof.localLoadsClause : Prop :=
  (∀ (i : Instr) (len : Word) (d a : BitVec 5) (imm : Int) (w : Nat) (s : State), xLoadRow i = some (len, d, a, imm, w) →
    XReady s a → LoadsFrom s (xval s.slot a + BitVec.ofInt 64 imm) w
      (fun bs => XResult s len d (BitVec.ofInt 64 (BitVec.ofNat (8 * w) (leNat bs)).toInt) 0) (exec i s)) ∧
  (∀ (d a : BitVec 5) (imm : BitVec 13) (sz : FSize) (w : Nat) (s : State),
    w = (match sz with | .h => 2 | .s => 4 | .d => 8) → XReady s a →
    LoadsFrom s (xval s.slot a + BitVec.ofInt 64 imm.toInt) w
      (fun bs => FResult s 4 d (BitVec.ofNat 64 (leNat bs)) 0) (exec (.fld d a imm sz) s))

/-- A local store: bytes of the instruction, base register, offset, bytes stored and the value they come from. -/
def Sys2Proof.StoreForm (i : Instr) (s : State) (len : Word) (a : BitVec 5) (imm : Int) (w : Nat) (v : Word) : Prop :=
  (∃ d m sz, i = .st d a m sz ∧ len = 4 ∧ imm = m.toInt ∧ w = (match sz with | .b => 1 | .h => 2 | .w => 4 | .d => 8) ∧
    XReady s d ∧ v = xval s.slot d) ∨
  (∃ d m sz, i = .fst d a m sz ∧ len = 4 ∧ imm = m.toInt ∧ w = (match sz with | .h => 2 | .s => 4 | .d => 8) ∧ v = fval s.slot d) ∨
  (∃ d, i = .stDC d a ∧ len = 2 ∧ imm = 0 ∧ w = 8 ∧ XReady s d ∧ v = xval s.slot d) ∨
  (∃ d, i = .stWC d a ∧ len = 2 ∧ imm = 0 ∧ w = 4 ∧ XReady s d ∧ v = xval s.slot d)

/-- A local store completes: the slot reads the low w bytes of its register at the address stored to, and every other byte of the pool
as before. It enters the store buffer: no byte of memory, no register and nothing else changes (R90, R93, R94; 11 R224). -/
def Sys2Proof.localStoresClause : Prop :=
  ∀ (i : Instr) (len : Word) (a : BitVec 5) (imm : Int) (w off : Nat) (v : Word) (s : State), StoreForm i s len a imm w v →
    XReady s a → LocalOk s (xval s.slot a + BitVec.ofInt 64 imm) w true off →
      ∃ t, exec i s = .next t ∧ Retires s t len ∧
        Control s { t with slot := { t.slot with storeBuf := s.slot.storeBuf } } ∧
        poolRead t w off = leBytes w v.toNat ∧
        (∀ b, b < off ∨ off + w ≤ b → poolRead t 1 b = poolRead s 1 b)

/-- Nothing holds a load of `w` bytes at `ea` back, and no part of it has been read. -/
abbrev Sys2Proof.FirstLoad (s : State) (ea : Word) (w : Nat) : Prop :=
  memBlocked s = false ∧ noEntries s 1 = false ∧ secondPart s (bits ea.toNat 0 19) w = false

/-- A local access outside the scratchpads of the capsule's slots on this core traps RIGHTS with the effective address, and has no effect
(R91, R92 step 1). -/
def Sys2Proof.localRightsClause : Prop :=
  (∀ (i : Instr) (len : Word) (d a : BitVec 5) (imm : Int) (w : Nat) (s : State), xLoadRow i = some (len, d, a, imm, w) →
    XReady s a → FirstLoad s (xval s.slot a + BitVec.ofInt 64 imm) w → localOff s (xval s.slot a + BitVec.ofInt 64 imm) w = none →
      Traps s .rights (xval s.slot a + BitVec.ofInt 64 imm) (exec i s)) ∧
  (∀ (d a : BitVec 5) (imm : BitVec 13) (sz : FSize) (w : Nat) (s : State), w = (match sz with | .h => 2 | .s => 4 | .d => 8) →
    XReady s a → FirstLoad s (xval s.slot a + BitVec.ofInt 64 imm.toInt) w →
    localOff s (xval s.slot a + BitVec.ofInt 64 imm.toInt) w = none →
      Traps s .rights (xval s.slot a + BitVec.ofInt 64 imm.toInt) (exec (.fld d a imm sz) s)) ∧
  (∀ (i : Instr) (len : Word) (a : BitVec 5) (imm : Int) (w : Nat) (v : Word) (s : State), StoreForm i s len a imm w v →
    XReady s a → memBlocked s = false → localOff s (xval s.slot a + BitVec.ofInt 64 imm) w = none →
      Traps s .rights (xval s.slot a + BitVec.ofInt 64 imm) (exec i s))

/-- Steps 2 to 4 of 04 R92 on `w` bytes at pool offset `off`, which `ea` names: a range lock traps RANGE, then a faulted channel traps COPYFAULT
with its number and an active one holds the access back, then poison traps POISON, and a store waits for a copy that has yet to read its bytes
(16 R267; 18 R292; 11 R230). -/
def Sys2Proof.Checked (s : State) (ea : Word) (off w : Nat) (store : Bool) (o : Out) : Prop :=
  (lockHit s off w store = true → Traps s .range ea o) ∧
  (lockHit s off w store = false →
    (∀ ch, chansView s.slot off w = .faulted ch → Traps s .copyfault (BitVec.ofNat 64 ch) o) ∧
    (chansView s.slot off w = .wait → Waits s o) ∧
    (chansView s.slot off w = .pass →
      ((if store then storePoison s off w else poolPoison s off w) = true → Traps s .poison ea o) ∧
      (store = true → storePoison s off w = false → copySourceBusy s off w = true → Waits s o)))

/-- What holds a local access back, and where its later checks trap (R92, R94; 10 R219). -/
def Sys2Proof.localChecksClause : Prop :=
  (∀ (i : Instr) (len : Word) (d a : BitVec 5) (imm : Int) (w : Nat) (s : State), xLoadRow i = some (len, d, a, imm, w) →
    XReady s a → secondPart s (bits (xval s.slot a + BitVec.ofInt 64 imm).toNat 0 19) w = false →
      (memBlocked s = true ∨ noEntries s 1 = true → Waits s (exec i s)) ∧
      (∀ off, FirstLoad s (xval s.slot a + BitVec.ofInt 64 imm) w → localOff s (xval s.slot a + BitVec.ofInt 64 imm) w = some off →
        Checked s (xval s.slot a + BitVec.ofInt 64 imm) off w false (exec i s))) ∧
  (∀ (d a : BitVec 5) (imm : BitVec 13) (sz : FSize) (w : Nat) (s : State), w = (match sz with | .h => 2 | .s => 4 | .d => 8) →
    XReady s a → secondPart s (bits (xval s.slot a + BitVec.ofInt 64 imm.toInt).toNat 0 19) w = false →
      (memBlocked s = true ∨ noEntries s 1 = true → Waits s (exec (.fld d a imm sz) s)) ∧
      (∀ off, FirstLoad s (xval s.slot a + BitVec.ofInt 64 imm.toInt) w →
        localOff s (xval s.slot a + BitVec.ofInt 64 imm.toInt) w = some off →
        Checked s (xval s.slot a + BitVec.ofInt 64 imm.toInt) off w false (exec (.fld d a imm sz) s))) ∧
  (∀ (i : Instr) (len : Word) (a : BitVec 5) (imm : Int) (w : Nat) (v : Word) (s : State), StoreForm i s len a imm w v → XReady s a →
    (memBlocked s = true → Waits s (exec i s)) ∧
    (∀ off, memBlocked s = false → localOff s (xval s.slot a + BitVec.ofInt 64 imm) w = some off →
      Checked s (xval s.slot a + BitVec.ofInt 64 imm) off w true (exec i s)))

/-- Local loads and stores, and where they wait and trap. -/
def Obligations.LocalMemory : Prop := localLoadsClause ∧ localStoresClause ∧ localRightsClause ∧ localChecksClause

/-! ### Scalar floating point (04 R95 to R104) -/

/-- The value of fn in a type (01 R12, R27). -/
abbrev Sys2Proof.fpv (s : State) (ty : FType) (n : BitVec 5) : FVal := fdecode (ftypeFmt ty) (fval s.slot n).toNat

/-- Draws of one result: one under .rsr (15 R260). -/
abbrev Sys2Proof.oneDraw (rnd : Rnd) : Nat := if rnd = .rsr then 1 else 0

/-- fd takes these bits. -/
abbrev Sys2Proof.putsF (d : BitVec 5) (v : Nat) (n : Nat) : Row := { dst := .f d (BitVec.ofNat 64 v), draws := n }

/-- xd takes this value. -/
abbrev Sys2Proof.putsX (d : BitVec 5) (v : Word) (n : Nat) : Row := { dst := .x d v, draws := n }

/-- fd := Round(v, type, rnd), with one draw under .rsr (01 R32; 15 R260). -/
abbrev Sys2Proof.roundTo (s : State) (d : BitVec 5) (ty : FType) (rnd : Rnd) (v : FVal) : Row :=
  { dst := .f d (BitVec.ofNat 64 (fround (ftypeFmt ty) rnd (drawOf rnd s 0) v)), draws := oneDraw rnd }

/-- The rounding floating instructions: the exact sum, difference, product, fused result, converted value or integer, rounded once
(R95, R99, R101, R103, Table 4-7; 03 Table 3-13). -/
def Sys2Proof.fpRow (s : State) : Instr → Option Row
  | .fadd d a b ty rnd => some (roundTo s d ty rnd (fplus (fpv s ty a) (fpv s ty b)))
  | .fsub d a b ty rnd => some (roundTo s d ty rnd (fplus (fpv s ty a) (fneg (fpv s ty b))))
  | .fmul d a b ty rnd => some (roundTo s d ty rnd (ftimes (fpv s ty a) (fpv s ty b)))
  | .fmadd d a b c ty rnd => some (roundTo s d ty rnd (fplus (ftimes (fpv s ty a) (fpv s ty b)) (fpv s ty c)))
  | .fmsub d a b c ty rnd => some (roundTo s d ty rnd (fplus (ftimes (fpv s ty a) (fpv s ty b)) (fneg (fpv s ty c))))
  | .fnmadd d a b c ty rnd => some (roundTo s d ty rnd (fplus (fneg (ftimes (fpv s ty a) (fpv s ty b))) (fneg (fpv s ty c))))
  | .fnmsub d a b c ty rnd => some (roundTo s d ty rnd (fplus (fneg (ftimes (fpv s ty a) (fpv s ty b))) (fpv s ty c)))
  | .fcvt d a src ty rnd => some (roundTo s d ty rnd (fpv s src a))
  | .fcvtFromI d a ty rnd =>
    some { roundTo s d ty rnd (.fin (decide ((xval s.slot a).toInt < 0)) (xval s.slot a).toInt.natAbs 0) with need := [a] }
  | .faddSC d r => some { roundTo s d .s .rne (fplus (fpv s .s d) (fpv s .s r)) with len := 2 }
  | .fmulSC d r => some { roundTo s d .s .rne (ftimes (fpv s .s d) (fpv s .s r)) with len := 2 }
  | .fdiv d a b ty rnd => some (putsF d (fdiv2 (ftypeFmt ty) rnd (drawOf rnd s 0) (fval s.slot a).toNat (fval s.slot b).toNat)
      (oneDraw rnd))
  | .fsqrt d a ty rnd => some (putsF d (fsqrt1 (ftypeFmt ty) rnd (drawOf rnd s 0) (fval s.slot a).toNat) (oneDraw rnd))
  | _ => none

/-- Each rounding floating instruction completes with that result and no trap, and nothing else changes. For fdiv and fsqrt the result is named by
fdiv2 and fsqrt1, of which QuotientAndRoot says what they give. -/
def Obligations.FloatRounding : Prop :=
  ∀ (i : Instr) (s : State) (r : Row), fpRow s i = some r → r.Ready s → r.Holds s (exec i s)

/-- The exact value of an encoding as a rational number; none for a NaN or an infinity. -/
def Sys2Proof.ratOf (f : FFmt) (w : Nat) : Option ℚ :=
  match fdecode f w with
  | .fin neg m e => some ((if neg then -1 else 1) * m * (2 : ℚ) ^ e)
  | _ => none

/-- The exact value of a decoded number; none for a NaN or an infinity. -/
def Sys2Proof.valQ : FVal → Option ℚ
  | .fin neg m e => some ((if neg then -1 else 1) * m * (2 : ℚ) ^ e)
  | _ => none

/-- Sums and products before they are rounded: of finite operands fplus and ftimes give the exact sum and product; a zero sum is -0 only where both
operands are negative, a product has the exclusive or of the signs; infinities keep their sign, and opposite infinities in a sum, zero times
infinity and a NaN give NaN (01 R29, R30; 04 R95). -/
def Sys2Proof.exactArithmetic : Prop :=
  (∀ a b p q, valQ a = some p → valQ b = some q → valQ (fplus a b) = some (p + q) ∧ valQ (ftimes a b) = some (p * q)) ∧
  (∀ n m e n' m' e', (∃ k x, ftimes (.fin n m e) (.fin n' m' e') = .fin (n != n') k x) ∧
    (valQ (fplus (.fin n m e) (.fin n' m' e')) = some 0 → ∃ k x, fplus (.fin n m e) (.fin n' m' e') = .fin (n && n') k x)) ∧
  (∀ n m s k x, fplus (.inf n) (.fin s k x) = .inf n ∧ fplus (.fin s k x) (.inf n) = .inf n ∧
    fplus (.inf n) (.inf m) = (if n = m then .inf n else .nan) ∧ ftimes (.inf n) (.inf m) = .inf (n != m) ∧
    ftimes (.inf n) (.fin s k x) = (if k = 0 then .nan else .inf (n != s)) ∧
    ftimes (.fin s k x) (.inf n) = (if k = 0 then .nan else .inf (s != n))) ∧
  (∀ v, fplus .nan v = .nan ∧ fplus v .nan = .nan ∧ ftimes .nan v = .nan ∧ ftimes v .nan = .nan)

/-- The magnitude of encoding `t` of a format, below its infinity (01 R27). -/
def Sys2Proof.magnitude (f : FFmt) (t : Nat) : ℚ :=
  if t / 2 ^ f.mbits = 0 then t * (2 : ℚ) ^ (1 - (fbias f : Int) - f.mbits)
  else (2 ^ f.mbits + t % 2 ^ f.mbits : Nat) * (2 : ℚ) ^ (((t / 2 ^ f.mbits : Nat) : Int) - fbias f - f.mbits)

/-- One unit in the last place of encoding `t`. -/
def Sys2Proof.ulp (f : FFmt) (t : Nat) : ℚ := (2 : ℚ) ^ (((max 1 (t / 2 ^ f.mbits) : Nat) : Int) - fbias f - f.mbits)

/-- `w` is the value of sign `neg` and magnitude `x` rounded once (01 Table 1-6). With `t` the greatest finite encoding that does not lie above x:
.rtz gives t; .rto sets its last bit where x lies above it; .rne gives the nearer of t and the next, at a tie the even one; .rsr gives the next
where the first 16 discarded bits and the draw reach 2^16. Above the largest finite number the next is infinity, and the range is judged after
rounding to the format's precision (log 63). -/
def Sys2Proof.RoundsTo (f : FFmt) (mode : Rnd) (draw : Nat) (neg : Bool) (x : ℝ) (w : Nat) : Prop :=
  ∃ t r : Nat, t < finf f ∧ (magnitude f t : ℝ) ≤ x ∧ (t + 1 < finf f → x < (magnitude f (t + 1) : ℝ)) ∧
    w = (if neg then fsign f else 0) + r ∧
    (match mode with
      | .rtz => r = t
      | .rto => (x = magnitude f t → r = t) ∧ (x ≠ magnitude f t → r = t ||| 1)
      | .rne => (2 * (x - magnitude f t) < ulp f t → r = t) ∧ (ulp f t < 2 * (x - magnitude f t) → r = t + 1) ∧
          (2 * (x - magnitude f t) = ulp f t → r = t + t % 2)
      | .rsr => (⌊(x - magnitude f t) / ulp f t * 2 ^ 16⌋₊ + draw < 2 ^ 16 → r = t) ∧
          (2 ^ 16 ≤ ⌊(x - magnitude f t) / ulp f t * 2 ^ 16⌋₊ + draw → r = t + 1))

/-- Round of a finite value in every mode is that one rounding of its magnitude, with its sign; under .rne no finite number of the format is
nearer, as long as the result is finite; a result of a value that the format holds is that value (01 R32, Table 1-6; for the range log 63). What
is rounded is the exact sum or product. -/
def Obligations.RoundIsCorrect : Prop :=
  exactArithmetic ∧ ∀ (ty : FType) (neg : Bool) (m : Nat) (e : Int) (draw : Nat), draw < 2 ^ 16 →
    (∀ mode : Rnd, RoundsTo (ftypeFmt ty) mode draw neg ((m * (2 : ℚ) ^ e : ℚ) : ℝ) (fround (ftypeFmt ty) mode draw (.fin neg m e))) ∧
    (∀ q : ℚ, ratOf (ftypeFmt ty) (fround (ftypeFmt ty) .rne draw (.fin neg m e)) = some q →
      ∀ w p, ratOf (ftypeFmt ty) w = some p →
        |(if neg then -1 else 1) * m * (2 : ℚ) ^ e - q| ≤ |(if neg then -1 else 1) * m * (2 : ℚ) ^ e - p|) ∧
    (∀ (mode : Rnd) (w : Nat) (p : ℚ), ratOf (ftypeFmt ty) w = some p → p = (if neg then -1 else 1) * m * (2 : ℚ) ^ e →
      ratOf (ftypeFmt ty) (fround (ftypeFmt ty) mode draw (.fin neg m e)) = some p)

/-- The sign that a quotient takes. -/
abbrev Sys2Proof.quotientSign (f : FFmt) (a b : Nat) : Bool := signBit f a != signBit f b

/-- fdiv2 and fsqrt1 round once: of finite operands the quotient is the exact quotient rounded, and the root of a number that is not negative is the
exact root rounded. NaN for a NaN, for two infinities, for 0 over 0 and for the root of a negative number; infinity over a number and a number
that is not 0 over 0 give infinity, a number over infinity gives 0, each with its sign; the root of infinity is infinity and that of -0 is -0 (04
R95; 01 R29, R30, R32; for the range log 63). -/
def Obligations.QuotientAndRoot : Prop :=
  ∀ (ty : FType) (mode : Rnd) (draw a b : Nat), draw < 2 ^ 16 →
    let f := ftypeFmt ty
    (∀ p q, ratOf f a = some p → ratOf f b = some q → q ≠ 0 →
      RoundsTo f mode draw (quotientSign f a b) ((|p| / |q| : ℚ) : ℝ) (fdiv2 f mode draw a b)) ∧
    (isNaN f a = true ∨ isNaN f b = true → fdiv2 f mode draw a b = fnan f) ∧
    (∀ n m, fdecode f a = .inf n → fdecode f b = .inf m → fdiv2 f mode draw a b = fnan f) ∧
    (∀ q, ratOf f a = some 0 → ratOf f b = some q → q = 0 → fdiv2 f mode draw a b = fnan f) ∧
    (∀ p, ratOf f a = some p → p ≠ 0 → ratOf f b = some 0 →
      fdiv2 f mode draw a b = (if quotientSign f a b then fsign f else 0) + finf f) ∧
    (∀ n q, fdecode f a = .inf n → ratOf f b = some q → fdiv2 f mode draw a b = (if quotientSign f a b then fsign f else 0) + finf f) ∧
    (∀ p m, ratOf f a = some p → fdecode f b = .inf m → fdiv2 f mode draw a b = if quotientSign f a b then fsign f else 0) ∧
    (∀ p, ratOf f a = some p → signBit f a = false → RoundsTo f mode draw false (Real.sqrt (p : ℝ)) (fsqrt1 f mode draw a)) ∧
    (∀ p, ratOf f a = some p → p < 0 → fsqrt1 f mode draw a = fnan f) ∧
    (ratOf f a = some 0 → signBit f a = true → fsqrt1 f mode draw a = fsign f) ∧
    (isNaN f a = true → fsqrt1 f mode draw a = fnan f) ∧
    (∀ n, fdecode f a = .inf n → fsqrt1 f mode draw a = if n then fnan f else finf f)

/-- The low bits of a register that a type reads. -/
abbrev Sys2Proof.rawOf (ty : FType) (w : Word) : Nat := w.toNat % 2 ^ fwidth (ftypeFmt ty)

/-- The floating instructions that do not round: minimum, maximum and sign injection into an f register, compares, class, conversion to an
integer and moves (R96 to R98, R100, R102). -/
def Sys2Proof.fxRow (s : State) : Instr → Option Row
  | .fmin d a b ty => some { dst := .f d (BitVec.ofNat 64 (
      if fpv s ty a = .nan ∨ fpv s ty b = .nan then fnan (ftypeFmt ty)
      else if flt2 (ftypeFmt ty) (fval s.slot a).toNat (fval s.slot b).toNat = true ∨
        (feq2 (ftypeFmt ty) (fval s.slot a).toNat (fval s.slot b).toNat = true ∧ signBit (ftypeFmt ty) (fval s.slot a).toNat = true)
      then rawOf ty (fval s.slot a) else rawOf ty (fval s.slot b))) }
  | .fmax d a b ty => some { dst := .f d (BitVec.ofNat 64 (
      if fpv s ty a = .nan ∨ fpv s ty b = .nan then fnan (ftypeFmt ty)
      else if flt2 (ftypeFmt ty) (fval s.slot b).toNat (fval s.slot a).toNat = true ∨
        (feq2 (ftypeFmt ty) (fval s.slot a).toNat (fval s.slot b).toNat = true ∧ signBit (ftypeFmt ty) (fval s.slot a).toNat = false)
      then rawOf ty (fval s.slot a) else rawOf ty (fval s.slot b))) }
  | .fsgnj d a b ty => some { dst := .f d (BitVec.ofNat 64 (withSign (ftypeFmt ty) (fval s.slot a).toNat
      (signBit (ftypeFmt ty) (fval s.slot b).toNat))) }
  | .fsgnjn d a b ty => some { dst := .f d (BitVec.ofNat 64 (withSign (ftypeFmt ty) (fval s.slot a).toNat
      (!signBit (ftypeFmt ty) (fval s.slot b).toNat))) }
  | .fsgnjx d a b ty => some { dst := .f d (BitVec.ofNat 64 (withSign (ftypeFmt ty) (fval s.slot a).toNat
      (signBit (ftypeFmt ty) (fval s.slot a).toNat != signBit (ftypeFmt ty) (fval s.slot b).toNat))) }
  | .feq d a b ty => some { dst := .x d (if fleVal (fpv s ty a) (fpv s ty b) = true ∧ fleVal (fpv s ty b) (fpv s ty a) = true then 1 else 0) }
  | .flt d a b ty => some { dst := .x d (if fleVal (fpv s ty a) (fpv s ty b) = true ∧ fleVal (fpv s ty b) (fpv s ty a) = false then 1 else 0) }
  | .fle d a b ty => some { dst := .x d (if fleVal (fpv s ty a) (fpv s ty b) = true then 1 else 0) }
  | .fclass d a ty => some { dst := .x d (BitVec.ofNat 64 (2 ^ fclassBit (ftypeFmt ty) (fval s.slot a).toNat)) }
  | .fcvtI d a ty rnd => some (putsX d (BitVec.ofInt 64 (toInteger (ftypeFmt ty) 64 rnd (drawOf rnd s 0) (fval s.slot a).toNat)) (oneDraw rnd))
  | .fmvX d a ty => some { dst := .x d (BitVec.ofNat 64 (rawOf ty (fval s.slot a))) }
  | .fmvF d a ty => some { need := [a], dst := .f d (BitVec.ofNat 64 (rawOf ty (xval s.slot a))) }
  | _ => none

/-- Each of them completes with that result, and nothing else changes. -/
def Sys2Proof.floatWithoutRoundingClause : Prop :=
  ∀ (i : Instr) (s : State) (r : Row), fxRow s i = some r → r.Ready s → r.Holds s (exec i s)

/-- Order of compares: less, equal and less-or-equal agree with the rational numbers that finite operands stand for, and every compare with
a NaN gives 0 (R97). -/
def Sys2Proof.comparesAreNumericClause : Prop :=
  (∀ (ty : FType) (a b : Nat) (p q : ℚ), ratOf (ftypeFmt ty) a = some p → ratOf (ftypeFmt ty) b = some q →
    (fle2 (ftypeFmt ty) a b = true ↔ p ≤ q) ∧ (flt2 (ftypeFmt ty) a b = true ↔ p < q) ∧ (feq2 (ftypeFmt ty) a b = true ↔ p = q)) ∧
  (∀ (ty : FType) (a b : Nat), isNaN (ftypeFmt ty) a = true ∨ isNaN (ftypeFmt ty) b = true →
    fle2 (ftypeFmt ty) a b = false ∧ flt2 (ftypeFmt ty) a b = false ∧ feq2 (ftypeFmt ty) a b = false)

/-- `r` is the magnitude `x` rounded to an integer (04 R100): for .rsr, D is the first 16 bits of the fraction. -/
def Sys2Proof.RoundsToNat (mode : Rnd) (draw : Nat) (x : ℚ) (r : Nat) : Prop :=
  match mode with
  | .rtz => r = ⌊x⌋₊
  | .rto => r = if x = ⌊x⌋₊ then ⌊x⌋₊ else ⌊x⌋₊ ||| 1
  | .rne => (2 * (x - ⌊x⌋₊) < 1 → r = ⌊x⌋₊) ∧ (1 < 2 * (x - ⌊x⌋₊) → r = ⌊x⌋₊ + 1) ∧ (2 * (x - ⌊x⌋₊) = 1 → r = ⌊x⌋₊ + ⌊x⌋₊ % 2)
  | .rsr => r = if 2 ^ 16 ≤ ⌊2 ^ 16 * (x - ⌊x⌋₊)⌋₊ + draw then ⌊x⌋₊ + 1 else ⌊x⌋₊

/-- What the named results of this family are. fclass sets the bit of 04 Table 4-6; a sign injection keeps the magnitude and gives the canonical NaN
for a NaN; a conversion to an integer rounds the magnitude, saturates and gives 0 for a NaN (R96, R98, R100). -/
def Sys2Proof.classSignIntegerClause : Prop :=
  ∀ (ty : FType) (a : Nat),
    let f := ftypeFmt ty
    (∀ n, fdecode f a = .inf n → fclassBit f a = if n then 0 else 7) ∧
    (fdecode f a = .nan → fclassBit f a = if a.testBit (f.mbits - 1) then 9 else 8) ∧
    (∀ n m e, fdecode f a = .fin n m e → fclassBit f a =
      if m = 0 then (if n then 3 else 4) else if m < 2 ^ f.mbits then (if n then 2 else 5) else if n then 1 else 6) ∧
    (∀ n, (fdecode f a = .nan → withSign f a n = fnan f) ∧ (fdecode f a ≠ .nan →
      withSign f a n % fsign f = a % fsign f ∧ signBit f (withSign f a n) = n ∧ withSign f a n < 2 ^ fwidth f)) ∧
    (∀ (w : Nat) (mode : Rnd) (draw : Nat), 0 < w → draw < 2 ^ 16 → (fdecode f a = .nan → toInteger f w mode draw a = 0) ∧
      (∀ n, fdecode f a = .inf n → toInteger f w mode draw a = if n then -2 ^ (w - 1) else 2 ^ (w - 1) - 1) ∧
      (∀ n m e, fdecode f a = .fin n m e → ∃ r, RoundsToNat mode draw (m * (2 : ℚ) ^ e) r ∧ toInteger f w mode draw a =
        Max.max (-2 ^ (w - 1)) (Min.min (2 ^ (w - 1) - 1) (if n then -(r : Int) else r))))

/-- The floating instructions that do not round, and what their compares and their named results mean. -/
def Obligations.FloatWithoutRounding : Prop := floatWithoutRoundingClause ∧ comparesAreNumericClause ∧ classSignIntegerClause

/-- The register number e of an indexed form, where b + X(a) is one. -/
def Sys2Proof.IndexIs (s : State) (a b e : BitVec 5) : Prop := XReady s a ∧ (BitVec.ofNat 64 b.toNat + xval s.slot a).toNat = e.toNat

/-- The indexed forms (R104): with e = b + X(a) from 0 to 31, fgetx and xgetx copy register e to the data register, fputx and xputx the other
way, all 64 bits; a write to x0 is discarded. With e outside that range, each traps REGIDX with value e. -/
def Obligations.IndexedRegisters : Prop :=
  (∀ (d a b e : BitVec 5) (s : State), IndexIs s a b e →
    FResult s 4 d (fval s.slot e) 0 (exec (.fgetx d a b) s) ∧ FResult s 4 e (fval s.slot d) 0 (exec (.fputx d a b) s) ∧
    (XReady s e → XResult s 4 d (xval s.slot e) 0 (exec (.xgetx d a b) s)) ∧
    (XReady s d → XResult s 4 e (xval s.slot d) 0 (exec (.xputx d a b) s))) ∧
  (∀ (i : Instr) (d a b : BitVec 5) (s : State), i = .fgetx d a b ∨ i = .fputx d a b ∨ i = .xgetx d a b ∨ (i = .xputx d a b ∧ XReady s d) →
    XReady s a → 31 < (BitVec.ofNat 64 b.toNat + xval s.slot a).toNat →
      Traps s .regidx (BitVec.ofNat 64 b.toNat + xval s.slot a) (exec i s))

/-! ### Vectors (07 R135 to R152) -/

/-- A w-bit number read as signed. -/
def Sys2Proof.sgn (w x : Nat) : Int := if x < 2 ^ (w - 1) then x else (x : Int) - 2 ^ w

/-- An integer within the signed range of w bits. -/
def Sys2Proof.clampS (w : Nat) (v : Int) : Int := Max.max (-2 ^ (w - 1)) (Min.min (2 ^ (w - 1) - 1) v)

/-- A lane-by-lane instruction: the x register it reads if any, destination, lane width, mask register, and the result of lane i. -/
structure Sys2Proof.Lanes where
  need : List (BitVec 5) := []
  d : BitVec 5
  w : Nat
  mask : BitVec 3
  res : Nat → Nat

/-- Lane i of register n. -/
abbrev Sys2Proof.ln (s : State) (w : Nat) (n : BitVec 5) (i : Nat) : Nat := lane w (vval s.slot n) i

/-- Bits of an integer element (07 Table 7-1). -/
abbrev Sys2Proof.ibits : IType → Nat
  | .b => 8 | .h => 16 | .w => 32 | .d => 64

/-- The instruction completes: each active lane of vd has its result, each inactive lane keeps its old value (R136), and nothing else
changes. -/
def Sys2Proof.LanesHold (s : State) (r : Lanes) (o : Out) : Prop :=
  ∃ v, VResult s 4 r.d v 0 o ∧ ∀ i, i < 512 / r.w →
    lane r.w v i = if (mval s.slot r.mask).getLsbD i then r.res i else lane r.w (vval s.slot r.d) i

/-- Two integer operands, with the exact result before it is reduced modulo 2^w. -/
def Sys2Proof.intLanes (s : State) (d a b : BitVec 5) (ty : IType) (mask : BitVec 3) (f : Nat → Nat → Nat → Int) : Option Lanes :=
  some { d := d, w := ibits ty, mask := mask
         res := fun i => (f (ibits ty) (ln s (ibits ty) a i) (ln s (ibits ty) b i) % 2 ^ ibits ty).toNat }

/-- 07 Table 7-4 on integers. -/
def Sys2Proof.vintRow (s : State) : Instr → Option Lanes
  | .vadd d a b ty m => intLanes s d a b ty m fun _ x y => x + y
  | .vsub d a b ty m => intLanes s d a b ty m fun _ x y => (x : Int) - y
  | .vmul d a b ty m => intLanes s d a b ty m fun _ x y => x * y
  | .vmulh d a b ty m => intLanes s d a b ty m fun w x y => sgn w x * sgn w y / 2 ^ w
  | .vmulhu d a b ty m => intLanes s d a b ty m fun w x y => (x : Int) * y / 2 ^ w
  | .vmin d a b ty m => intLanes s d a b ty m fun w x y => Min.min (sgn w x) (sgn w y)
  | .vmax d a b ty m => intLanes s d a b ty m fun w x y => Max.max (sgn w x) (sgn w y)
  | .vminu d a b ty m => intLanes s d a b ty m fun _ x y => (Min.min x y : Nat)
  | .vmaxu d a b ty m => intLanes s d a b ty m fun _ x y => (Max.max x y : Nat)
  | .vand d a b ty m => intLanes s d a b ty m fun _ x y => (x &&& y : Nat)
  | .vor d a b ty m => intLanes s d a b ty m fun _ x y => (x ||| y : Nat)
  | .vxor d a b ty m => intLanes s d a b ty m fun _ x y => (x ^^^ y : Nat)
  | .vsll d a b ty m => intLanes s d a b ty m fun w x y => (x : Int) * 2 ^ (y % w)
  | .vsrl d a b ty m => intLanes s d a b ty m fun w x y => (x : Int) / 2 ^ (y % w)
  | .vsra d a b ty m => intLanes s d a b ty m fun w x y => sgn w x / 2 ^ (y % w)
  | .vadds d a b ty m => intLanes s d a b ty m fun w x y => clampS w (sgn w x + sgn w y)
  | .vsubs d a b ty m => intLanes s d a b ty m fun w x y => clampS w (sgn w x - sgn w y)
  | .vabs d a ty m => intLanes s d a a ty m fun w x _ => |sgn w x|
  | .vneg d a ty m => intLanes s d a a ty m fun _ x _ => -(x : Int)
  | .vdup d a ty m => some { need := [a], d := d, w := ibits ty, mask := m, res := fun _ => (xval s.slot a).toNat % 2 ^ ibits ty }
  | _ => none

/-- The integer lane instructions complete with the results of 07 Table 7-4 in their active lanes (R136, R140). -/
def Sys2Proof.vectorIntegerClause : Prop :=
  ∀ (i : Instr) (s : State) (r : Lanes), vintRow s i = some r → (∀ n ∈ r.need, XReady s n) → LanesHold s r (exec i s)

/-- Floating lanes with the value of each (R135). -/
abbrev Sys2Proof.fln (s : State) (ty : FType) (n : BitVec 5) (i : Nat) : FVal :=
  fdecode (ftypeFmt ty) (ln s (fwidth (ftypeFmt ty)) n i)

/-- Lanes rounded once with rne (R137). -/
def Sys2Proof.fpLanes (ty : FType) (d : BitVec 5) (mask : BitVec 3) (v : Nat → FVal) : Option Lanes :=
  some { d := d, w := fwidth (ftypeFmt ty), mask := mask, res := fun i => fround (ftypeFmt ty) .rne 0 (v i) }

/-- Lanes computed from encodings. -/
def Sys2Proof.rawLanes (s : State) (ty : FType) (d a b : BitVec 5) (mask : BitVec 3) (g : FFmt → Nat → Nat → Nat) : Option Lanes :=
  some { d := d, w := fwidth (ftypeFmt ty), mask := mask
         res := fun i => g (ftypeFmt ty) (ln s (fwidth (ftypeFmt ty)) a i) (ln s (fwidth (ftypeFmt ty)) b i) }

/-- 07 Table 7-5 and R142: vd is addend and destination of the fused forms. -/
def Sys2Proof.vfpRow (s : State) : Instr → Option Lanes
  | .vfadd d a b ty m => fpLanes ty d m fun i => fplus (fln s ty a i) (fln s ty b i)
  | .vfsub d a b ty m => fpLanes ty d m fun i => fplus (fln s ty a i) (fneg (fln s ty b i))
  | .vfmul d a b ty m => fpLanes ty d m fun i => ftimes (fln s ty a i) (fln s ty b i)
  | .vfmadd d a b ty m => fpLanes ty d m fun i => fplus (ftimes (fln s ty a i) (fln s ty b i)) (fln s ty d i)
  | .vfmsub d a b ty m => fpLanes ty d m fun i => fplus (ftimes (fln s ty a i) (fln s ty b i)) (fneg (fln s ty d i))
  | .vfnmadd d a b ty m => fpLanes ty d m fun i => fplus (fneg (ftimes (fln s ty a i) (fln s ty b i))) (fneg (fln s ty d i))
  | .vfnmsub d a b ty m => fpLanes ty d m fun i => fplus (fneg (ftimes (fln s ty a i) (fln s ty b i))) (fln s ty d i)
  | .vfdiv d a b ty m => rawLanes s ty d a b m fun f x y => fdiv2 f .rne 0 x y
  | .vfsqrt d a ty m => rawLanes s ty d a a m fun f x _ => fsqrt1 f .rne 0 x
  | .vfmin d a b ty m => rawLanes s ty d a b m fmin2
  | .vfmax d a b ty m => rawLanes s ty d a b m fmax2
  | .vfabs d a ty m => rawLanes s ty d a a m fun f x _ => if fdecode f x = .nan then fnan f else x % fsign f
  | .vfneg d a ty m => rawLanes s ty d a a m fun f x _ =>
      if fdecode f x = .nan then fnan f else if x < fsign f then x + fsign f else x - fsign f
  | .vfdup d a ty m => some { d := d, w := fwidth (ftypeFmt ty), mask := m, res := fun _ => rawOf ty (fval s.slot a) }
  | _ => none

/-- The floating lane instructions complete, never trap, and give these results in their active lanes (R137, R141, R142). What fdiv2 and fsqrt1 give
QuotientAndRoot says. -/
def Sys2Proof.vectorFloatClause : Prop :=
  ∀ (i : Instr) (s : State) (r : Lanes), vfpRow s i = some r → LanesHold s r (exec i s)

/-- The lane-by-lane vector instructions. -/
def Obligations.VectorLanes : Prop := vectorIntegerClause ∧ vectorFloatClause

/-- The instruction completes: bit i of md says whether the condition holds, for active lanes below n; the other bits are 0; a write to m0
is discarded; nothing else changes (R143). -/
def Sys2Proof.MaskHolds (s : State) (d mask : BitVec 3) (n : Nat) (c : Nat → Prop) (o : Out) : Prop :=
  ∃ v, MResult s 4 d v 0 o ∧ ∀ i, v.getLsbD i = true ↔ (i < n ∧ (mval s.slot mask).getLsbD i = true ∧ c i)

/-- The compares of R143: destination, mask, lanes, condition of lane i. -/
def Sys2Proof.vcmpRow (s : State) : Instr → Option (BitVec 3 × BitVec 3 × Nat × (Nat → Prop))
  | .vceq d a b ty m => some (d, m, 512 / ibits ty, fun i => ln s (ibits ty) a i = ln s (ibits ty) b i)
  | .vcne d a b ty m => some (d, m, 512 / ibits ty, fun i => ln s (ibits ty) a i ≠ ln s (ibits ty) b i)
  | .vclt d a b ty m => some (d, m, 512 / ibits ty, fun i => sgn (ibits ty) (ln s (ibits ty) a i) < sgn (ibits ty) (ln s (ibits ty) b i))
  | .vcle d a b ty m => some (d, m, 512 / ibits ty, fun i => sgn (ibits ty) (ln s (ibits ty) a i) ≤ sgn (ibits ty) (ln s (ibits ty) b i))
  | .vcltu d a b ty m => some (d, m, 512 / ibits ty, fun i => ln s (ibits ty) a i < ln s (ibits ty) b i)
  | .vcleu d a b ty m => some (d, m, 512 / ibits ty, fun i => ln s (ibits ty) a i ≤ ln s (ibits ty) b i)
  | .vfceq d a b ty m => some (d, m, 512 / fwidth (ftypeFmt ty), fun i =>
      fleVal (fln s ty a i) (fln s ty b i) = true ∧ fleVal (fln s ty b i) (fln s ty a i) = true)
  | .vfclt d a b ty m => some (d, m, 512 / fwidth (ftypeFmt ty), fun i =>
      fleVal (fln s ty a i) (fln s ty b i) = true ∧ fleVal (fln s ty b i) (fln s ty a i) = false)
  | .vfcle d a b ty m => some (d, m, 512 / fwidth (ftypeFmt ty), fun i => fleVal (fln s ty a i) (fln s ty b i) = true)
  | _ => none

/-- The mask instructions of 07 Table 7-6. -/
def Sys2Proof.vmaskRow (s : State) : Instr → Option Row
  | .mand d a b => some { dst := .m d (mval s.slot a &&& mval s.slot b) }
  | .mor d a b => some { dst := .m d (mval s.slot a ||| mval s.slot b) }
  | .mxor d a b => some { dst := .m d (mval s.slot a ^^^ mval s.slot b) }
  | .mandn d a b => some { dst := .m d (mval s.slot a &&& ~~~mval s.slot b) }
  | .mnot d a => some { dst := .m d (~~~mval s.slot a) }
  | .mpopc d a => some { dst := .x d (BitVec.ofNat 64 ((List.range 64).filter fun i => (mval s.slot a).getLsbD i).length) }
  | .mfirst d a => some { dst := .x d (BitVec.ofNat 64 (((List.range 64).find? fun i => (mval s.slot a).getLsbD i).getD 64)) }
  | .mfromx d a => some { need := [a], dst := .m d (xval s.slot a) }
  | .mtox d a => some { dst := .x d (mval s.slot a) }
  | _ => none

/-- Compares and mask instructions complete with these results (R143, R144). -/
def Sys2Proof.masksClause : Prop :=
  (∀ (i : Instr) (s : State) (d m : BitVec 3) (n : Nat) (c : Nat → Prop), vcmpRow s i = some (d, m, n, c) →
    MaskHolds s d m n c (exec i s)) ∧
  (∀ (i : Instr) (s : State) (r : Row), vmaskRow s i = some r → r.Ready s → r.Holds s (exec i s))

/-- The forms that move lanes across the gang vector (07 Table 7-7): L is the number of gang lanes, g its lanes. -/
def Sys2Proof.permutesClause : Prop :=
  ∀ (s : State) (ty : IType) (d a b : BitVec 5) (m : BitVec 3),
    (∃ v, VResult s 4 d v 0 (exec (.vsel d a b ty m) s) ∧ ∀ i, i < 512 / ibits ty →
      lane (ibits ty) v i = if (mval s.slot m).getLsbD i then ln s (ibits ty) a i else ln s (ibits ty) b i) ∧
    LanesHold s { d := d, w := ibits ty, mask := m
                  res := fun i => gangLane (ibits ty) s a (ln s (ibits ty) b i % gangLanes (ibits ty) s) } (exec (.vperm d a b ty m) s) ∧
    (LeadReady s b → LanesHold s { d := d, w := ibits ty, mask := m
                                   res := fun i => if (leadX s b).toNat ≤ ownLane (ibits ty) s i
                                     then gangLane (ibits ty) s a (ownLane (ibits ty) s i - (leadX s b).toNat) else 0 }
      (exec (.vslup d a b ty m) s)) ∧
    (LeadReady s b → LanesHold s { d := d, w := ibits ty, mask := m
                                   res := fun i => if ownLane (ibits ty) s i + (leadX s b).toNat < gangLanes (ibits ty) s
                                     then gangLane (ibits ty) s a (ownLane (ibits ty) s i + (leadX s b).toNat) else 0 }
      (exec (.vsldn d a b ty m) s)) ∧
    (LeadReady s b → XResult s 4 d (BitVec.ofInt 64 (sgn (ibits ty)
      (gangLane (ibits ty) s a ((leadX s b).toNat % gangLanes (ibits ty) s)))) 0 (exec (.vext d a b ty) s)) ∧
    (LeadReady s a → LeadReady s b →
      let j := (leadX s b).toNat % gangLanes (ibits ty) s
      (j / (512 / ibits ty) = s.slot.gangPos → ∃ v, VResult s 4 d v 0 (exec (.vins d a b ty) s) ∧ ∀ i, i < 512 / ibits ty →
        lane (ibits ty) v i = if i = j % (512 / ibits ty) then (leadX s a).toNat % 2 ^ ibits ty else ln s (ibits ty) d i) ∧
      (j / (512 / ibits ty) ≠ s.slot.gangPos → ∃ t, exec (.vins d a b ty) s = .next t ∧ Retires s t 4 ∧ Control s t))

/-- Mask instructions and permutations. -/
def Obligations.MasksAndPermutes : Prop := masksClause ∧ permutesClause

/-- The tree of 07 R146 over 2^k values: neighbours are combined, level by level. -/
def Sys2Proof.tree {α : Type} (f : α → α → α) : Nat → (Nat → α) → α
  | 0, s => s 0
  | k + 1, s => tree f k fun j => f (s (2 * j)) (s (2 * j + 1))

/-- Gang lane j is active: its member's own mask says so (R138). -/
def Sys2Proof.gangActive (w : Nat) (s : State) (mask : BitVec 3) (j : Nat) : Bool :=
  match (members s)[j / (512 / w)]? with
  | some l => (mval l mask).getLsbD (j % (512 / w))
  | none => false

/-- The integer reductions: Combine and Identity (R146). -/
def Sys2Proof.vredRow : Instr → Option (BitVec 5 × BitVec 5 × IType × BitVec 3 × (Word → Word → Word) × Word)
  | .vrsum d a ty m => some (d, a, ty, m, fun x y => x + y, 0)
  | .vrmin d a ty m => some (d, a, ty, m, fun x y => BitVec.ofInt 64 (Min.min x.toInt y.toInt), BitVec.ofInt 64 (2 ^ 63 - 1))
  | .vrmax d a ty m => some (d, a, ty, m, fun x y => BitVec.ofInt 64 (Max.max x.toInt y.toInt), BitVec.ofInt 64 (-2 ^ 63))
  | _ => none

/-- The floating reductions: Combine and Identity on encodings (R146). -/
def Sys2Proof.vfredRow : Instr → Option (BitVec 5 × BitVec 5 × FType × BitVec 3 × (FFmt → Nat → Nat → Nat) × (FFmt → Nat))
  | .vfrsum d a ty m => some (d, a, ty, m, fun f x y => fround f .rne 0 (fplus (fdecode f x) (fdecode f y)), fun f => fsign f)
  | .vfrmin d a ty m => some (d, a, ty, m, fmin2, fun f => finf f)
  | .vfrmax d a ty m => some (d, a, ty, m, fmax2, fun f => fsign f + finf f)
  | _ => none

/-- The reductions complete with the value of the fixed tree over the L = 2^k gang lanes, with the identity in inactive ones (R146). -/
def Sys2Proof.reductionsClause : Prop :=
  (∀ (i : Instr) (s : State) (d a : BitVec 5) (ty : IType) (m : BitVec 3) (f : Word → Word → Word) (unit : Word) (k : Nat),
    vredRow i = some (d, a, ty, m, f, unit) → gangLanes (ibits ty) s = 2 ^ k → k ≤ 10 →
      XResult s 4 d (tree f k fun j => if gangActive (ibits ty) s m j
        then BitVec.ofInt 64 (sgn (ibits ty) (gangLane (ibits ty) s a j)) else unit) 0 (exec i s)) ∧
  (∀ (i : Instr) (s : State) (d a : BitVec 5) (ty : FType) (m : BitVec 3) (f : FFmt → Nat → Nat → Nat) (unit : FFmt → Nat) (k : Nat),
    vfredRow i = some (d, a, ty, m, f, unit) → gangLanes (fwidth (ftypeFmt ty)) s = 2 ^ k → k ≤ 10 →
      FResult s 4 d (BitVec.ofNat 64 (tree (f (ftypeFmt ty)) k fun j => if gangActive (fwidth (ftypeFmt ty)) s m j
        then gangLane (fwidth (ftypeFmt ty)) s a j else unit (ftypeFmt ty))) 0 (exec i s))

/-- vcvt completes: of K lanes each active one is converted, with one draw per active lane in rising order under .rsr, each inactive one keeps
its old bits, and the bits above lane K are 0 (R147, R148). -/
def Sys2Proof.vectorConversionsClause : Prop :=
  ∀ (s : State) (d a : BitVec 5) (src dst : CFmt) (rnd : Rnd) (m : BitVec 3),
    let k := 512 / Max.max (cfmtBits src) (cfmtBits dst)
    let mk := mval s.slot m
    ∃ v, VResult s 4 d v (if rnd = .rsr then ((List.range k).filter fun j => mk.getLsbD j).length else 0)
        (exec (.vcvt d a src dst rnd m) s) ∧
      (∀ i, i < k → lane (cfmtBits dst) v i = if mk.getLsbD i
        then convert src dst rnd (drawOf rnd s ((List.range i).filter fun j => mk.getLsbD j).length) (ln s (cfmtBits src) a i)
        else ln s (cfmtBits dst) d i) ∧
      (∀ i, k ≤ i → i < 512 / cfmtBits dst → lane (cfmtBits dst) v i = 0)

/-- The floating type of a code of vcvt. -/
def Sys2Proof.ctype : CFmt → Option FType
  | .h => some .h | .bf => some .bf | .s => some .s | .d => some .d
  | _ => none

/-- One conversion (07 Table 7-9): between floating types one rounding; to an integer as 04 R100, saturated; of a signed integer one rounding; between
integers saturation, which leaves a wider one as it is. -/
def Sys2Proof.conversionsClause : Prop :=
  ∀ (src dst : CFmt) (rnd : Rnd) (draw v : Nat), v < 2 ^ cfmtBits src →
    (∀ f t, ctype src = some f → ctype dst = some t → convert src dst rnd draw v = fround (ftypeFmt t) rnd draw (fdecode (ftypeFmt f) v)) ∧
    (∀ f, ctype src = some f → ctype dst = none →
      (convert src dst rnd draw v : Int) = toInteger (ftypeFmt f) (cfmtBits dst) rnd draw v % 2 ^ cfmtBits dst) ∧
    (∀ t, ctype src = none → ctype dst = some t → convert src dst rnd draw v =
      fround (ftypeFmt t) rnd draw (.fin (decide (sgn (cfmtBits src) v < 0)) (sgn (cfmtBits src) v).natAbs 0)) ∧
    (ctype src = none → ctype dst = none →
      (convert src dst rnd draw v : Int) = clampS (cfmtBits dst) (sgn (cfmtBits src) v) % 2 ^ cfmtBits dst)

/-- Reductions and conversions. -/
def Obligations.ReductionsAndConversions : Prop := reductionsClause ∧ vectorConversionsClause ∧ conversionsClause

/-- The pieces of a block access: the whole block, or each active byte. -/
abbrev Sys2Proof.blockOf (s : State) (ea : Word) (off : Nat) (m : BitVec 3) : List Seg := blockSegs ea off (mval s.slot m)

/-- vld completes: each active byte of vd is the block's, as the slot reads the pool, each inactive byte stays. vst completes: each active
byte of the block reads as the register's byte, and every other byte of the pool reads as before; nothing else changes (R149, R150). -/
def Sys2Proof.vectorBlocksClause : Prop :=
  ∀ (s : State) (d a : BitVec 5) (off : BitVec 7) (m : BitVec 3) (ea : Word) (o : Nat), XReady s a →
    ea = xval s.slot a + BitVec.ofInt 64 (64 * off.toInt) → ea.toNat % 64 = 0 → localOff s ea 64 = some o →
    (SegsOk s (blockOf s ea o m) 1 false false →
      LanesHold s { d := d, w := 8, mask := m, res := fun i => ((poolRead s 1 (o + i)).headD 0).toNat } (exec (.vld d a off m) s)) ∧
    (SegsOk s (blockOf s ea o m) 1 true (mval s.slot m == BitVec.allOnes 64) →
      ∃ t, exec (.vst d a off m) s = .next t ∧ Retires s t 4 ∧
        Control s { t with slot := { t.slot with storeBuf := s.slot.storeBuf } } ∧
        (∀ i, i < 64 → (mval s.slot m).getLsbD i = true → poolRead t 1 (o + i) = [BitVec.ofNat 8 (ln s 8 d i)]) ∧
        (∀ b, (∀ i, i < 64 → (mval s.slot m).getLsbD i = true → b ≠ o + i) → poolRead t 1 b = poolRead s 1 b))

/-- The address of lane i of a gather or scatter (R151). -/
abbrev Sys2Proof.laneEa (s : State) (a b : BitVec 5) (ty : IType) (i : Nat) : Word :=
  xval s.slot a + BitVec.ofNat 64 (ln s (ibits ty) b i * (ibits ty / 8))

/-- Every active lane is aligned and lies in a scratchpad of the capsule on this core. -/
abbrev Sys2Proof.LanesOk (s : State) (a b : BitVec 5) (ty : IType) (m : BitVec 3) : Prop :=
  ∀ i, i < 512 / ibits ty → (mval s.slot m).getLsbD i = true →
    (laneEa s a b ty i).toNat % (ibits ty / 8) = 0 ∧ (localOff s (laneEa s a b ty i) (ibits ty / 8)).isSome = true

/-- Pool offset of lane i. -/
abbrev Sys2Proof.laneOff (s : State) (a b : BitVec 5) (ty : IType) (i : Nat) : Nat := (laneEa s a b ty i).toNat % 2 ^ 19

/-- The pieces of a gather or scatter. -/
abbrev Sys2Proof.lanePieces (s : State) (a b : BitVec 5) (ty : IType) (m : BitVec 3) : List Seg :=
  ((List.range (512 / ibits ty)).filter fun i => (mval s.slot m).getLsbD i).map fun i =>
    ⟨laneEa s a b ty i, laneOff s a b ty i, ibits ty / 8⟩

/-- vgather and vscatter complete: each active lane loads, or stores, its w bits at its address; where two lanes of a scatter name one address,
the higher lane's value remains; every other byte of the pool reads as before, and nothing else changes (R150, R151). That all lanes of a gather are
read as it issues, and all lanes of a scatter enter the store buffer together, is the model's choice (log 80). -/
def Sys2Proof.gatherScatterClause : Prop :=
  ∀ (s : State) (d a b : BitVec 5) (ty : IType) (m : BitVec 3), XReady s a → LanesOk s a b ty m →
    (SegsOk s (lanePieces s a b ty m) (lanePieces s a b ty m).length false false →
      LanesHold s { d := d, w := ibits ty, mask := m, res := fun i => leNat (poolRead s (ibits ty / 8) (laneOff s a b ty i)) }
        (exec (.vgather d a b ty m) s)) ∧
    (SegsOk s (lanePieces s a b ty m) (lanePieces s a b ty m).length true false →
      ∃ t, exec (.vscatter d a b ty m) s = .next t ∧ Retires s t 4 ∧
        Control s { t with slot := { t.slot with storeBuf := s.slot.storeBuf } } ∧
        (∀ i, i < 512 / ibits ty → (mval s.slot m).getLsbD i = true →
          (∀ j, i < j → j < 512 / ibits ty → (mval s.slot m).getLsbD j = true → laneOff s a b ty j ≠ laneOff s a b ty i) →
          poolRead t (ibits ty / 8) (laneOff s a b ty i) = leBytes (ibits ty / 8) (ln s (ibits ty) d i)) ∧
        (∀ p, (∀ i, i < 512 / ibits ty → (mval s.slot m).getLsbD i = true →
            p < laneOff s a b ty i ∨ laneOff s a b ty i + ibits ty / 8 ≤ p) → poolRead t 1 p = poolRead s 1 p))

/-- Phases 3 to 5 of R150 on the pieces of an access, in their order: the first piece in a range lock traps RANGE with its address; then the first
whose channel objects traps COPYFAULT with the channel's number or waits, the number and the choice among pieces being the model's (log 82, log
69); then the first poisoned piece traps POISON with its address, and a store waits for a copy that has yet to read its bytes. -/
def Sys2Proof.SegsChecked (s : State) (segs : List Seg) (store skip : Bool) (o : Out) : Prop :=
  let poisoned (g : Seg) : Bool := if store then storePoison s g.off g.n else poolPoison s g.off g.n
  (∀ (k : Nat) (g : Seg), segs[k]? = some g → lockHit s g.off g.n store = true →
    (∀ j h, j < k → segs[j]? = some h → lockHit s h.off h.n store = false) → Traps s .range g.ea o) ∧
  ((∀ g ∈ segs, lockHit s g.off g.n store = false) →
    (∀ (k : Nat) (g : Seg), segs[k]? = some g → (∀ j h, j < k → segs[j]? = some h → chansView s.slot h.off h.n = .pass) →
      (∀ ch, chansView s.slot g.off g.n = .faulted ch → Traps s .copyfault (BitVec.ofNat 64 ch) o) ∧
      (chansView s.slot g.off g.n = .wait → Waits s o)) ∧
    ((∀ g ∈ segs, chansView s.slot g.off g.n = .pass) →
      (∀ (k : Nat) (g : Seg), skip = false → segs[k]? = some g → poisoned g = true →
        (∀ j h, j < k → segs[j]? = some h → poisoned h = false) → Traps s .poison g.ea o) ∧
      ((skip = true ∨ ∀ g ∈ segs, poisoned g = false) → store = true → (∃ g ∈ segs, copySourceBusy s g.off g.n = true) → Waits s o)))

/-- Where vld and vst wait and trap: an address that is no multiple of 64 traps MISALIGN, a block that lies in no scratchpad of the capsule on this
core RIGHTS, each with the address, and then come phases 3 to 5 on the active bytes; a store of the whole block meets no poison (R149, R150). -/
def Sys2Proof.blockTrapsClause : Prop :=
  ∀ (i : Instr) (store : Bool) (d a : BitVec 5) (off : BitVec 7) (m : BitVec 3) (s : State),
    (i = .vld d a off m ∧ store = false) ∨ (i = .vst d a off m ∧ store = true) → XReady s a →
    let ea := xval s.slot a + BitVec.ofInt 64 (64 * off.toInt)
    (memBlocked s = true ∨ (store = false ∧ noEntries s 1 = true) → Waits s (exec i s)) ∧
    (memBlocked s = false → store = true ∨ noEntries s 1 = false →
      (ea.toNat % 64 ≠ 0 → Traps s .misalign ea (exec i s)) ∧
      (ea.toNat % 64 = 0 → localOff s ea 64 = none → Traps s .rights ea (exec i s)) ∧
      (∀ o, ea.toNat % 64 = 0 → localOff s ea 64 = some o →
        SegsChecked s (blockOf s ea o m) store (store && (mval s.slot m == BitVec.allOnes 64)) (exec i s)))

/-- Lane i of a gather or scatter is active. -/
abbrev Sys2Proof.laneOn (s : State) (ty : IType) (m : BitVec 3) (i : Nat) : Prop := i < 512 / ibits ty ∧ (mval s.slot m).getLsbD i = true

/-- Where vgather and vscatter wait and trap: the lowest active lane that is misaligned traps MISALIGN, then the lowest that lies in no scratchpad of
the capsule on this core RIGHTS, each with its address, and then come phases 3 to 5 on the active lanes (R150, R151). -/
def Sys2Proof.laneTrapsClause : Prop :=
  ∀ (i : Instr) (store : Bool) (d a b : BitVec 5) (ty : IType) (m : BitVec 3) (s : State),
    (i = .vgather d a b ty m ∧ store = false) ∨ (i = .vscatter d a b ty m ∧ store = true) → XReady s a →
    let good (k : Nat) : Prop := (laneEa s a b ty k).toNat % (ibits ty / 8) = 0
    (memBlocked s = true ∨ (store = false ∧ noEntries s (lanePieces s a b ty m).length = true) → Waits s (exec i s)) ∧
    (memBlocked s = false → store = true ∨ noEntries s (lanePieces s a b ty m).length = false →
      (∀ k, laneOn s ty m k → ¬ good k → (∀ j, j < k → laneOn s ty m j → good j) → Traps s .misalign (laneEa s a b ty k) (exec i s)) ∧
      ((∀ k, laneOn s ty m k → good k) →
        (∀ k, laneOn s ty m k → localOff s (laneEa s a b ty k) (ibits ty / 8) = none →
          (∀ j, j < k → laneOn s ty m j → (localOff s (laneEa s a b ty j) (ibits ty / 8)).isSome = true) →
          Traps s .rights (laneEa s a b ty k) (exec i s)) ∧
        ((∀ k, laneOn s ty m k → (localOff s (laneEa s a b ty k) (ibits ty / 8)).isSome = true) →
          SegsChecked s (lanePieces s a b ty m) store false (exec i s))))

/-- Vector loads and stores, gather and scatter, and where they wait and trap. -/
def Obligations.VectorMemory : Prop := vectorBlocksClause ∧ gatherScatterClause ∧ blockTrapsClause ∧ laneTrapsClause

/-! ### Traps and special registers (01 R18, R24, R25; 04 R105 to R109) -/

/-- Taking a trap: the cause register takes ACTIVE, DISSOLVED and the code, tr.pc and tr.value take the pc and the value, the gang is dissolved,
and control goes to the trap entry; every other part of the slot stays, and so does memory (R24, Table 1-4, Table 1-5). -/
def Obligations.TrapEntry : Prop :=
  ∀ (c : Cause) (v : Word) (s : State) (cap : Capsule), s.cur.slot < 4 → trapActive s.slot = false → capOf s = some cap →
    cap.info.trapEntry ≠ 0xFFFFFFFF →
    let t := takeTrap c v s
    t.mem = s.mem ∧ t.cur = s.cur ∧
      t.slot = { s.slot with
        trCause := BitVec.ofNat 64 (2 ^ 31 + (if s.slot.gangSize = 1 then 0 else 2 ^ 8) + causeCode c)
        trPc := s.slot.pc, trValue := v, pc := cap.info.code + BitVec.ofNat 64 cap.info.trapEntry
        gangPos := 0, gangSize := 1, run := .running, condMet := none, wantRel := none, half := none, closing := false }

/-- A trap while ACTIVE is 1, or of a capsule without a trap entry, ends the tile task in a fault: its code is 0x8100 or 0x8000 plus the
cause, its held writes are dropped, and memory stays (R24; 20 R326, R327). -/
def Sys2Proof.trapWithoutHandlerClause : Prop :=
  ∀ (c : Cause) (v : Word) (s : State) (n : Nat) (cap : Capsule), s.cur.slot < 4 → gangWaiters s = [] →
    s.slot.capsule = some n → capAt s n = some cap →
    (trapActive s.slot = true ∨ cap.info.trapEntry = 0xFFFFFFFF) →
    let t := takeTrap c v s
    t.mem = s.mem ∧ t.slot.run = .faulted ∧ t.slot.hold = [] ∧ t.slot.gangSize = 1 ∧
      ∃ f : FaultRec, (capAt t n).map (fun c => c.faults) = some (cap.faults ++ [f]) ∧ f.linear = s.slot.linear ∧
        f.code = BitVec.ofNat 16 ((if trapActive s.slot then 0x8100 else 0x8000) + causeCode c) ∧
        (trapActive s.slot = false → f.pc = s.slot.pc ∧ f.value = v)

/-- A trap in the service slot ends the activation: the slot is free, but for stores still to be performed and answers still to come, which
land nowhere; messages staged for the target are dropped, and its capsule has a fault with code 0x8300 plus the cause, the pc and the
value, and no index (06 R128, R130; 20 Table 20-6). -/
def Sys2Proof.trapInServiceSlotClause : Prop :=
  ∀ (c : Cause) (v : Word) (s : State) (n : Nat) (cap : Capsule), s.cur.slot = 4 → s.slot.capsule = some n → capAt s n = some cap →
    let t := takeTrap c v s
    t.slot = leftOver s.slot ∧ t.mem = s.mem ∧
      (∀ m ∈ (coreOf t s.cur.core).staged, (m.slot, m.task) ≠ s.slot.serves.getD (0, 0)) ∧ (capAt t n).map (fun c => c.faults) =
      some (cap.faults ++ [⟨BitVec.ofNat 16 (0x8300 + causeCode c), 0xFFFFFFFF, s.slot.pc, v⟩])

/-- Traps that end a tile task or an activation. -/
def Obligations.TrapEndsTask : Prop := trapWithoutHandlerClause ∧ trapInServiceSlotClause

/-- The instructions whose effect is a trap, with cause and value (R107; 03 R68; 01 R22). -/
def Sys2Proof.trapRow : Instr → Option (Cause × Word)
  | .trap n => some (.trapi, BitVec.ofNat 64 n.toNat)
  | .brk n => some (.brk, BitVec.ofNat 64 n.toNat)
  | .illegalInstruction w => some (.illegal, BitVec.ofNat 64 w.toNat)
  | .fetchFault r a => some (if r then .rights else .extent, a)
  | _ => none

/-- trap and brk take the traps TRAPI and BREAK with their immediate; a word that is no instruction takes ILLEGAL with the word; a fetch that
no extent covers takes EXTENT, one from an extent without X takes RIGHTS, with the parcel's address. -/
def Sys2Proof.trapInstructionsClause : Prop :=
  ∀ (i : Instr) (c : Cause) (v : Word) (s : State), trapRow i = some (c, v) → Traps s c v (exec i s)

/-- The registers of an operand of an atomic: one, or a pair. -/
abbrev Sys2Proof.operandRegs (sz : ASize) (n : BitVec 5) : List (BitVec 5) := if sz = .q then [n, n + 1] else [n]

/-- The x registers that an atomic reads. -/
def Sys2Proof.atomSources (sz : ASize) (a b : BitVec 5) : List (BitVec 5) := a :: operandRegs sz b

/-- The x registers that an instruction reads, in the order in which their marks are looked at (log 10). A value that decides control is read
outside a gang and by a leader (06 R124); a matrix command reads once its slot's queue has room (16 R261). -/
def Sys2Proof.sources (s : State) (i : Instr) : Option (List (BitVec 5)) :=
  match aluRow i, divRow i, unaryRow i with
  | some (_, _, a, b, _), _, _ => some [a, b]
  | _, some (_, a, b, _), _ => some [a, b]
  | _, _, some (_, _, a, _) => some [a]
  | _, _, _ =>
    match i with
    | .csel _ a b c => some [a, b, c]
    | .ld _ a _ _ | .fld _ a _ _ | .ldDC _ a | .ldWC _ a | .fst _ a _ _ => some [a]
    | .st d a _ _ | .stDC d a | .stWC d a => some [d, a]
    | .ldG _ a _ _ | .ldAcq _ a _ _ _ => some [a]
    | .stG d a _ _ | .stRel d a _ _ _ => some [d, a]
    | .atomAdd _ a b _ sz _ | .atomAnd _ a b _ sz _ | .atomOr _ a b _ sz _ | .atomXor _ a b _ sz _ | .atomMin _ a b _ sz _
    | .atomMax _ a b _ sz _ | .atomMinu _ a b _ sz _ | .atomMaxu _ a b _ sz _ | .atomSwap _ a b _ sz _ => some (atomSources sz a b)
    | .atomCas d a b _ sz _ => some (atomSources sz a b ++ operandRegs sz d)
    | .atomFaddS _ a b _ _ | .atomFminS _ a b _ _ | .atomFmaxS _ a b _ _ => some [a, b]
    | .fmvF _ a _ | .fcvtFromI _ a _ _ | .fgetx _ a _ | .fputx _ a _ | .xgetx _ a _ => some [a]
    | .xputx d a _ => some [d, a]
    | .vdup _ a _ _ | .mfromx _ a | .vld _ a _ _ | .vst _ a _ _ | .vgather _ a _ _ _ | .vscatter _ a _ _ _ => some [a]
    | .probe _ a | .sev a | .send a _ | .mcfg a _ | .cpcfg a _ | .srel a _ => some [a]
    | .rel a b | .cp a b _ | .cpMc a b _ | .cpDec a b _ | .chinit a b _ | .subscr a b _ => some [a, b]
    | .puts a n => if (n = 0x030 ∨ n = 0x031) ∧ s.slot.gangPos ≠ 0 then none else some [a]
    | .bEq a b _ | .bNe a b _ | .bLt a b _ | .bGe a b _ | .bLtu a b _ | .bGeu a b _ | .vins _ a b _ =>
      if s.slot.gangPos = 0 then some [a, b] else none
    | .jr a | .jrC a | .callr a _ | .loop a _ => if s.slot.gangPos = 0 then some [a] else none
    | .vslup _ _ b _ _ | .vsldn _ _ b _ _ | .vext _ _ b _ => if s.slot.gangPos = 0 then some [b] else none
    | .mmaLo a b _ _ _ | .mmaHi a b _ _ _ => if mxRoom s then some [a, b] else none
    | .mld _ a _ | .mst _ a _ _ => if mxRoom s then some [a] else none
    | _ => none

/-- Data is on its way to register n. -/
abbrev Sys2Proof.xWaits (s : State) (n : BitVec 5) : Prop := n ≠ 0 ∧ awaited s.slot (xKey s.slot n) = true

/-- An instruction waits while data is on its way to one of the registers that it reads. Then one of them that is marked traps POISON with the
effective address of its mark, before any effect (10 R209; 04 R110). Of several marks the first in the order of reading is the model's
choice (log 10), as are probe's and a gather's traps (log 81), and that xgetx reads its index before the register that it names (log 81). -/
def Sys2Proof.poisonTrapsClause : Prop :=
  ∀ (i : Instr) (s : State) (rs : List (BitVec 5)), sources s i = some rs →
    ((∃ r ∈ rs, xWaits s r) → Waits s (exec i s)) ∧
    (∀ (k : Nat) (r : BitVec 5) (ea : Word), (∀ q ∈ rs, ¬ xWaits s q) → rs[k]? = some r → r ≠ 0 → sfind s.slot.xPoison (xKey s.slot r) = some ea →
      (∀ j q, j < k → rs[j]? = some q → q = 0 ∨ sfind s.slot.xPoison (xKey s.slot q) = none) → Traps s .poison ea (exec i s))

/-- Instructions that trap: by their nature, and at a marked register. -/
def Obligations.TrapsTaken : Prop := trapInstructionsClause ∧ poisonTrapsClause

/-- The special registers with their values (01 Table 1-3). -/
def Sys2Proof.specials (s : State) : List (Nat × Word) :=
  [(0x000, BitVec.ofNat 64 s.slot.tile.1), (0x001, BitVec.ofNat 64 s.slot.tile.2.1), (0x002, BitVec.ofNat 64 s.slot.tile.2.2),
   (0x004, BitVec.ofNat 64 s.slot.ext.1), (0x005, BitVec.ofNat 64 s.slot.ext.2.1), (0x006, BitVec.ofNat 64 s.slot.ext.2.2),
   (0x008, BitVec.ofNat 64 s.cur.core.toNat), (0x009, BitVec.ofNat 64 s.cur.slot),
   (0x00A, BitVec.ofNat 64 (16 * s.slot.gangPos + s.slot.gangSize)), (0x00B, s.slot.capPos), (0x00C, s.slot.worldPos),
   (0x010, s.slot.trCause), (0x011, s.slot.trPc), (0x012, s.slot.trValue), (0x018, s.slot.part), (0x019, 0x2040),
   (0x020, BitVec.ofNat 64 (dieCycles s (dieOf s.cur.core) - s.slot.startTime)), (0x021, s.slot.retired),
   (0x030, match s.slot.outer with | some l => l.cnt | none => 0), (0x031, match s.slot.inner with | some l => l.cnt | none => 0)]

/-- gets reads every assigned special register; an unassigned number traps SPECIAL with the number (R18, R105). -/
def Sys2Proof.getsSpecialClause : Prop :=
  ∀ (d : BitVec 5) (n : BitVec 12) (s : State),
    (∀ v, (n.toNat, v) ∈ specials s → XResult s 4 d v 0 (exec (.gets d n) s)) ∧
    ((∀ v, (n.toNat, v) ∉ specials s) → Traps s .special (BitVec.ofNat 64 n.toNat) (exec (.gets d n) s))

/-- puts writes tr.pc with bit 0 cleared while ACTIVE is 1, and the counter of an active loop; a counter without a loop stays 0; every
other number, and tr.pc with ACTIVE 0, traps SPECIAL with the number (R14, R18, R105). -/
def Sys2Proof.putsSpecialClause : Prop :=
  ∀ (a : BitVec 5) (s : State),
    (XReady s a → trapActive s.slot = true → ∃ t, exec (.puts a 0x011) s = .next t ∧ Retires s t 4 ∧
      t.slot.trPc = BitVec.ofNat 64 ((xval s.slot a).toNat / 2 * 2) ∧
      Control s { t with slot := { t.slot with trPc := s.slot.trPc } }) ∧
    (LeadReady s a → ∃ t, exec (.puts a 0x030) s = .next t ∧ Control s t ∧
      Retires { s with slot := { s.slot with outer := s.slot.outer.map fun l => { l with cnt := leadX s a } } } t 4) ∧
    (LeadReady s a → ∃ t, exec (.puts a 0x031) s = .next t ∧ Control s t ∧
      Retires { s with slot := { s.slot with inner := s.slot.inner.map fun l => { l with cnt := leadX s a } } } t 4) ∧
    (∀ n : BitVec 12, XReady s a → n ≠ 0x030 → n ≠ 0x031 → (n = 0x011 → trapActive s.slot = false) →
      Traps s .special (BitVec.ofNat 64 n.toNat) (exec (.puts a n) s))

/-- Reading and writing special registers. -/
def Obligations.SpecialRegisters : Prop := getsSpecialClause ∧ putsSpecialClause

/-- nop and nop.c have no effect except to advance pc, by 4 and by 2 (R106). -/
def Obligations.NopOnlyAdvances : Prop :=
  ∀ s : State, (∃ t, exec .nop s = .next t ∧ Retires s t 4 ∧ Control s t) ∧ (∃ t, exec .nopC s = .next t ∧ Retires s t 2 ∧ Control s t)

/-- tret clears ACTIVE alone and goes on at tr.pc; with ACTIVE 0 it traps ILLEGAL with its word (R108). That a gang goes on at the leader's tr.pc
is the model's choice (log 32). -/
def Obligations.ReturnFromTrap : Prop :=
  ∀ s : State,
    (trapActive s.slot = true → ∃ t, exec .tret s = .next t ∧ GoesTo s t (leader s).trPc false ∧
      t.slot.trCause = BitVec.ofNat 64 (s.slot.trCause.toNat - 2 ^ 31) ∧
      Control s { t with slot := { t.slot with trCause := s.slot.trCause } }) ∧
    (trapActive s.slot = false → Traps s .illegal 0x1800004B (exec .tret s))

/-- texit ends the tile task. With 0, in both forms, the region closes first and the task ends normally; with n from 1 on it ends with fault
code n, and its held writes are dropped. Messages staged for a task that ends normally are strays. In the service slot the activation ends,
with its stores and answers still under way, and with n the target's capsule faults (R109; 01 R20; 06 R128, R130). -/
def Obligations.TaskExit : Prop :=
  ∀ s : State, gangWaiters s = [] →
    (∀ i : Instr, i = .texit 0 ∨ i = .texitC → CanClose s →
      ∃ t, exec i s = .next t ∧ t.mem = s.mem ∧
        (s.cur.slot ≠ 4 → t.slot.run = .exited ∧ t.slot.gangSize = 1 ∧ t.slot.hold = [] ∧ t.slot.group = none ∧
          t.slot.x = s.slot.x ∧ t.slot.f = s.slot.f ∧ t.slot.v = s.slot.v ∧ t.slot.m = s.slot.m ∧ t.slot.mxQueue = s.slot.mxQueue ∧
          t.slot.cpQueue = s.slot.cpQueue ∧ t.slot.storeBuf = s.slot.storeBuf ∧
          ∀ m ∈ (coreOf t s.cur.core).staged, ¬ (m.slot = s.cur.slot ∧ m.task = s.slot.task)) ∧
        (s.cur.slot = 4 → t = { s with slot := leftOver s.slot })) ∧
    (∀ (n : BitVec 15) (k : Nat) (cap : Capsule), n ≠ 0 → s.slot.capsule = some k → capAt s k = some cap →
      ∃ t f, exec (.texit n) s = .next t ∧ t.mem = s.mem ∧ t.slot.hold = [] ∧
        (capAt t k).map (fun c => c.faults) = some (cap.faults ++ [f]) ∧ f.code = BitVec.ofNat 16 n.toNat ∧
        (s.cur.slot ≠ 4 → t.slot.run = .faulted ∧ f.linear = s.slot.linear) ∧
        (s.cur.slot = 4 → t.slot = leftOver s.slot ∧ f.linear = 0xFFFFFFFF))

/-! ### Regions, gangs, events and messages (20 R314 to R324; 06 R122 to R133; 07 R153 to R160) -/

/-- region, commit and abort: the first two wait for the code verdict, and then, with the region closed already, for the hold area to empty;
each then opens a region at the next instruction, region with its immediate as the mask and the others with the mask of the region that
closed; abort drops every held write and never waits. No register and no byte of memory changes (20 R321 to R324). -/
def Obligations.Regions : Prop :=
  ∀ s : State,
    (CanClose s → ∀ msk : BitVec 11, ∃ t, exec (.region msk) s = .next t ∧ Retires s t 4 ∧ BoundaryOnly s t ∧
      t.slot.region = { entry := t.slot.pc, mask := msk, first := false, w := t.slot.wbase, calls := t.slot.calls.length
                        counter := t.slot.draws, outer := t.slot.outer, inner := t.slot.inner, group := t.slot.group
                        trCause := t.slot.trCause, trPc := t.slot.trPc, trValue := t.slot.trValue, saved := {} }) ∧
    (CanClose s → ∃ t, exec .commit s = .next t ∧ Boundary s t 4 ∧ BoundaryOnly s t) ∧
    (∀ i : Instr, i = .commit ∨ (∃ msk, i = .region msk) →
      (verdictPending s = true → Waits s (exec i s)) ∧
      (verdictPending s = false → s.slot.hold ≠ [] → Waits (closed s) (exec i s))) ∧
    (∃ t, exec .abort s = .next t ∧ Boundary s t 4 ∧ t.mem = s.mem ∧ t.slot.hold = [] ∧ t.slot.x = s.slot.x ∧
      t.slot.xPoison = s.slot.xPoison ∧ t.slot.f = s.slot.f ∧ t.slot.v = s.slot.v ∧ t.slot.m = s.slot.m ∧ t.slot.groups = s.slot.groups)

/-- An intended member of the block has ended its tile task: its slot runs no task of the capsule (06 R123). -/
abbrev Sys2Proof.MemberEnded (s : State) (i : SlotId) : Prop :=
  let l := getSlot s i
  i.slot ≠ 4 ∧ (l.capsule ≠ s.slot.capsule ∨ l.run = .exited ∨ l.run = .faulted ∨ l.run = .unbound)

/-- No condition of 07 Table 7-10 holds at issue of `gang n`. -/
abbrev Sys2Proof.MayForm (s : State) (n : Nat) : Prop :=
  (∃ cap, capOf s = some cap ∧ n ≤ cap.info.gang) ∧ s.slot.gangSize = 1 ∧ s.slot.outer = none ∧ s.cur.slot ≠ 4 ∧
    ∀ i ∈ gangBlock s n, ¬ MemberEnded s i

/-- The conditions of 07 Table 7-10 at issue of `gang n`, the lowest value first. -/
def Sys2Proof.gangTrapsClause : Prop :=
  ∀ (n : BitVec 15) (s : State) (cap : Capsule), n.toNat = 2 ∨ n.toNat = 4 ∨ n.toNat = 8 → capOf s = some cap →
    (cap.info.gang < n.toNat → Traps s .gang 1 (exec (.gang n) s)) ∧
    (n.toNat ≤ cap.info.gang → (s.slot.gangSize ≠ 1 → Traps s .gang 2 (exec (.gang n) s)) ∧
      (s.slot.gangSize = 1 → (s.slot.outer ≠ none → Traps s .gang 3 (exec (.gang n) s)) ∧
        (s.slot.outer = none → ((∃ i ∈ gangBlock s n.toNat, MemberEnded s i) → Traps s .gang 4 (exec (.gang n) s)) ∧
          ((∀ i ∈ gangBlock s n.toNat, ¬ MemberEnded s i) → s.cur.slot = 4 → Traps s .gang 6 (exec (.gang n) s)))))

/-- Slot `i`, at its `gang`, has taken the trap GANG with value `v`, at the capsule's trap entry (01 R24; 07 Table 7-10). -/
abbrev Sys2Proof.GangTrapped (s t : State) (cap : Capsule) (i : SlotId) (v : Word) : Prop :=
  let l := getSlot t i
  l.trCause = BitVec.ofNat 64 (2 ^ 31 + causeCode .gang) ∧ l.trValue = v ∧ l.trPc = (getSlot s i).pc ∧
    l.pc = cap.info.code + BitVec.ofNat 64 cap.info.trapEntry ∧ l.run = .running ∧ l.gangSize = 1

/-- Where the gang does not form: with window bases that differ when the last member arrives every member traps GANG with value 5, and a slot that
waits for another n traps it with value 4 (06 R123; 07 Table 7-10; which slots wait for the executing one is log 37). -/
def Sys2Proof.gangFailsClause : Prop :=
  ∀ (n : BitVec 15) (s : State) (cap : Capsule), n.toNat = 2 ∨ n.toNat = 4 ∨ n.toNat = 8 → MayForm s n.toNat → CanClose s →
    capOf s = some cap → cap.info.trapEntry ≠ 0xFFFFFFFF →
    ((∀ i ∈ gangBlock s n.toNat, trapActive (getSlot s i) = false ∧ (getSlot s i).gangSize = 1 ∧
        (i ≠ s.cur → (getSlot s i).run = .atGang n.toNat)) → (∃ i ∈ gangBlock s n.toNat, (getSlot s i).wbase ≠ s.slot.wbase) →
      ∃ t, exec (.gang n) s = .next t ∧ t.mem = s.mem ∧ ∀ i ∈ gangBlock s n.toNat, GangTrapped s t cap i 5) ∧
    (∀ i m, i ∈ gangWaiters s → (getSlot s i).run = .atGang m → m ≠ n.toNat → trapActive (getSlot s i) = false →
      (getSlot s i).gangSize = 1 → ∃ t, exec (.gang n) s = .next t ∧ t.mem = s.mem ∧ GangTrapped s t cap i 4)

/-- gang n closes the region; where another member has yet to arrive the slot waits; and where all others wait at the same gang with the same
window base, the gang is formed: each member, by its position, goes on behind the leader's instruction, and keeps its registers (06 R123; 07 R153).
That it takes the leader's call records is the model's choice (log 32). -/
def Sys2Proof.gangFormsClause : Prop :=
  ∀ (n : BitVec 15) (s : State), n.toNat = 2 ∨ n.toNat = 4 ∨ n.toNat = 8 →
    (MayForm s n.toNat → CanClose s → gangWaiters s = [] →
      (∃ i ∈ gangBlock s n.toNat, i ≠ s.cur ∧ (getSlot s i).run ≠ .atGang n.toNat) →
      ∃ t, exec (.gang n) s = .next t ∧ t = { s with slot := { closeRegion s.slot with run := .atGang n.toNat } }) ∧
    (MayForm s n.toNat → CanClose s →
      (∀ i ∈ gangBlock s n.toNat, i ≠ s.cur → (getSlot s i).run = .atGang n.toNat ∧ (getSlot s i).wbase = s.slot.wbase) →
      ∃ t, exec (.gang n) s = .next t ∧ t.mem = s.mem ∧ ∀ (p : Nat) (i lead : SlotId),
        (gangBlock s n.toNat)[p]? = some i → (gangBlock s n.toNat)[0]? = some lead →
        let l := getSlot t i
        l.run = .running ∧ l.gangPos = p ∧ l.gangSize = n.toNat ∧ l.pc = (getSlot s lead).pc + 4 ∧ l.calls = (getSlot s lead).calls ∧
          l.retired = (getSlot s i).retired + 1 ∧ l.region.entry = l.pc ∧ l.region.mask = (getSlot s i).region.mask ∧
          l.x = (getSlot s i).x ∧ l.f = (getSlot s i).f ∧ l.v = (getSlot s i).v ∧ l.m = (getSlot s i).m)

/-- split in a gang leaves it, as a boundary, and outside one traps GANG with value 7 (06 R125; 07 R153). -/
def Sys2Proof.gangSplitsClause : Prop :=
  ∀ s : State,
    (s.slot.gangSize = 1 → Traps s .gang 7 (exec .split s)) ∧
    (s.slot.gangSize ≠ 1 → CanClose s → ∃ t, exec .split s = .next t ∧ Boundary s t 4 ∧ t.slot.gangPos = 0 ∧ t.slot.gangSize = 1 ∧
      BoundaryOnly s { t with slot := { t.slot with gangPos := s.slot.gangPos, gangSize := s.slot.gangSize } })

/-- Forming and leaving a gang, and where neither can be. -/
def Obligations.Gangs : Prop := gangTrapsClause ∧ gangFailsClause ∧ gangFormsClause ∧ gangSplitsClause

/-- wfe, in both forms, closes the region and opens one behind it: with the latch set, in a gang every member's, it clears the latch and goes
on; else the slot sleeps behind it. popev takes the oldest entry of the event queue and the lost bit into xd, and never waits (06 R132,
R133; 07 Table 7-12). That wfe retires and opens its region before the slot sleeps is the model's choice (log 17). -/
def Obligations.Events : Prop :=
  (∀ (i : Instr) (len : Word) (s : State), (i = .wfe ∧ len = 4) ∨ (i = .wfeC ∧ len = 2) → CanClose s →
    ∃ t, exec i s = .next t ∧ Boundary s t len ∧
      (latchesSet s = true → t.slot.latchBit = false ∧ BoundaryOnly s { t with slot := { t.slot with latchBit := s.slot.latchBit } }) ∧
      (latchesSet s = false → t.slot.run = .asleep ∧ BoundaryOnly s { t with slot := { t.slot with run := s.slot.run } })) ∧
  (∀ (d : BitVec 5) (s : State), CanClose s →
    let lost := if s.slot.evLost then 2 ^ 62 else 0
    ∃ u, exec (.popev d) s = .next (reopen u) ∧
      (s.slot.evq = [] → XResult (onSlot (closed s) fun l => { l with evLost := false }) 4 d (BitVec.ofNat 64 lost) 0 (.next u)) ∧
      (∀ e rest, s.slot.evq = e :: rest → XResult (onSlot (closed s) fun l => { l with evq := rest, evLost := false }) 4 d
        (BitVec.ofNat 64 (2 ^ 63 + lost + e.kind * 2 ^ 40 + e.bytes % 2 ^ 32 * 2 ^ 8 + e.ch)) 0 (.next u)))

/-- send and sev enter the hold area at 80 and 16 bytes; without room they trap HOLDFULL with X(a); no register and no byte of memory changes
(07 R154, R158; 20 R319, R320). -/
def Sys2Proof.heldMessagesClause : Prop :=
  ∀ (i : Instr) (h : Held) (cost : Nat) (a : BitVec 5) (s : State),
    ((∃ b, i = .send a b ∧ h = .send (xval s.slot a) (vval s.slot b) ∧ cost = 80) ∨
      (i = .sev a ∧ h = .sev (xval s.slot a) ∧ cost = 16)) →
    XReady s a → verdictPending s = false →
    (holdUsed s.slot + cost ≤ 4096 * partHold s.slot → ∃ t, exec i s = .next t ∧ Retires s t 4 ∧ t.slot.hold = s.slot.hold ++ [h] ∧
      Control s { t with slot := { t.slot with hold := s.slot.hold } }) ∧
    (4096 * partHold s.slot < holdUsed s.slot + cost → Traps s .holdfull (xval s.slot a) (exec i s))

/-- recv takes the oldest message into vd and sets x7 to 1, or with none sets x7 to 0 and leaves vd; it never waits, and closes the region
(07 R155). -/
def Sys2Proof.receivesClause : Prop :=
  ∀ (d : BitVec 5) (s : State), CanClose s →
    (nextMessage s = none → ∃ u, exec (.recv d) s = .next (reopen u) ∧ XResult (closed s) 4 7 0 0 (.next u)) ∧
    (s.cur.slot ≠ 4 → (getSlot s ⟨s.cur.core, 4⟩).serves ≠ some (s.cur.slot, s.slot.task) → ∀ m rest, s.slot.inbox = m :: rest →
      ∃ t, exec (.recv d) s = .next t ∧ Boundary s t 4 ∧ vval t.slot d = m ∧ xval t.slot 7 = 1 ∧ t.slot.inbox = rest ∧
        t.mem = s.mem ∧ (∀ n : BitVec 5, n ≠ d → vval t.slot n = vval s.slot n) ∧
        (∀ n : BitVec 5, n ≠ 7 → xval t.slot n = xval s.slot n) ∧ t.slot.f = s.slot.f ∧ t.slot.m = s.slot.m) ∧
    (s.cur.slot = 4 → ∀ m, nextMessage s = some m →
      ∃ t, exec (.recv d) s = .next t ∧ Boundary s t 4 ∧ vval t.slot d = m ∧ xval t.slot 7 = 1 ∧ t.mem = s.mem ∧
        (coreOf t s.cur.core).staged.length + 1 = (coreOf s s.cur.core).staged.length)

/-- Sending and receiving messages. -/
def Obligations.Messages : Prop := heldMessagesClause ∧ receivesClause

/-! ### Fences, probe, wait, release groups (10 R216, R220, R221; 21 R340 to R345) -/

/-- fence goes on when the Release condition of its scope holds, or has held since the instruction began to wait, and else waits for it;
wait goes on when each of the four classes has at most its count outstanding, and else waits; neither changes a register or memory. -/
def Sys2Proof.fencesAndWaitsClause : Prop :=
  (∀ (sc : Scope) (s : State),
    (relPassed s sc = true → ∃ t, exec (.fence sc) s = .next t ∧ Retires s t 4 ∧ Control s t) ∧
    (relPassed s sc = false → Waits { s with slot := { s.slot with wantRel := some sc } } (exec (.fence sc) s))) ∧
  (∀ (ld st cp mx : BitVec 4) (s : State),
    (outLd s ≤ ld.toNat ∧ outSt s ≤ st.toNat ∧ outCp s ≤ cp.toNat ∧ outMx s ≤ mx.toNat →
      ∃ t, exec (.wait ld st cp mx) s = .next t ∧ Retires s t 4 ∧ Control s t) ∧
    (¬ (outLd s ≤ ld.toNat ∧ outSt s ≤ st.toNat ∧ outCp s ≤ cp.toNat ∧ outMx s ≤ mx.toNat) → Waits s (exec (.wait ld st cp mx) s)))

/-- probe completes and never traps on the address: in window space it gives the entry, its class, rights and what remains, or 0; in SRAM space what
remains of the scratchpad of the capsule that holds the byte, with the rights to read and write, or 0; in peer space bit 62, and bit 63 for a device
in the roster (10 R220, Table 10-7). -/
def Sys2Proof.probesClause : Prop :=
  ∀ (d a : BitVec 5) (s : State), XReady s a → ∃ v, XResult s 4 d (BitVec.ofNat 64 v) 0 (exec (.probe d a) s) ∧
    (spaceOf (xval s.slot a) = 0 → rangeAt (rangesOf s) (xval s.slot a).toNat = none → v = 0) ∧
    (∀ i e, spaceOf (xval s.slot a) = 0 → rangeAt (rangesOf s) (xval s.slot a).toNat = some (i, e) →
      v = 2 ^ 63 + i * 2 ^ 50 + e.cls * 2 ^ 46 + e.rights.toNat * 2 ^ 32 +
        Min.min (e.base + e.length - (xval s.slot a).toNat) (2 ^ 32 - 1)) ∧
    (∀ cap, spaceOf (xval s.slot a) = 1 → s.slot.capsule = some cap →
      let c := namedCore (xval s.slot a) s.cur.core
      let off := (xval s.slot a).toNat % 2 ^ 19
      (∀ j, sramFieldsOk (xval s.slot a) = true → scratchHolder s c cap off 1 = some j →
        v = 2 ^ 63 + 3 * 2 ^ 32 + Min.min (scratchBase (getSlot s ⟨c, j⟩) + scratchSize (getSlot s ⟨c, j⟩) - off) (2 ^ 32 - 1)) ∧
      (sramFieldsOk (xval s.slot a) = false ∨ scratchHolder s c cap off 1 = none → v = 0)) ∧
    (2 ≤ spaceOf (xval s.slot a) → v = 2 ^ 62 + if inRoster s (bits (xval s.slot a).toNat 46 16) then 2 ^ 63 else 0)

/-- fence, wait and probe. -/
def Obligations.FencesWaitsProbes : Prop := fencesAndWaitsClause ∧ probesClause

/-- grp selects a release group, 16 none, and traps GROUP with its number in the service slot; grpq completes with the group as the held writes
will leave it, 0 in the service slot (21 R342, R343, R345, Table 21-4). -/
def Sys2Proof.groupSelectionClause : Prop :=
  (∀ (g : BitVec 5) (s : State), g.toNat ≤ 16 →
    (s.cur.slot ≠ 4 → ∃ t, exec (.grp g) s = .next t ∧ Retires s t 4 ∧
      t.slot.group = (if g.toNat = 16 then none else some g.toNat) ∧ Control s { t with slot := { t.slot with group := s.slot.group } }) ∧
    (s.cur.slot = 4 → Traps s .group (BitVec.ofNat 64 g.toNat) (exec (.grp g) s))) ∧
  (∀ (d g : BitVec 5) (s : State), s.cur.slot = 4 → XResult s 4 d 0 0 (exec (.grpq d g) s)) ∧
  (∀ (d g : BitVec 5) (s : State), s.cur.slot ≠ 4 →
    let v := groupView s g.toNat
    XResult s 4 d (BitVec.ofNat 64 (v.seq * 2 ^ 56 + v.bytes + (if s.slot.group = some g.toNat then 2 ^ 62 else 0) +
      (if groupReady s v then 2 ^ 60 else 0) +
      (match v.bind with
        | none => 0
        | some (dev, some die) => 2 ^ 63 + die * 2 ^ 53 + dev * 2 ^ 37
        | some (dev, none) => 2 ^ 63 + 2 ^ 61 + dev * 2 ^ 37))) 0 (exec (.grpq d g) s))

/-- rel enters the hold area at 16 bytes where a group is selected, X(b) has bit 63 clear, the place is aligned, has an arrival table and is not
in this core's pool, and the group is bound to its key or unbound. With no group it traps GROUP with 16, with bit 63 set with the group (21
R344). -/
def Sys2Proof.countedReleaseClause : Prop :=
  ∀ (a b : BitVec 5) (s : State), XReady s a → XReady s b →
    (s.slot.group = none → Traps s .group 16 (exec (.rel a b) s)) ∧
    (∀ g, s.slot.group = some g → (xval s.slot b).getLsbD 63 = true → Traps s .group (BitVec.ofNat 64 g) (exec (.rel a b) s)) ∧
    (∀ g p, s.slot.group = some g → (xval s.slot b).getLsbD 63 = false → resolve s (xval s.slot a) 8 .store = .ok p →
      (∀ k key, p ≠ .mem 2 k key) → (xval s.slot a).toNat % 8 = 0 → flagPlaceOk s p = true →
      groupOk (groupView s g) (bindKey s p) 0 = true → verdictPending s = false →
      holdUsed s.slot + 16 ≤ 4096 * partHold s.slot →
      ∃ t, exec (.rel a b) s = .next t ∧ Retires s t 4 ∧ t.slot.hold = s.slot.hold ++ [.rel g p (xval s.slot b)] ∧
        Control s { t with slot := { t.slot with hold := s.slot.hold } })

/-- Release groups. -/
def Obligations.ReleaseGroups : Prop := groupSelectionClause ∧ countedReleaseClause

/-! ### Global loads, stores and atomics (10 R208 to R219) -/

/-- A global load: destination, base, offset, bytes, and the scope of an acquire. -/
def Sys2Proof.loadRow : Instr → Option (BitVec 5 × BitVec 5 × Int × Nat × Option Scope)
  | .ldG d a imm sz => some (d, a, imm.toInt, (match sz with | .b => 1 | .h => 2 | .w => 4 | .d => 8), none)
  | .ldAcq d a imm sz sc => some (d, a, imm.toInt, (match sz with | .b => 1 | .h => 2 | .w => 4 | .d => 8), some sc)
  | _ => none

/-- What the memory holds at bytes `j` to `j + n - 1` of a place. -/
def Sys2Proof.partBytes (s : State) (p : Place) (j n : Nat) : List Byte :=
  (List.range n).map fun i => s.mem.byte ((placeKey (placeAdd p j)).1 + i) (placeKey p).2

/-- One of these bytes is poisoned, and the slot's own writes do not supply it (R209, R211). -/
def Sys2Proof.partBad (s : State) (p : Place) (j n : Nat) : Bool :=
  (List.range n).any fun i =>
    (ownByte s ((placeAddr p).1, (placeAddr p).2 + (j + i))).isNone && s.mem.poisoned (placeKey (placeAdd p (j + i))).1

/-- Bytes read at byte `j` of a place, under the slot's own held, buffered and combining writes (R211). -/
def Sys2Proof.underOwn (s : State) (p : Place) (j : Nat) (bs : List Byte) : List Byte :=
  bs.zipIdx.map fun b => (ownByte s ((placeAddr p).1, (placeAddr p).2 + (j + b.2))).getD b.1

/-- Sign extension of `w` loaded bytes (R210). -/
def Sys2Proof.loaded (w : Nat) (bs : List Byte) : Word := BitVec.ofInt 64 (BitVec.ofNat (8 * w) (leNat bs)).toInt

/-- The parts of an access have left as requests, each with its position in the access: the packets of the next numbers hold them, the slot
awaits an answer to each, and no register and no byte of memory changes. Where `blocks`, later accesses wait for it as far as `reach`: the scope of
an acquire, all of them for an atomic, and for a load whose performer is on the issuer's die those performed there (R214, R219; 11 R225). -/
def Sys2Proof.Requested (s t : State) (parts : List (Nat × Cargo)) (p : Place) (blocks : Bool) (reach : Scope) (d d2 : Option Nat) : Prop :=
  t.fresh = s.fresh + parts.length ∧ t.mem = s.mem ∧ t.slot.x = s.slot.x ∧ t.slot.f = s.slot.f ∧ t.slot.v = s.slot.v ∧
    t.slot.m = s.slot.m ∧
    (∀ j o c, parts[j]? = some (o, c) → ∃ q, sfind t.net (s.fresh + j) = some q ∧ q.cargo = c ∧
      (q.dest, q.key) = destOf (placeAdd p o) ∧ q.src = s.cur ∧ q.req = s.fresh + j) ∧
    (∀ k, k < s.fresh ∨ s.fresh + parts.length ≤ k → sfind t.net k = sfind s.net k) ∧
    ∃ r, t.slot.pending.getLast? = some r ∧ r.req = s.fresh ∧ r.dst = d ∧ r.dst2 = d2 ∧ r.blocks = blocks ∧
      (blocks = true → r.reach = reach) ∧ r.parts = parts.zipIdx.map fun q => (s.fresh + q.2, q.1.1)

/-- The parts of a read that leaves as a request: one for each aligned block of `unit` bytes (R212). -/
def Sys2Proof.partsOf (unit off w : Nat) : List (Nat × Cargo) :=
  if off % unit + w ≤ unit then [(0, .read w)] else [(0, .read (unit - off % unit)), (unit - off % unit, .read (w - (unit - off % unit)))]

/-- The performer of an access of slot `i` to place `p` is on the slot's die, by whatever number the place is named (11 R225, R229). -/
def Sys2Proof.OnDie (s : State) (i : SlotId) (p : Place) (n : Nat) (k : Kind) : Prop :=
  placeDie s p = dieOf i.core ∨ ∃ a q, p = .peer a ∧ ownPlace s (getSlot s i).capsule a n k = some q ∧ placeDie s q = dieOf i.core

/-- Bytes that no access of slot `i` to place `p` is split within: 64 where the performer is on the issuer's die, by whatever number, else 32 (R212;
11 R229). -/
def Sys2Proof.UnitIs (s : State) (i : SlotId) (p : Place) (n : Nat) (k : Kind) (unit : Nat) : Prop :=
  (OnDie s i p n k → unit = 64) ∧ (¬ OnDie s i p n k → unit = 32)

/-- The schedule has performed no plain load at this address and of this width before its instruction (log 74). -/
abbrev Sys2Proof.NoEarly (s : State) (ea : Word) (w : Nat) (acq : Option Scope) : Prop :=
  acq.isSome = true ∨ ∀ e ∈ s.slot.early, e.addr = ea → e.bytes.length ≠ w

/-- One of the slot's own writes supplies a byte of the access (R211). -/
abbrev Sys2Proof.OwnsByte (s : State) (p : Place) (w : Nat) : Prop := ∃ j, j < w ∧ (ownByte s ((placeAddr p).1, (placeAddr p).2 + j)).isSome = true

/-- The slot issues a load that is performed on its die: of those performed before their instructions the ones there may not come before it
any more (11 R225; log 74). -/
def Sys2Proof.overEarly (s : State) : State := { s with slot := { s.slot with early := s.slot.early.filter fun e => !e.near } }

/-- The same, and it has used its entry of State.late, which says whether such a load is performed after its issue (11 R226; log 74). -/
def Sys2Proof.overLate (s : State) : State := { overEarly s with late := s.late.drop 1 }

/-- A load of `w` bytes at offset `off` of place `p` on the issuer's die reads one block of 64 bytes at once. Across a boundary it reads the lower
part first and waits, and then the other; `read j n` gives bytes `j` to `j + n - 1` of the access with their poison, `res` says what completes,
from the state `b` at the first attempt. It waits while an acquire whose scope reaches the place, or an atomic, is out (R212, R214; 04 R94; log
64, log 18). -/
def Sys2Proof.ReadsHere (s b : State) (p : Place) (off w : Nat) (read : Nat → Nat → List Byte × Bool)
    (res : State → List Byte → Bool → Out → Prop) (o : Out) : Prop :=
  (placeWaits s p w .load = false → noEntries s 1 = false → off % 64 + w ≤ 64 → res b (read 0 w).1 (read 0 w).2 o) ∧
  (placeWaits s p w .load = true ∨ noEntries s 1 = true → off % 64 + w ≤ 64 → Waits s o) ∧
  (placeWaits s p w .load = false → noEntries s 1 = false → 64 < off % 64 + w → s.slot.half = none →
    o = .next { b with stalled := true, slot := { b.slot with half := some (read 0 (64 - off % 64)) } }) ∧
  (∀ bs bad, 64 < off % 64 + w → s.slot.half = some (bs, bad) →
    let r := read (64 - off % 64) (w - (64 - off % 64))
    res s (bs ++ r.1) (bad || r.2) o)

/-- A translation that the host has refused traps ATS with the IOVA, and is asked for again by a later access (09 R203). -/
def Sys2Proof.Refused (s : State) (addr n : Nat) (o : Out) : Prop :=
  ∃ u, Traps u .ats (BitVec.ofNat 64 addr) o ∧ u = { s with hub := { s.hub with atc := u.hub.atc, atcOrder := u.hub.atcOrder } } ∧
    (∀ q ∈ pagesOf addr n, ∀ t, sfind u.hub.atc q = some t → t.page.isSome = true) ∧
    ∀ q, q ∉ pagesOf addr n → sfind u.hub.atc q = sfind s.hub.atc q

/-- What a translation makes of an access to host memory: it waits for a missing one, and traps at a refused one (R208). -/
def Sys2Proof.Translated (s : State) (p : Place) (n : Nat) (kind : Kind) (o : Out) : Prop :=
  ∀ k key, p = .mem 2 k key → (atsView s kind k n = .missing → Waits s o) ∧ (atsView s kind k n = .refused → Refused s k n o)

/-- A global load completes. From this core's pool and from memory of its own die the destination takes the bytes, sign-extended; poisoned bytes
that the slot does not supply itself mark it with the effective address; from elsewhere, and where State.late says so, its parts leave as requests
and the destination is awaited. A resolution that fails is the trap, and of this core's pool the checks of 04 R92 trap (R208 to R212, R214). The
model's choices: when a load of the own die is performed (log 13, log 74), poison of bytes that the slot supplies (log 65), what waits (log 18). -/
def Sys2Proof.globalLoadsClause : Prop :=
  ∀ (i : Instr) (d a : BitVec 5) (imm : Int) (w : Nat) (acq : Option Scope) (s : State), loadRow i = some (d, a, imm, w, acq) →
    XReady s a →
    let ea := xval s.slot a + BitVec.ofInt 64 imm
    (∀ c v, memBlocked s = false → noEntries s 1 = false → resolve s ea w .load = .error (c, v) → Traps s c v (exec i s)) ∧
    (∀ off, resolve s ea w .load = .ok (.pool s.cur.core off) → NoEarly s ea w acq →
      (lockHit s off w false = false → chansView s.slot off w = .pass → poolPoison s off w = false →
        ReadsHere s (overEarly s) (.pool s.cur.core off) off w (fun j n => (poolRead s n (off + j), false))
          (fun b bs _ => XResult b 4 d (loaded w bs) 0) (exec i s)) ∧
      (placeWaits s (.pool s.cur.core off) w .load = false → noEntries s 1 = false → secondPart s off w = false →
        Checked (overEarly s) ea off w false (exec i s))) ∧
    (∀ p, resolve s ea w .load = .ok p → (∀ off, p ≠ .pool s.cur.core off) → sameDie s p = true → NoEarly s ea w acq →
      (s.late.headD false = false ∨ OwnsByte s p w →
        ReadsHere s (overLate s) p (placeAddr p).2 w (fun j n => (underOwn s p j (partBytes s p j n), partBad s p j n)) (fun b bs bad o =>
          (bad = false → XResult b 4 d (loaded w bs) 0 o) ∧
          (bad = true → ∃ t, o = .next t ∧ Retires b t 4 ∧ Keeps b t (xDst s d) [] [] [] 0 ∧
            (d ≠ 0 → xval t.slot d = loaded w bs ∧ sfind t.slot.xPoison (xKey t.slot d) = some ea)))
          (exec i s)) ∧
      (s.late.headD false = true → ¬ OwnsByte s p w → placeWaits s p w .load = false → noEntries s 1 = false →
        secondPart s (placeAddr p).2 w = false → ∃ t, exec i s = .next t ∧ Retires s t 4 ∧ t.late = s.late.drop 1 ∧
          Requested s t (partsOf 64 (placeAddr p).2 w) p true (acq.getD .die) (if d = 0 then none else some (xKey s.slot d)) none)) ∧
    (∀ p unit, resolve s ea w .load = .ok p → sameDie s p = false → NoEarly s ea w acq → UnitIs s s.cur p w .load unit →
      (placeWaits s p w .load = true ∨ noEntries s 1 = true → Waits s (exec i s)) ∧
      (placeWaits s p w .load = false → noEntries s 1 = false → Translated s p w .load (exec i s) ∧
        ((∀ k key, p = .mem 2 k key → atsView s .load k w = .ready) →
          ∃ t, exec i s = .next t ∧ Retires s t 4 ∧ Requested s t (partsOf unit (placeAddr p).2 w) p (acq.isSome || unit == 64) (acq.getD .die)
            (if d = 0 then none else some (xKey s.slot d)) none)))

/-- Loads that are performed before their instructions issue (11 R226; log 74): the schedule performs one for a slot that runs, of memory of this
device which the slot may read, which is not poisoned and none of whose bytes the slot's own writes supply; a plain load at that address takes the
bytes. -/
def Sys2Proof.earlyLoadsClause : Prop :=
  (∀ (s : State) (p : Place), s.arg.canRead = true →
    let i := s.arg.slot
    let u := focus s i
    let a := BitVec.ofNat 64 s.arg.addr
    let w := s.arg.len
    resolve u a w .load = .ok p → (∀ b, p ≠ .peer b) → (∀ k key, p ≠ .mem 2 k key) → (∀ off, p ≠ .pool i.core off) →
    (∀ k key, p = .mem 1 k key → expanderFailed s k w = false) → w = 1 ∨ w = 2 ∨ w = 4 ∨ w = 8 → (getSlot s i).run = .running →
    (getSlot s i).gangSize = 1 → ¬ OwnsByte u p w → partBad u p 0 w = false → placeWaits u p w .load = false →
    ∃ t, exec .remoteAccessArrival s = .next t ∧ t.mem = s.mem ∧ t.net = s.net ∧
      getSlot t i = { getSlot s i with early := (getSlot s i).early ++ [⟨a, partBytes u p 0 w, sameDie u p⟩] }) ∧
  (∀ (d a : BitVec 5) (imm : BitVec 9) (sz : Size) (s : State) (p : Place) (e : EarlyLoad), XReady s a →
    let ea := xval s.slot a + BitVec.ofInt 64 imm.toInt
    let w := match sz with | .b => 1 | .h => 2 | .w => 4 | .d => 8
    resolve s ea w .load = .ok p → placeWaits s p w .load = false → noEntries s 1 = false → ¬ OwnsByte s p w →
    (∀ k key, p = .mem 2 k key → atsView s .load k w = .ready) → (sameDie s p = true → secondPart s (placeAddr p).2 w = false) →
    (s.slot.early.find? fun e => e.addr == ea && e.bytes.length == w) = some e →
    ∃ b, XResult b 4 d (loaded w e.bytes) 0 (exec (.ldG d a imm sz) s) ∧
      b = { s with slot := { s.slot with early := b.slot.early } } ∧ b.slot.early.Sublist (s.slot.early.erase e))

/-- A global store: the register stored, base, offset, bytes, and the scope of a release. -/
def Sys2Proof.storeRow : Instr → Option (BitVec 5 × BitVec 5 × Int × Nat × Option Scope)
  | .stG d a imm sz => some (d, a, imm.toInt, (match sz with | .b => 1 | .h => 2 | .w => 4 | .d => 8), none)
  | .stRel d a imm sz sc => some (d, a, imm.toInt, (match sz with | .b => 1 | .h => 2 | .w => 4 | .d => 8), some sc)
  | _ => none

/-- A global store completes. To this core's pool it enters the store buffer: the slot reads the stored bytes there and every other byte as
before; the checks of 04 R92 trap. To any other place it enters the hold area with its place, bytes and scope, under the selected group if the group
admits it, and else traps GROUP with its number; without room it traps HOLDFULL with its address. It waits while an acquire whose scope reaches the
place, or an atomic, is out (log 18). No byte of memory and no register changes (R210, R214, R215; 20 R319, R320; 21 R341). -/
def Sys2Proof.globalStoresClause : Prop :=
  ∀ (i : Instr) (d a : BitVec 5) (imm : Int) (w : Nat) (rel : Option Scope) (s : State), storeRow i = some (d, a, imm, w, rel) →
    XReady s d → XReady s a →
    let ea := xval s.slot a + BitVec.ofInt 64 imm
    let bytes := leBytes w (xval s.slot d).toNat
    (∀ c v, resolve s ea w .store = .error (c, v) → memBlocked s = false → Traps s c v (exec i s)) ∧
    (∀ p, resolve s ea w .store = .ok p → placeWaits s p w .store = true → Waits s (exec i s)) ∧
    (∀ off, resolve s ea w .store = .ok (.pool s.cur.core off) → placeWaits s (.pool s.cur.core off) w .store = false →
      Checked s ea off w true (exec i s) ∧
      (lockHit s off w true = false → chansView s.slot off w = .pass → storePoison s off w = false → copySourceBusy s off w = false →
        ∃ t, exec i s = .next t ∧ Retires s t 4 ∧ Control s { t with slot := { t.slot with storeBuf := s.slot.storeBuf } } ∧
          poolRead t w off = bytes ∧ (∀ b, b < off ∨ off + w ≤ b → poolRead t 1 b = poolRead s 1 b))) ∧
    (∀ p, resolve s ea w .store = .ok p → placeWaits s p w .store = false → Translated s p w .store (exec i s)) ∧
    (∀ p g, resolve s ea w .store = .ok p → placeWaits s p w .store = false → (∀ off, p ≠ .pool s.cur.core off) →
      (∀ k key, p = .mem 2 k key → atsView s .store k w = .ready) → s.slot.group = some g →
      groupOk (groupView s g) (bindKey s p) w = false → Traps s .group (BitVec.ofNat 64 g) (exec i s)) ∧
    (∀ p, resolve s ea w .store = .ok p → placeWaits s p w .store = false → (∀ off, p ≠ .pool s.cur.core off) →
      (∀ k key, p = .mem 2 k key → atsView s .store k w = .ready) →
      (∀ g, s.slot.group = some g → groupOk (groupView s g) (bindKey s p) w = true) →
      (holdUsed s.slot + 16 + 16 * ((w + 15) / 16) ≤ 4096 * partHold s.slot →
        ∃ t, exec i s = .next t ∧ Retires s t 4 ∧ t.slot.hold = s.slot.hold ++ [.store p ea bytes rel s.slot.group] ∧
          Control s { t with slot := { t.slot with hold := s.slot.hold } }) ∧
      (4096 * partHold s.slot < holdUsed s.slot + 16 + 16 * ((w + 15) / 16) → Traps s .holdfull ea (exec i s)))

/-- Global loads and stores. -/
def Obligations.GlobalMemory : Prop := globalLoadsClause ∧ earlyLoadsClause ∧ globalStoresClause

/-- An atomic: operation, destination, address register, operand register, size, `.ar`, scope, and whether its registers hold FP32 bits. -/
structure Sys2Proof.Atom where
  op : AtomOp
  d : BitVec 5
  a : BitVec 5
  b : BitVec 5
  sz : ASize
  ar : Bool
  sc : Scope
  fp : Bool := false

/-- The atomics of 10 R217. -/
def Sys2Proof.atomRow : Instr → Option Atom
  | .atomAdd d a b ar sz sc => some { op := .add, d := d, a := a, b := b, sz := sz, ar := ar, sc := sc }
  | .atomAnd d a b ar sz sc => some { op := .and, d := d, a := a, b := b, sz := sz, ar := ar, sc := sc }
  | .atomOr d a b ar sz sc => some { op := .or, d := d, a := a, b := b, sz := sz, ar := ar, sc := sc }
  | .atomXor d a b ar sz sc => some { op := .xor, d := d, a := a, b := b, sz := sz, ar := ar, sc := sc }
  | .atomMin d a b ar sz sc => some { op := .min, d := d, a := a, b := b, sz := sz, ar := ar, sc := sc }
  | .atomMax d a b ar sz sc => some { op := .max, d := d, a := a, b := b, sz := sz, ar := ar, sc := sc }
  | .atomMinu d a b ar sz sc => some { op := .minu, d := d, a := a, b := b, sz := sz, ar := ar, sc := sc }
  | .atomMaxu d a b ar sz sc => some { op := .maxu, d := d, a := a, b := b, sz := sz, ar := ar, sc := sc }
  | .atomSwap d a b ar sz sc => some { op := .swap, d := d, a := a, b := b, sz := sz, ar := ar, sc := sc }
  | .atomCas d a b ar sz sc => some { op := .cas, d := d, a := a, b := b, sz := sz, ar := ar, sc := sc }
  | .atomFaddS d a b ar sc => some { op := .faddS, d := d, a := a, b := b, sz := .w, ar := ar, sc := sc, fp := true }
  | .atomFminS d a b ar sc => some { op := .fminS, d := d, a := a, b := b, sz := .w, ar := ar, sc := sc, fp := true }
  | .atomFmaxS d a b ar sc => some { op := .fmaxS, d := d, a := a, b := b, sz := .w, ar := ar, sc := sc, fp := true }
  | _ => none

/-- Bytes of an atomic. -/
abbrev Sys2Proof.Atom.bytes (r : Atom) : Nat := match r.sz with | .w => 4 | .d => 8 | .q => 16

/-- A register operand: the low bytes of X(n), and for a pair X(n+1) above X(n). -/
def Sys2Proof.pairVal (s : State) (sz : ASize) (n : BitVec 5) : Nat :=
  match sz with
  | .w => (xval s.slot n).toNat % 2 ^ 32
  | .d => (xval s.slot n).toNat
  | .q => (xval s.slot n).toNat + 2 ^ 64 * (xval s.slot (n + 1)).toNat

/-- The new value of a place that held `old`; none where cas does not match (10 Table 10-5). -/
def Sys2Proof.atomResult (r : Atom) (old v expected : Nat) : Option Nat :=
  let w := 8 * r.bytes
  match r.op with
  | .add => some ((old + v) % 2 ^ w)
  | .and => some (old &&& v)
  | .or => some (old ||| v)
  | .xor => some (old ^^^ v)
  | .min => some (if sgn w old ≤ sgn w v then old else v)
  | .max => some (if sgn w old ≤ sgn w v then v else old)
  | .minu => some (Min.min old v)
  | .maxu => some (Max.max old v)
  | .swap => some v
  | .cas => if old = expected then some v else none
  | .faddS => some (fround fp32 .rne 0 (fplus (fdecode fp32 old) (fdecode fp32 v)))
  | .fminS => some (fmin2 fp32 old v)
  | .fmaxS => some (fmax2 fp32 old v)

/-- The registers of an atomic can be read. -/
def Sys2Proof.AtomReady (s : State) (r : Atom) : Prop :=
  XReady s r.a ∧ XReady s r.b ∧ (r.sz = .q → XReady s (r.b + 1)) ∧
    (r.op = .cas → XReady s r.d ∧ (r.sz = .q → XReady s (r.d + 1)))

/-- The address of an atomic: its low bits are ignored (10 R218). -/
def Sys2Proof.atomEa (s : State) (r : Atom) : Word := BitVec.ofNat 64 ((xval s.slot r.a).toNat / r.bytes * r.bytes)

/-- The host performs add and swap of 4 or 8 bytes and cas (10 Table 10-6). -/
abbrev Sys2Proof.HostDoes (r : Atom) : Prop := ((r.op = .add ∨ r.op = .swap) ∧ r.sz ≠ .q) ∨ r.op = .cas

/-- Where an atomic goes on: at place `p`, in host memory one that the host performs and whose page is translated, with the region closed and
earlier accesses ordered (R208, R218, R219). -/
def Sys2Proof.AtomOk (s : State) (r : Atom) (p : Place) : Prop :=
  memBlocked s = false ∧ resolve s (atomEa s r) r.bytes .atomic = .ok p ∧
    (∀ k key, p = .mem 2 k key → HostDoes r ∧ atsView s .atomic k r.bytes = .ready) ∧
    (∀ off, p = .pool s.cur.core off → lockHit s off r.bytes true = false ∧ lockHit s off r.bytes false = false ∧
      chansView s.slot off r.bytes = .pass ∧ poolPoison s off r.bytes = false) ∧
    CanClose s ∧ (if r.ar then relPassed s r.sc = true else s.slot.storeBuf = [] ∧ s.slot.pending = [])

/-- An atomic on its own die completes: the place takes the new value, or stays where cas does not match; the destination, or its pair, takes the
old value, sign-extended from 32 bits for .w and with zeros above FP32 bits, and a write to x0 is discarded; every other byte reads as before,
and a region opens behind; a poisoned place stays, and marks the destination. Elsewhere, in host memory too, or at a cellar's intake or doorbell that
cannot take it now, a request leaves with the operands and the destination is awaited (R217 to R219; 20 R317; 23 R365). That one on its own die is
performed as it issues is the model's choice (log 13). -/
def Sys2Proof.atomicsClause : Prop :=
  ∀ (i : Instr) (r : Atom) (s : State) (p : Place), atomRow i = some r → AtomReady s r → AtomOk s r p →
    (sameDie s p = true → placeBlocked s p r.bytes = false → s.mem.poisoned (placeKey p).1 = false →
      (placeKey p).1 % r.bytes = 0 →
      let k := (placeKey p).1
      let key := (placeKey p).2
      let old := leNat (s.mem.read key r.bytes k)
      ∃ t, exec i s = .next t ∧ Boundary s t 4 ∧
        t.mem.read key r.bytes k = leBytes r.bytes ((atomResult r old (pairVal s r.sz r.b) (pairVal s r.sz r.d)).getD old) ∧
        (∀ j, j < k ∨ k + r.bytes ≤ j → t.mem.byte j key = s.mem.byte j key) ∧
        (∀ j key', j / 64 ≠ k / 64 → t.mem.byte j key' = s.mem.byte j key') ∧
        (r.sz ≠ .q → r.d ≠ 0 → xval t.slot r.d = if r.sz = .w ∧ r.fp = false then loaded 4 (leBytes 4 old) else BitVec.ofNat 64 old) ∧
        (r.sz = .q → (r.d ≠ 0 → xval t.slot r.d = BitVec.ofNat 64 old) ∧
          (r.d + 1 ≠ 0 → xval t.slot (r.d + 1) = BitVec.ofNat 64 (old / 2 ^ 64))) ∧
        (∀ n, n ≠ r.d → (r.sz = .q → n ≠ r.d + 1) → xval t.slot n = xval s.slot n ∧
          sfind t.slot.xPoison (xKey s.slot n) = sfind s.slot.xPoison (xKey s.slot n)) ∧
        t.slot.f = s.slot.f ∧ t.slot.v = s.slot.v ∧ t.slot.m = s.slot.m) ∧
    (sameDie s p = true → placeBlocked s p r.bytes = false → s.mem.poisoned (placeKey p).1 = true →
      ∃ t, exec i s = .next t ∧ Boundary s t 4 ∧ t.mem = s.mem ∧
        (r.d ≠ 0 → sfind t.slot.xPoison (xKey t.slot r.d) = some (atomEa s r)) ∧
        (r.sz = .q → r.d + 1 ≠ 0 → sfind t.slot.xPoison (xKey t.slot (r.d + 1)) = some (atomEa s r)) ∧
        (∀ n, n ≠ r.d → (r.sz = .q → n ≠ r.d + 1) → xval t.slot n = xval s.slot n) ∧
        t.slot.f = s.slot.f ∧ t.slot.v = s.slot.v ∧ t.slot.m = s.slot.m) ∧
    (sameDie s p = false ∨ placeBlocked s p r.bytes = true → loadEntries s s.cur.core < 256 →
      ∃ t c, exec i s = .next t ∧ Boundary s t 4 ∧ Requested s t [(0, c)] p true .sys (if r.d = 0 then none else some (xKey s.slot r.d))
          (if r.sz ≠ .q ∨ r.d + 1 = 0 then none else some (xKey s.slot (r.d + 1))) ∧
        ∃ dv bv, c = .atomic r.op r.sz dv bv ∧ bv % 2 ^ (8 * r.bytes) = pairVal s r.sz r.b ∧
          (r.op = .cas → dv % 2 ^ (8 * r.bytes) = pairVal s r.sz r.d))

/-- An atomic meets a range lock, an address that no extent covers or that lacks the atomic right, an operation that the host does not perform, or a
page that the host refuses, in a trap before any effect, and waits for a page (R208, R218; 10 Table 10-6). -/
def Sys2Proof.atomicTrapsClause : Prop :=
  ∀ (i : Instr) (r : Atom) (s : State), atomRow i = some r → AtomReady s r → memBlocked s = false →
    (∀ c v, resolve s (atomEa s r) r.bytes .atomic = .error (c, v) → Traps s c v (exec i s)) ∧
    (∀ off, resolve s (atomEa s r) r.bytes .atomic = .ok (.pool s.cur.core off) → lockHit s off r.bytes true = true →
      Traps s .range (atomEa s r) (exec i s)) ∧
    (∀ k key, resolve s (atomEa s r) r.bytes .atomic = .ok (.mem 2 k key) → ¬ HostDoes r → Traps s .rights (atomEa s r) (exec i s)) ∧
    (∀ p, resolve s (atomEa s r) r.bytes .atomic = .ok p → HostDoes r → Translated s p r.bytes .atomic (exec i s))

/-- Atomics, and where they trap. -/
def Obligations.Atomics : Prop := atomicsClause ∧ atomicTrapsClause

/-! ### The matrix engine and its formats (15 R249 to R260; 16; 17) -/

/-- A matrix command as it issues: tile, x registers, ranges that it locks, what the engine is given, the tile that becomes busy. -/
structure Sys2Proof.Issue where
  tile : Nat
  need : List (BitVec 5)
  rs : List MRange
  cmd : MCmd
  busy : Bool
  aligned : Prop

/-- 16 Table 16-2, 17 R275, R277 to R279: tile, ranges and captured operands of each command. -/
def Sys2Proof.matrixRow (s : State) : Instr → Option Issue
  | .mmaLo a b f n p => some (mma a b f n.toNat p)
  | .mmaHi a b f n p => some (mma a b f (32 + n.toNat) p)
  | .mclr n => some { tile := n.toNat, need := [], rs := [], cmd := .mclr n.toNat, busy := true, aligned := True }
  | .mld n a ty => some { rows n.toNat a ty false with
      cmd := .mld n.toNat ((xval s.slot a).toNat % 2 ^ 19) s.slot.cstride ty, busy := true }
  | .mst n a ty rnd => some { rows n.toNat a ty true with
      cmd := .mst n.toNat ((xval s.slot a).toNat % 2 ^ 19) s.slot.cstride ty rnd s.slot.draws, busy := false }
  | _ => none
where
  mma (a b f : BitVec 5) (tile : Nat) (p : Pair) : Issue :=
    let x := xval s.slot a
    let y := xval s.slot b
    { tile := tile, need := [a, b], busy := true, aligned := x.toNat % 16 = 0 ∧ y.toNat % 16 = 0
      rs := [⟨x, 15 * s.slot.astride + 48, false⟩, ⟨y, 15 * s.slot.bstride + 48, false⟩]
      cmd := .mma tile (x.toNat % 2 ^ 19) (y.toNat % 2 ^ 19) s.slot.astride s.slot.bstride (fval s.slot f) p }
  rows (tile : Nat) (a : BitVec 5) (ty : MType) (store : Bool) : Issue :=
    { tile := tile, need := [a], busy := false, cmd := .mclr tile
      aligned := (xval s.slot a).toNat % 16 = 0 ∧ rowBytes ty ≤ s.slot.cstride
      rs := [⟨xval s.slot a, 15 * s.slot.cstride + rowBytes ty, store⟩] }

/-- The slot's queue of two has room: an entry that the engine took in this cycle is room from the next on (16 R261, Table 16-6). -/
abbrev Sys2Proof.QueueRoom (s : State) : Prop :=
  s.slot.mxQueue.length + (if s.slot.mxFreed = some (dieCycles s (dieOf s.cur.core)) then 1 else 0) < 2

/-- The tile exists, holds no spilled registers, and the slot's queue has room (16 Table 16-3 steps 1 and 2). -/
abbrev Sys2Proof.TileOk (s : State) (tile : Nat) : Prop :=
  QueueRoom s ∧ s.cur.slot ≠ 4 ∧ tile < tileCount s.slot ∧ holdsSpill s.slot tile = false

/-- Steps 4 to 9 of 16 Table 16-3 pass on all ranges. -/
abbrev Sys2Proof.RangesOk (s : State) (rs : List MRange) : Prop :=
  (coreOf s s.cur.core).locks.length + rs.length ≤ 32 ∧ ∀ r ∈ rs,
    (localOff s r.ea r.n).isSome = true ∧ lockClash s r = none ∧ chansView s.slot (rangeOff r) r.n = .pass ∧
    (r.result = false → firstPoison s r = none) ∧ bufOverlap s.slot (rangeOff r) r.n = false ∧
    (r.result = true → copySourceBusy s (rangeOff r) r.n = false)

/-- A matrix command that passes its checks completes at issue: it enters the slot's queue with what it captured, each of its ranges is locked
under its number, the tile is busy but for mst, and no register, tile or byte of memory changes. mma, mclr and mld are boundaries; mst
takes 256 draws under .rsr (16 R266, R267; 17 R275 to R280; 20 R317). -/
def Sys2Proof.matrixCommandsClause : Prop :=
  ∀ (i : Instr) (c : Issue) (s : State), matrixRow s i = some c → (∀ n ∈ c.need, XReady s n) → c.aligned → TileOk s c.tile →
    (c.rs ≠ [] → RangesOk s c.rs) → (c.busy = true → CanClose s) →
    ∃ t e, exec i s = .next t ∧ Retires s t 4 ∧ (c.busy = true → Reopened s t) ∧ (c.busy = false → t.slot.region = s.slot.region) ∧
      t.slot.mxQueue = s.slot.mxQueue ++ [e] ∧ e.id = s.fresh ∧ e.slot = s.cur.slot ∧ e.cmd = c.cmd ∧ t.fresh = s.fresh + 1 ∧
      (coreOf t s.cur.core).locks = (coreOf s s.cur.core).locks ++
        c.rs.map (fun r => ⟨s.fresh, s.cur.slot, rangeOff r, rangeOff r + r.n, r.result⟩) ∧
      (c.busy = true → sget false t.slot.busyTiles c.tile = true) ∧ (c.busy = false → t.slot.busyTiles = s.slot.busyTiles) ∧
      t.mem = s.mem ∧ t.slot.tiles = s.slot.tiles ∧ t.slot.x = s.slot.x ∧ t.slot.f = s.slot.f ∧ t.slot.v = s.slot.v ∧
      t.slot.m = s.slot.m ∧
      t.slot.draws = s.slot.draws + (match i with | .mst _ _ _ .rsr => 256 | _ => 0)

/-- A matrix command waits while its slot's queue has no room, whatever its registers hold. On a tile that does not exist, or from the service slot,
it traps ENGINE with the tile and reason 1; on a tile that holds spilled registers it traps WINDOW with 0x100 plus the tile (16 R261, Table 16-3
steps 1, 2; 01 R17; 06 R121). -/
def Sys2Proof.matrixTileTrapsClause : Prop :=
  (∀ (i : Instr) (c : Issue) (s : State), matrixRow s i = some c → ¬ QueueRoom s → Waits s (exec i s)) ∧
  ∀ (i : Instr) (c : Issue) (s : State), matrixRow s i = some c → (∀ n ∈ c.need, XReady s n) → QueueRoom s →
    (s.cur.slot = 4 ∨ tileCount s.slot ≤ c.tile → Traps s .engine (BitVec.ofNat 64 (2 ^ 8 * c.tile + 1)) (exec i s)) ∧
    (s.cur.slot ≠ 4 → c.tile < tileCount s.slot → holdsSpill s.slot c.tile = true →
      Traps s .window (BitVec.ofNat 64 (0x100 + c.tile)) (exec i s))

/-- A stride that mcfg takes for rows of A and B: 0, or a multiple of 16 from 48 to 65,520; for tile rows a multiple of 16 from 32 on (16 Table
16-1). -/
abbrev Sys2Proof.strideOk (n v : Nat) : Prop := (n ≤ 1 ∧ v = 0) ∨ (v % 16 = 0 ∧ (if n ≤ 1 then 48 else 32) ≤ v ∧ v ≤ 65520)

/-- mcfg writes the engine register that n names and nothing else; a bad value traps ENGINE with reason 4, a bad number or the service slot with
reason 3 (16 R263, R264). -/
def Sys2Proof.engineRegistersClause : Prop :=
  ∀ (a n : BitVec 5) (s : State), XReady s a →
    (s.cur.slot ≠ 4 → n.toNat ≤ 2 → strideOk n.toNat (xval s.slot a).toNat →
      ∃ t, exec (.mcfg a n) s = .next t ∧ Retires s t 4 ∧
        t.slot.astride = (if n.toNat = 0 then (xval s.slot a).toNat else s.slot.astride) ∧
        t.slot.bstride = (if n.toNat = 1 then (xval s.slot a).toNat else s.slot.bstride) ∧
        t.slot.cstride = (if n.toNat = 2 then (xval s.slot a).toNat else s.slot.cstride) ∧
        Control s { t with slot := { t.slot with
          astride := s.slot.astride, bstride := s.slot.bstride, cstride := s.slot.cstride } }) ∧
    (s.cur.slot ≠ 4 → n.toNat ≤ 2 → ¬ strideOk n.toNat (xval s.slot a).toNat →
      Traps s .engine (BitVec.ofNat 64 (2 ^ 8 * n.toNat + 4)) (exec (.mcfg a n) s)) ∧
    (s.cur.slot = 4 ∨ 2 < n.toNat → Traps s .engine (BitVec.ofNat 64 (2 ^ 8 * n.toNat + 3)) (exec (.mcfg a n) s))

/-- Matrix commands at issue, where they trap, and the engine's registers. -/
def Obligations.MatrixCommands : Prop := matrixCommandsClause ∧ matrixTileTrapsClause ∧ engineRegistersClause

/-- A command meets poison: in the rows that it read, on the tile that mma changes or mst stores, or in what became poisoned since its checks (16
R269). That mma and mst count a tile marked before their checks too is the model's choice (log 72). -/
def Sys2Proof.meetsPoison (s : State) (id : SlotId) (e : MEntry) (bad : Bool) : Bool :=
  let tile := sget false (getSlot s id).poisonTiles (cmdTile e.cmd)
  match e.cmd with
  | .mma _ _ _ _ _ _ _ => bad || e.struck || tile
  | .mclr _ => e.struck
  | .mld _ _ _ _ => bad || e.struck
  | .mst _ _ _ _ _ _ => tile || e.struck

/-- A command in the engine after another has retired: an mst that met poison strikes those that write a granule of its rows or have still to read
one (16 R269). -/
def Sys2Proof.strickenBy (c : CoreId) (e : MEntry) (poison : Bool) (x : MEntry) : MEntry :=
  match e.cmd with
  | .mst _ _ _ _ _ _ => if poison && meetsGranule c (resultGranules c e.cmd) x then { x with struck := true } else x
  | _ => x

/-- The tile's element (i, j) after a command that writes its tile and meets no poison (17 R275, R277, R278). -/
def Sys2Proof.tileAfter (l : Slot) (rows : List Nat) (i j : Nat) : MCmd → BitVec 32
  | .mma t _ _ _ _ scales pair => BitVec.ofNat 32 (matrixElement (tileWord l t i j).toNat
      (rowElems (pairElems pair).1 (rows.getD i 0)) (rowElems (pairElems pair).2 (rows.getD (16 + j) 0))
      (bits scales.toNat 32 32) (bits scales.toNat 0 32) pair)
  | .mclr _ => 0
  | .mld _ _ _ ty => loadElem ty (rows.getD i 0) j
  | .mst t _ _ _ _ _ => tileWord l t i j

/-- The engine starts the first command of the slot whose turn it is: it leaves the queue and is in the engine from now on, and the commands in
the engine have read their operands. It retires the oldest command of a slot whose time has come: its locks go, its tile takes the result, or
all elements the canonical NaN where poison was met, which counts a soft error; mst writes its rows to the pool and no other byte, and where
poison was met every granule that it writes is marked (16 R268, R269; 17 R275 to R279). That a command's bytes are all read together, at the next
start or at its own retirement, and that mst's are all written then, is the model's choice (log 80). -/
def Obligations.EngineRuns : Prop :=
  (∀ (s : State) (j : Nat) (e : MEntry) (rest : List MEntry), mxStartable s s.arg.core = some j →
    (getSlot s ⟨s.arg.core, j⟩).mxQueue = e :: rest →
    ∃ t, exec .engineCommandStart s = .next t ∧ (getSlot t ⟨s.arg.core, j⟩).mxQueue = rest ∧ t.mem = s.mem ∧
      (coreOf t s.arg.core).mxLast = j ∧
      (coreOf t s.arg.core).mxRun.map (fun x => x.id) = (coreOf s s.arg.core).mxRun.map (fun x => x.id) ++ [e.id] ∧
      (∀ x ∈ (coreOf t s.arg.core).mxRun, x.id ≠ e.id → x.rows.isSome = true)) ∧
  (∀ (s : State) (e : MEntry) (rows : List Nat) (bad : Bool),
    mxDue (dieCycles s (dieOf s.arg.core)) [] (coreOf s s.arg.core).mxRun = some e →
    e.rows.getD (cmdRows s s.arg.core e.cmd) = (rows, bad) → rows.length = (match e.cmd with | .mma _ _ _ _ _ _ _ => 32 | .mld _ _ _ _ => 16 | _ => 0) →
    let id : SlotId := ⟨s.arg.core, e.slot⟩
    let poison := meetsPoison s id e bad
    ∃ t, exec .engineCommandRetire s = .next t ∧
      (coreOf t s.arg.core).mxRun =
        ((coreOf s s.arg.core).mxRun.filter (fun x => x.id != e.id)).map (strickenBy s.arg.core e poison) ∧
      (coreOf t s.arg.core).locks = (coreOf s s.arg.core).locks.filter (fun x => x.cmd != e.id) ∧
      (∀ i j, i < 16 → j < 16 → tileWord (getSlot t id) (cmdTile e.cmd) i j =
        match e.cmd with
        | .mst tile _ _ _ _ _ => tileWord (getSlot s id) tile i j
        | _ => if poison then 0x7FC00000 else tileAfter (getSlot s id) rows i j e.cmd) ∧
      (∀ n i j, i < 16 → j < 16 → n ≠ cmdTile e.cmd → tileWord (getSlot t id) n i j = tileWord (getSlot s id) n i j) ∧
      (dieAt t (dieOf s.arg.core)).softerr =
        (dieAt s (dieOf s.arg.core)).softerr + (if poison then 1 else 0) ∧
      (match e.cmd with
        | .mst tile xa cs ty rnd counter => xa + 15 * cs + rowBytes ty ≤ 2 ^ 19 → rowBytes ty ≤ cs →
            (∀ i, i < 16 → t.mem.raws (rowBytes ty) (poolKey s.arg.core (xa + i * cs)) =
              (List.range 16).flatMap fun j => storeElem (focus s id) (getSlot s id) tile ty rnd counter i j) ∧
            (∀ k, (∀ i b, i < 16 → b < rowBytes ty → k ≠ poolKey s.arg.core (xa + i * cs + b)) → t.mem.raw k = s.mem.raw k) ∧
            (poison = true → ∀ i b, i < 16 → b < rowBytes ty → t.mem.poisoned (poolKey s.arg.core (xa + i * cs + b)) = true)
        | _ => t.mem = s.mem))

/-- The result of one output element does not depend on the order of its products (15 R255). -/
def Obligations.DotProductOrder : Prop :=
  ∀ (c sA sB : Nat) (p : Pair) (as bs as' bs' : List FVal), (List.zip as bs).Perm (List.zip as' bs') →
    matrixElement c as bs sA sB p = matrixElement c as' bs' sA sB p

/-- The formats of vpack. -/
def Sys2Proof.packRow : Instr → Option (Elem × BitVec 5 × BitVec 5 × BitVec 5 × Rnd)
  | .vpackM8 d a b r => some (.m8, d, a, b, r)
  | .vpackE43 d a b r => some (.e43, d, a, b, r)
  | .vpackE52 d a b r => some (.e52, d, a, b, r)
  | .vpackE23 d a b r => some (.e23, d, a, b, r)
  | .vpackE32 d a b r => some (.e32, d, a, b, r)
  | .vpackE21 d a b r => some (.e21, d, a, b, r)
  | .vpackI8 d a b r => some (.i8, d, a, b, r)
  | _ => none

/-- T of a packing target (17 Table 17-5). -/
def Sys2Proof.packTarget : Elem → Int
  | .m8 => 4 | .e43 => 8 | .e52 => 15 | .e23 => 2 | .e32 => 4 | .e21 => 2 | .i8 => 6
  | _ => 0

/-- The exponent of the scale (17 R282): of the magnitude in the low half of fb, floor(log2) less T and not below -126; 0 for zero, infinity and
NaN. -/
def Sys2Proof.scalesAsTable : Prop :=
  ∀ (e : Elem) (b : Nat), e ≠ .bf → e ≠ .h →
    (∀ q, ratOf fp32 (b % 2 ^ 31) = some q → q ≠ 0 →
      ∃ k : Int, (2 : ℚ) ^ k ≤ q ∧ q < (2 : ℚ) ^ (k + 1) ∧ packExp e b = Max.max (k - packTarget e) (-126)) ∧
    (ratOf fp32 (b % 2 ^ 31) = none ∨ ratOf fp32 (b % 2 ^ 31) = some 0 → packExp e b = 0)

/-- vpack completes: the sixteen FP32 lanes of va, each divided by the power of two of the scale and narrowed, become the top sixteen elements of
the 384 bits of vd, the older ones move down by their width, and fb takes the scale in its upper half and keeps its lower half; nothing else
changes (17 R282 to R284; 15 R257). -/
def Obligations.Packing : Prop :=
  scalesAsTable ∧ ∀ (i : Instr) (e : Elem) (d a b : BitVec 5) (rnd : Rnd) (s : State), packRow i = some (e, d, a, b, rnd) →
    let x := packExp e (fval s.slot b).toNat
    let g := 16 * elemBits e
    ∃ t, exec i s = .next t ∧ Retires s t 4 ∧ Keeps s t [] [b.toNat] [d.toNat] [] (if rnd = .rsr then 16 else 0) ∧
      (∀ k, k < 16 → (vval t.slot d).toNat / 2 ^ (384 - g + elemBits e * k) % 2 ^ elemBits e =
        narrow e rnd (drawOf rnd s k) (scaleBy x (fdecode fp32 (lane 32 (vval s.slot a) k))) % 2 ^ elemBits e) ∧
      (vval t.slot d).toNat % 2 ^ (384 - g) = (vval s.slot d).toNat % 2 ^ 384 / 2 ^ g ∧ (vval t.slot d).toNat < 2 ^ 384 ∧
      fval t.slot b = BitVec.ofNat 64 ((x + 127).toNat * 2 ^ 55 + (fval s.slot b).toNat % 2 ^ 32)

/-- A code of a format that stands for a finite number `v` in magnitude, on the side of sign `neg`; the one zero of INT8 lies on both. -/
def Sys2Proof.Stands (e : Elem) (neg : Bool) (code : Nat) (v : ℚ) : Prop :=
  code < 2 ^ elemBits e ∧ ∃ n m k, decodeElem e code = .fin n m k ∧ v = m * (2 : ℚ) ^ k ∧ (n = neg ∨ (e = .i8 ∧ m = 0))

/-- 15 Table 15-5: the choice between the codes `lo` and `hi` of the magnitudes `x` and `y` for a magnitude `v` between them. -/
def Sys2Proof.ChosenOf (mode : Rnd) (draw lo hi : Nat) (x y v : ℚ) (r : Nat) : Prop :=
  match mode with
  | .rtz => r = lo
  | .rto => r = if lo % 2 = 1 then lo else hi
  | .rne => (v - x < y - v → r = lo) ∧ (y - v < v - x → r = hi) ∧ (v - x = y - v → r = if lo % 2 = 0 then lo else if hi % 2 = 0 then hi else lo)
  | .rsr => r = if 2 ^ 16 ≤ ⌊2 ^ 16 * (v - x) / (y - x)⌋₊ + draw then hi else lo

/-- Narrowing of a finite number into a format of 15 Table 15-2: between two neighbours Table 15-5 chooses, beyond the largest magnitude of its sign
that one results, zero keeps its sign; an infinity gives the largest magnitude, and in E5M2 the infinity; a NaN gives the format's NaN, or 0 (15
R257). -/
def Sys2Proof.narrowsAsTable : Prop :=
  ∀ (e : Elem) (mode : Rnd) (draw : Nat), e ≠ .bf → e ≠ .h → draw < 2 ^ 16 →
    (∀ (neg : Bool) (m : Nat) (k : Int) (lo hi : Nat) (x y : ℚ), Stands e neg lo x → Stands e neg hi y →
      x < m * (2 : ℚ) ^ k → m * (2 : ℚ) ^ k < y → (∀ c z, Stands e neg c z → z ≤ x ∨ y ≤ z) →
      ChosenOf mode draw lo hi x y (m * (2 : ℚ) ^ k) (narrow e mode draw (.fin neg m k))) ∧
    (∀ (neg : Bool) (m : Nat) (k : Int) (top : Nat) (x : ℚ), Stands e neg top x → (∀ c z, Stands e neg c z → z ≤ x) →
      (x ≤ m * (2 : ℚ) ^ k → narrow e mode draw (.fin neg m k) = top) ∧ (e ≠ .e52 → narrow e mode draw (.inf neg) = top)) ∧
    (∀ (neg : Bool) (k : Int), Stands e neg (narrow e mode draw (.fin neg 0 k)) 0) ∧
    (∀ neg : Bool, decodeElem .e52 (narrow .e52 mode draw (.inf neg)) = .inf neg) ∧
    narrow e mode draw .nan = (match e with | .m8 => 0xC0 | .e43 | .e52 => 0x7F | _ => 0)

/-- Narrowing: a value that a format of 15 Table 15-2 holds is converted to itself in every mode, a finite value never leaves the format's
range, and every other value goes as Table 15-5 and the rules beside it say (15 R257). -/
def Obligations.NarrowIsExact : Prop :=
  narrowsAsTable ∧
  ∀ (e : Elem) (mode : Rnd) (draw : Nat), e ≠ .bf → e ≠ .h → draw < 2 ^ 16 →
    (∀ (neg : Bool) (m : Nat) (k : Int), ∃ n m' k', decodeElem e (narrow e mode draw (.fin neg m k)) = .fin n m' k') ∧
    (∀ (code : Nat) (neg : Bool) (m : Nat) (k : Int), code < 2 ^ elemBits e → decodeElem e code = .fin neg m k → m ≠ 0 →
      narrow e mode draw (.fin neg m k) = code)

/-! ### Copies, channels and subscriptions at issue (18 R286 to R307) -/

/-- A task slot's copy command that passes every check of 18 Table 18-6 and waits for nothing. -/
abbrev Sys2Proof.CopyOk (s : State) (form : CopyForm) (ch : Nat) (dst src : Word) : Prop :=
  let c := chanAt s.slot ch
  let n := postedBytes form dst s.slot.geom
  s.cur.slot ≠ 4 ∧ c.state ≠ .faulted ∧ c.state ≠ .sub ∧ copyShape form dst s.slot.geom = none ∧
    (∀ a ∈ (if form = .mc then [src] else [dst, src]), absentPeer s a = none ∧ fieldsOk a = true) ∧
    copyGroupFails s form dst n = none ∧ ((copyGroup s form).isSome = true → holdUsed s.slot + 16 ≤ 4096 * partHold s.slot) ∧
    memBlocked s = false ∧ verdictPending s = false ∧ s.slot.cpQueue.length < 2 ∧ c.expected - c.arrived + n ≤ 0xFFFFFFFF ∧
    ∀ r ∈ localRows s s.cur.core src s.slot.geom, bufOverlap s.slot r.2.1 (r.2.2 + if form = .dec then 16 else 0) = false ∧
      (form ≠ .dec → ∀ l ∈ (coreOf s s.cur.core).locks, l.result = true → overlaps r.2.1 r.2.2 l.lo (l.hi - l.lo) = false)

/-- The copy commands with their forms and operands. -/
def Sys2Proof.copyRow : Instr → Option (CopyForm × BitVec 5 × BitVec 5 × BitVec 4)
  | .cp a b ch => some (.cp, a, b, ch)
  | .cpMc a b ch => some (.mc, a, b, ch)
  | .cpDec a b ch => some (.dec, a, b, ch)
  | _ => none

/-- A copy command that passes its checks completes at issue: it enters the queue with destination, source and geometry, its bytes are posted to
the channel, which becomes ACTIVE, and the posting of a counted copy is held at 16 bytes; no register and no byte of memory changes. cp.dec
is a boundary, and is never counted in a group (R297 to R299, R302; 20 R317). -/
def Sys2Proof.copyCommandsClause : Prop :=
  ∀ (i : Instr) (form : CopyForm) (a b : BitVec 5) (ch : BitVec 4) (s : State), copyRow i = some (form, a, b, ch) →
    XReady s a → XReady s b → CopyOk s form ch.toNat (xval s.slot a) (xval s.slot b) → (form = .dec → CanClose s) →
    let n := if form = .mc then (coreSet (xval s.slot a)).length * (s.slot.geom.xlen * s.slot.geom.ycnt * s.slot.geom.zcnt)
      else s.slot.geom.xlen * s.slot.geom.ycnt * s.slot.geom.zcnt
    let g := if form = .dec then none else s.slot.group
    ∃ t k, exec i s = .next t ∧ Retires s t 4 ∧ (form = .dec → Reopened s t) ∧ t.mem = s.mem ∧
      t.slot.x = s.slot.x ∧ t.slot.f = s.slot.f ∧ t.slot.v = s.slot.v ∧ t.slot.m = s.slot.m ∧
      t.slot.cpQueue = s.slot.cpQueue ++ [k] ∧ k.id = s.fresh ∧ k.form = form ∧ k.ch = ch.toNat ∧ k.dst = xval s.slot a ∧
      k.src = xval s.slot b ∧ k.geom = s.slot.geom ∧ k.group = g ∧ t.fresh = s.fresh + 1 ∧
      chanAt t.slot ch.toNat = { chanAt s.slot ch.toNat with
        expected := (chanAt s.slot ch.toNat).expected + n, state := .active } ∧
      (∀ c, c ≠ ch.toNat → chanAt t.slot c = chanAt s.slot c) ∧
      t.slot.hold = s.slot.hold ++ (match g with | some g => [.posting g s.fresh n] | none => [])

/-- Copy commands in the service slot trap ENGINE with unit 1 and reason 0x0B; on a faulted channel COPYFAULT with its number; on a channel of a
subscription ENGINE with the channel and reason 6; all before any effect (R287, R289, Table 18-6). -/
def Sys2Proof.copyTrapsClause : Prop :=
  ∀ (i : Instr) (form : CopyForm) (a b : BitVec 5) (ch : BitVec 4) (s : State), copyRow i = some (form, a, b, ch) →
    XReady s a → XReady s b →
    (s.cur.slot = 4 → Traps s .engine (BitVec.ofNat 64 (2 ^ 56 + 0x0B)) (exec i s)) ∧
    (s.cur.slot ≠ 4 → (chanAt s.slot ch.toNat).state = .faulted → Traps s .copyfault (BitVec.ofNat 64 ch.toNat) (exec i s)) ∧
    (s.cur.slot ≠ 4 → (chanAt s.slot ch.toNat).state = .sub →
      Traps s .engine (BitVec.ofNat 64 (2 ^ 56 + 2 ^ 8 * ch.toNat + 6)) (exec i s))

/-- Copy commands at issue, and where they trap. -/
def Obligations.CopyCommands : Prop := copyCommandsClause ∧ copyTrapsClause

/-- cpcfg: the geometry after a valid write of register n (18 Table 18-2). -/
def Sys2Proof.geometryAfter (g : Geometry) (n x : Nat) : Geometry :=
  match n with
  | 0 => { g with xlen := x }
  | 1 => { g with zcnt := x / 2 ^ 16, ycnt := x % 2 ^ 16 }
  | 2 => { g with sstride := BitVec.ofNat 48 x }
  | 3 => { g with spstride := BitVec.ofNat 48 x }
  | 4 => { g with dstride := BitVec.ofNat 48 x }
  | 5 => { g with dpstride := BitVec.ofNat 48 x }
  | 6 => { g with decstream := BitVec.ofNat 32 x }
  | _ => { g with decseq := BitVec.ofNat 64 x }

/-- The values that register n takes (18 Table 18-2). -/
def Sys2Proof.geometryOk (n x : Nat) : Prop :=
  match n with
  | 0 => x ≠ 0 ∧ x < 2 ^ 24
  | 1 => x < 2 ^ 32 ∧ x / 2 ^ 16 ≠ 0 ∧ x % 2 ^ 16 ≠ 0
  | 2 | 3 | 4 | 5 => x < 2 ^ 48
  | 6 => x < 2 ^ 32
  | _ => x % 8 = 0

/-- The other copy instructions at issue: cpcfg writes one geometry register or traps; chq reports the channel and never waits; waitc goes on at a
COMPLETE channel, waits at an active one and traps COPYFAULT at a faulted one (R288, R289, R294, R295). -/
def Sys2Proof.channelQueriesClause : Prop :=
  (∀ (a n : BitVec 5) (s : State), XReady s a → s.cur.slot ≠ 4 →
    (n.toNat < 8 → geometryOk n.toNat (xval s.slot a).toNat → ∃ t, exec (.cpcfg a n) s = .next t ∧ Retires s t 4 ∧
      t.slot.geom = geometryAfter s.slot.geom n.toNat (xval s.slot a).toNat ∧
      Control s { t with slot := { t.slot with geom := s.slot.geom } }) ∧
    (n.toNat < 8 → ¬ geometryOk n.toNat (xval s.slot a).toNat →
      Traps s .engine (BitVec.ofNat 64 (2 ^ 56 + 2 ^ 8 * n.toNat + 4)) (exec (.cpcfg a n) s)) ∧
    (8 ≤ n.toNat → Traps s .engine (BitVec.ofNat 64 (2 ^ 56 + 2 ^ 8 * n.toNat + 3)) (exec (.cpcfg a n) s))) ∧
  (∀ (d : BitVec 5) (ch : BitVec 4) (s : State), s.cur.slot ≠ 4 →
    let c := chanAt s.slot ch.toNat
    ∃ v, XResult s 4 d (BitVec.ofNat 64 v) 0 (exec (.chq d ch) s) ∧
      (c.length < 2 ^ 20 → c.state ≠ .faulted →
        v / 2 ^ 60 = (match c.state with | .complete => 0 | .active => 1 | .faulted => 2 | .sub => 3) ∧
        v / 2 ^ 56 % 16 = 0 ∧ v / 2 ^ 32 % 2 ^ 24 = watermark c ∧ v % 2 ^ 32 = (c.expected - c.arrived) % 2 ^ 32) ∧
      (∀ f, c.length < 2 ^ 20 → c.state = .faulted → c.fault = some f →
        v / 2 ^ 60 = 2 ∧ v / 2 ^ 56 % 16 = chCauseCode f.cause ∧ v / 2 ^ 32 % 2 ^ 24 = watermark c ∧
        v % 2 ^ 32 = faultOffset s f % 2 ^ 32)) ∧
  (∀ (ch : BitVec 4) (s : State), s.cur.slot ≠ 4 →
    ((chanAt s.slot ch.toNat).state = .complete → ∃ t, exec (.waitc ch) s = .next t ∧ Retires s t 4 ∧ Control s t) ∧
    ((chanAt s.slot ch.toNat).state = .active ∨ (chanAt s.slot ch.toNat).state = .sub → Waits s (exec (.waitc ch) s)) ∧
    ((chanAt s.slot ch.toNat).state = .faulted → Traps s .copyfault (BitVec.ofNat 64 ch.toNat) (exec (.waitc ch) s)))

/-- chinit sets the channel's range and EV, clears its counts and fault and completes it, with the region closed and no copy of the channel left to
count; subscr puts the channel in SUB with what its descriptor says and posts both halves; srel gives back the next ring slots, and a
subscription that it ends is no longer in flight (R287, R293, R303, R305). No register and no byte of memory changes, and a region opens behind. -/
def Sys2Proof.channelSetupClause : Prop :=
  (∀ (a b : BitVec 5) (ch : BitVec 4) (s : State), XReady s a → XReady s b → s.cur.slot ≠ 4 → CanClose s →
    let y := (xval s.slot b).toNat
    let len := y % 2 ^ 20
    (chanAt s.slot ch.toNat).state ≠ .sub → y / 2 ^ 20 % 2 ^ 43 = 0 → (xval s.slot a).toNat % 64 = 0 → len % 64 = 0 → len ≤ 0x78000 →
    (len = 0 ∨ (localOff s (xval s.slot a) len).isSome = true) → chanBusy s ch.toNat = false →
    ∃ t, exec (.chinit a b ch) s = .next t ∧ Boundary s t 4 ∧
      chanAt t.slot ch.toNat = { base := (xval s.slot a).toNat % 2 ^ 19, length := len, ev := decide (2 ^ 63 ≤ y) } ∧
      (∀ c, c ≠ ch.toNat → chanAt t.slot c = chanAt s.slot c) ∧
      BoundaryOnly s { t with slot := { t.slot with chans := s.slot.chans } }) ∧
  (∀ (a b : BitVec 5) (ch : BitVec 4) (s : State) (off : Nat) (u : Sub) (ev : Bool), XReady s a → XReady s b → s.cur.slot ≠ 4 →
    CanClose s → (chanAt s.slot ch.toNat).state = .complete → (chanAt s.slot ch.toNat).expected = 0 →
    (xval s.slot a).toNat % 64 = 0 → localOff s (xval s.slot b) 64 = some off →
    readSub (poolRead s 64 off) ((xval s.slot a).toNat % 2 ^ 19) (boxSize s.slot.geom) = some (u, ev) →
    (localOff s (xval s.slot a) (u.slots * u.slotSize)).isSome = true → 0 ≤ boxLast s.slot.geom → boxLast s.slot.geom < u.slotSize →
    memBlocked s = false → s.slot.cpQueue.length < 2 →
    ∃ t k, exec (.subscr a b ch) s = .next t ∧ Boundary s t 4 ∧ t.slot.cpQueue = s.slot.cpQueue ++ [k] ∧ k.form = .subscr ∧
      k.ch = ch.toNat ∧ t.mem = s.mem ∧ t.slot.x = s.slot.x ∧ t.slot.xPoison = s.slot.xPoison ∧ t.slot.f = s.slot.f ∧ t.slot.v = s.slot.v ∧
      t.slot.m = s.slot.m ∧
      (chanAt t.slot ch.toNat).state = .sub ∧ (chanAt t.slot ch.toNat).sub = some u ∧ (chanAt t.slot ch.toNat).ev = ev ∧
      (chanAt t.slot ch.toNat).expected = u.tiles * boxSize s.slot.geom *
        ((if u.srcBase = 0 then 0 else 1) + (if u.dstBase = 0 then 0 else 1))) ∧
  (∀ (a : BitVec 5) (ch : BitVec 4) (s : State) (u : Sub), XReady s a → s.cur.slot ≠ 4 → CanClose s →
    (chanAt s.slot ch.toNat).state = .sub → (chanAt s.slot ch.toNat).sub = some u → (xval s.slot a).toNat ≠ 0 →
    u.released + (xval s.slot a).toNat ≤ u.tiles → (xval s.slot a).toNat ≤ u.slots →
    (∀ i, i < (xval s.slot a).toNat → rackerOwns u u.box ((u.released + i) % u.slots) = false) →
    (∀ o ∈ passedSlots u (xval s.slot a).toNat, bufOverlap s.slot o u.slotSize = false ∧
      ∀ l ∈ (coreOf s s.cur.core).locks, l.result = true → l.slot = s.cur.slot → overlaps o u.slotSize l.lo (l.hi - l.lo) = false) →
    ∃ t, exec (.srel a ch) s = .next t ∧ Boundary s t 4 ∧ t.mem = s.mem ∧ t.slot.x = s.slot.x ∧ t.slot.xPoison = s.slot.xPoison ∧
      t.slot.f = s.slot.f ∧ t.slot.v = s.slot.v ∧ t.slot.m = s.slot.m ∧
      (u.released + (xval s.slot a).toNat < u.tiles ∨ (chanAt s.slot ch.toNat).arrived ≠ (chanAt s.slot ch.toNat).expected →
        (chanAt t.slot ch.toNat).sub = some { u with released := u.released + (xval s.slot a).toNat }) ∧
      (u.released + (xval s.slot a).toNat = u.tiles → (chanAt s.slot ch.toNat).arrived = (chanAt s.slot ch.toNat).expected →
        (chanAt t.slot ch.toNat).state = .complete ∧ (chanAt t.slot ch.toNat).sub = none ∧
        ∀ k ∈ (coreOf t s.cur.core).copies, ¬ (k.slot = s.cur.slot ∧ k.ch = ch.toNat ∧ k.form = .subscr)))

/-- Channels and subscriptions at issue. -/
def Obligations.Channels : Prop := channelQueriesClause ∧ channelSetupClause

/-! ### Encoding, fetching and steps (01 R22, R419; 03 R50 to R68) -/

/-- Every well-formed instruction decodes from its own words: no operand loses a bit (03 R51, R53). -/
def Obligations.DecodeOfEncode : Prop :=
  ∀ (i : Instr) (n w : Nat), i.wellFormed = true → encode i = some (n, w) → decodeTableWord (8 * n) w = some i

/-- Each word has one meaning: what the decoder reads from two bytes or four is well formed, and its encoding is those bytes (03 R51, R68). -/
def Obligations.EncodeOfDecode : Prop :=
  ∀ (bs rest : List Byte) (i : Instr), decode bs = .ok (i, rest) →
    i.wellFormed = true ∧ ∃ n w, encode i = some (n, w) ∧ bs = leBytes n w ++ rest

/-- The parcel at window address `a` of the slot in hand is `p`: an extent with X covers it, it is not poisoned, no CXL port that owns it has
failed, and no write has changed it under the code's key while the capsule's code runs (01 R22, R419; 09 R202). -/
def Sys2Proof.ParcelAt (s : State) (a : Word) (p : BitVec 16) : Prop :=
  ∃ cls addr key, translate (rangesOf s) a 2 .fetch = .ok (.mem cls addr key) ∧ cls ≠ 2 ∧ s.mem.poisoned (memKey cls addr) = false ∧
    (cls = 1 → expanderFailed s addr 2 = false) ∧ (∀ v ∈ sget [] s.mem.past (memKey cls addr / 2), ¬ (some v.1 = s.slot.capsule ∧ v.2.1 = key)) ∧
        s.mem.read key 2 (memKey cls addr) = leBytes 2 p.toNat

/-- The bytes of the instruction at the pc: one parcel where bit 0 of the first is 0, and else two (03 R51). -/
def Sys2Proof.BytesAtPc (s : State) (bs : List Byte) : Prop :=
  ∃ p : BitVec 16, ParcelAt s s.slot.pc p ∧
    ((p.getLsbD 0 = false ∧ bs = leBytes 2 p.toNat) ∨
      (p.getLsbD 0 = true ∧ ∃ q : BitVec 16, ParcelAt s (s.slot.pc + 2) q ∧ bs = leBytes 2 p.toNat ++ leBytes 2 q.toNat))

/-- Nothing is overdue, and the schedule gives core `c`, which has not issued in this cycle, its turn: the agenda names it, or names nothing and it
is the next (06 R121; log 5). -/
def Sys2Proof.TurnOf (s : State) (c : CoreId) (rest : List Move) : Prop :=
  s.powered = true ∧ overdue exec (deadlines { s with stalled := false }) { s with stalled := false } = none ∧
    ((s.agenda = .issue c :: rest ∧ issued s c = false) ∨
      (s.agenda = [] ∧ rest = [] ∧ nextCore { s with stalled := false } = some c))

/-- The bytes at the pc of the slot in hand decode to `ins`; bytes that are no instruction stand for the illegal instruction with their word (03
R51, R68). -/
def Sys2Proof.RunsNext (s : State) (ins : Instr) : Prop :=
  ∃ bs, BytesAtPc s bs ∧ ((∃ more, decode bs = .ok (ins, more)) ∨
    ((∃ e, decode bs = .error e) ∧ ins = .illegalInstruction (BitVec.ofNat 32 (leNat bs))))

/-- A step runs the decoded instruction: where core `c` has its turn and slot `i` is the first that may issue there, and the bytes at its pc
decode to `ins`, and no held write of a region that it has closed is still leaving (20 R319), the step is exec of `ins` with that slot in hand,
the fetch noted, loads that were performed ahead forgotten where `ins` may be ordered before them (`begins`, log 74), and the core's issue of this
cycle made, and then time goes on. For a gang the leader's bytes decode, every member runs the
instruction, and every member's core makes its issue, if each of them chooses the gang too (06 R121, R122, R124; 03 R68). -/
def Obligations.StepRunsDecoded : Prop :=
  ∀ (s : State) (c : CoreId) (rest : List Move) (i : SlotId) (l : List SlotId) (ins : Instr), TurnOf s c rest →
    let u := { s with agenda := rest, stalled := false }
    issueOrder u c = i :: l → (∀ m ∈ gangOf u i, draining (getSlot u m) = false) →
    ((getSlot u i).gangSize ≤ 1 → RunsNext (focus u i) ins → ∀ t, exec ins { begins ins (noteFetch (focus u i)) with latch := [] } = .next t →
      t.stalled = false → step s = .next (tick exec deadlines (markIssued t c))) ∧
    (∀ lead ms, gangOf u i = lead :: ms → RunsNext (focus u lead) ins →
      ∀ t, runGang (exec ins) (begins ins (noteFetch (focus u lead))) = .next t → t.stalled = false → gangAgrees exec u i = true →
        step s = .next (tick exec deadlines ((lead :: ms).foldl (fun t m => markIssued t m.core) t)))

/-- A step of the schedule that is no instruction is exec of it with what is supplied, and then time goes on. What is overdue comes before what the
agenda names; an issue named on a core that has issued in this cycle waits for the next, and a core that could issue and has not is not passed over
(06 R121, R134). Time stops where something is due, and stands while something is overdue. Without power the machine stops, and
with power nothing stops it (26 R414). That a step comes of itself when its time is over is the model's choice (log 71). -/
def Obligations.StepsOfTheSchedule : Prop :=
  (∀ (s t : State) (e : Instr) (a : EventArg) (rest : List Move), s.powered = true →
    overdue exec (deadlines { s with stalled := false }) { s with stalled := false } = none →
    s.agenda = .event e a :: rest → isEvent e = true →
    exec e { s with agenda := rest, stalled := false, arg := a } = .next t → step s = .next (tick exec deadlines t)) ∧
  (∀ (s t : State) (e : Instr) (a : EventArg), s.powered = true →
    overdue exec (deadlines { s with stalled := false }) { s with stalled := false } = some (e, a) → isEvent e = true →
    exec e { s with stalled := false, arg := a } = .next t → step s = .next (tick exec deadlines t)) ∧
  (∀ (s : State) (c : CoreId) (rest : List Move), s.powered = true →
    overdue exec (deadlines { s with stalled := false }) { s with stalled := false } = none →
    s.agenda = .issue c :: rest → issued s c = true →
    let u := { s with stalled := false }
    (owing exec (nextCycle u (dieOf c)) u = [] → step s = .next (tick exec deadlines (passTo exec deadlines (nextCycle u (dieOf c)) u))) ∧
    (∀ d l, owing exec (nextCycle u (dieOf c)) u = d :: l →
      ∃ t, issueOn exec d u = .next t ∧ step s = .next (tick exec deadlines t))) ∧
  (∀ (s : State) (t : Nat), let u := passTo exec deadlines t s
    u = { s with now := u.now } ∧ s.now ≤ u.now ∧ u.now ≤ Max.max s.now t ∧ (overdue exec (deadlines s) s ≠ none → u = s) ∧
    (∀ d ∈ deadlines s, s.now < d.1 → u.now ≤ d.1)) ∧
  (∀ s : State, s.powered = false → step s = .fault .poweredOff) ∧
  (∀ s : State, s.powered = true → ∃ t, step s = .next t)

/-- The words that chapter 03 works out decode to what they stand for, and its patterns that are no instruction to none (03 Tables 3-14, 3-15). -/
def Obligations.SampleWords : Prop :=
  decodeTableWord 32 0x004002C9 = some (.gets 5 0x004) ∧ decodeTableWord 32 0x2000004B = some (.texit 0) ∧
    decodeTableWord 32 0xFF949921 = some (.bLt 9 10 0xFFA) ∧ decodeTableWord 32 0x00149483 = some (.add 9 9 10) ∧
    decodeTableWord 16 0x1A54 = some (.addC 9 10) ∧ decodeTableWord 32 0x008A42E7 = some (.mmaHi 4 5 2 5 .m8m8) ∧
    decodeTableWord 32 0x0000004B = some .nop ∧ decodeTableWord 16 0x0800 = some .nopC ∧
    decodeTableWord 32 0xFFFFFFFF = none ∧ decodeTableWord 32 0x00000001 = none ∧ decodeTableWord 16 0x0000 = none

/-! ### Reset, regions and the invariant (09 R416; 20 R314 to R316; 21 R346; 26) -/

/-- The registers of 26 Table 26-1 that have one reset value, with it: offset, value. -/
def Sys2Proof.resetRegisters : List (Nat × Nat) :=
  [(0x0000, 0x5), (0x0138, 0), (0x0140, 100), (0x0148, 3600), (0x0150, 0), (0x0158, 0), (0x0160, 0), (0x0168, 0), (0x0178, 0), (0x0180, 0),
   (0x0200, 0), (0x0208, 10), (0x0210, 0), (0x0218, 0), (0x0220, 0), (0x0228, 8), (0x0230, 0), (0xA400, 0), (0xA408, 0)]
  ++ (List.range 64).flatMap (fun n => [(0x1000 + 32 * n, 0), (0x1008 + 32 * n, 4), (0x1010 + 32 * n, 0)])
  ++ (List.range 8).flatMap (fun p => [(0x4000 + 64 * p, 0), (0x4008 + 64 * p, 0)])
  ++ (List.range 8).flatMap (fun d => (List.range 10).map fun i => (0x8000 + 256 * d + 8 * i, 0))
  ++ (List.range 96).map (fun p => (0xA000 + 8 * p, 0))

/-- Right after reset: no world, capsule, roster or handle; the journal and rings empty; sequences and LastFlag times unset; no slot bound; the
reset values of 26 Table 26-1; and DEVICE_RESET leaves the journal with BOOT at position 0, in memory at the journal's base, the certificate where
CERTADDR says, and host memory as it was. That it leaves every register of a slot at 0 is the model's choice (log 1), as is the certificate as
written then (log 78). -/
def Obligations.ResetLeaves : Prop :=
  (∀ r ∈ resetRegisters, registerValue State.reset r.1 = r.2) ∧
  (∀ h : Hub, h = State.reset.hub → h.worlds = [] ∧ h.capsules = [] ∧ h.handles = [] ∧ h.roster = [] ∧ h.rosterVersion = 0 ∧ h.fmkey = none ∧
      h.twait = 100 ∧
      h.powerLim = 3600 ∧ h.spool = 0 ∧ h.jhead = 0 ∧ h.rings = [] ∧ h.cfgrej = false ∧ h.withheld = false ∧ h.run = false ∧
      ∀ i : SlotId, (getSlot State.reset i).run = .unbound ∧ (getSlot State.reset i).groups = []) ∧
  (∀ s : State, ∃ t, exec .deviceReset s = .next t ∧ t.hub.jhead = 1 ∧ t.hub.jlast.length = 64 ∧ leNat (t.hub.jlast.take 8) = 0 ∧
    leNat ((t.hub.jlast.drop 16).take 2) = 0x01 ∧ leNat ((t.hub.jlast.drop 18).take 2) = 0xFFFF ∧
    (t.hub.jlast.drop 32).take 16 = (fwMeasure t).take 16 ∧ t.hub.jlast.drop 48 = List.replicate 16 0 ∧
    t.mem.read .clear 64 (memKey 0 0) = t.hub.jlast ∧
    (Config.certAddr.toNat < 64 ∨ t.mem.read .clear certificate.length (memKey 0 Config.certAddr.toNat) = certificate) ∧
    t.hub.worlds = [] ∧ t.hub.capsules = [] ∧
    t.others = [] ∧ t.slot = {} ∧ t.net = [] ∧ t.now = 0 ∧ t.resets = s.resets + 1 ∧
    (2 ^ 59 < certificate.length ∨ ∀ k, memKey 2 0 ≤ k → k < memKey 3 0 → t.mem.raw k = s.mem.raw k))

/-- Memory is in its canonical form at reset. -/
def Obligations.ResetHoldsInvariant : Prop := Safety.Inv State.reset

/-- Every step keeps the canonical form of memory, whatever the state (log 2). -/
def Obligations.StepKeepsInvariant : Prop := ∀ s t : State, Safety.Inv s → step s = .next t → Safety.Inv t

/-- A discarded region takes its register writes back: whatever a register of a group in the live-in mask took, restoring gives what it would have
given without the write (20 R315, R316). -/
def Obligations.DiscardTakesBack : Prop :=
  (∀ (l : Slot) (k : Nat) (v : Word) (mark : Option Word) (g : Nat), xGroup l.region k = some g → l.region.mask.getLsbD g = true →
    ∀ j, sget 0 (restoreRegion (putX l k v mark)).x j = sget 0 (restoreRegion l).x j ∧
      sfind (restoreRegion (putX l k v mark)).xPoison j = sfind (restoreRegion l).xPoison j) ∧
  (∀ (l : Slot) (n : BitVec 5) (v : Word), l.region.mask.getLsbD (4 + n.toNat / 16) = true →
    ∀ j, sget 0 (restoreRegion (setF l n v)).f j = sget 0 (restoreRegion l).f j) ∧
  (∀ (l : Slot) (n : BitVec 5) (v : Vec), l.region.mask.getLsbD (7 + n.toNat / 8) = true →
    ∀ j, sget 0 (restoreRegion (setV l n v)).v j = sget 0 (restoreRegion l).v j) ∧
  (∀ (l : Slot) (n : BitVec 3) (v : Word), l.region.mask.getLsbD 6 = true →
    ∀ j, sget 0 (restoreRegion (setM l n v)).m j = sget 0 (restoreRegion l).m j)

/-! ### Steps of the fabric (06 R127 to R131; 09 R196; 10 R209; 11 R223; 21 R336, R348) -/

/-- Sealing at a port of the module (25 R390): a packet that `sealsNow` tells to be sealed takes the next counter of the flow of its two ports, which
its world keeps; where 4,096 of the flow have left within L_pkg it waits; any other stays as it is. Which ports make one flow is the model's
choice (log 54). -/
def Sys2Proof.sealsFlows : Prop :=
  ∀ (s : State) (p : Packet), (sealsNow s p = none ∨ worldOfKey s p.portKey = none → sealPacket s p = some (s, p)) ∧
    ∀ k w x, sealsNow s p = some k → worldOfKey s p.portKey = some w → worldAt s w = some x →
      let f : SentFlow := sget {} x.innerSent k
      let recent := f.times.filter fun t => decide (s.now < t + Config.lifePkg)
      (4096 ≤ recent.length → sealPacket s p = none) ∧
      (recent.length < 4096 → ∃ u, sealPacket s p = some (u, { p with flow := some k, seq := f.next }) ∧
        u = { s with hub := { s.hub with worlds := u.hub.worlds } } ∧
        worldAt u w = some { x with innerSent := sset {} x.innerSent k ⟨f.next + 1, recent ++ [s.now]⟩ })

/-- The flow of a packet at port `n` has sent 4,096 packets within the last L_max (25 R390; log 54). -/
def Sys2Proof.FlowFull (s : State) (n : Nat) (p : Packet) : Prop :=
  ∃ w x, worldOfKey s p.portKey = some w ∧ worldAt s w = some x ∧
    4096 ≤ ((sget {} x.sent (flowTo s n p) : SentFlow).times.filter fun t => decide (s.now < t + Config.lifeMax)).length

/-- SWITCH_FORWARD of one packet: of age 250 or more it is dropped and counted in LIFETIME; else it goes one hop up to its lowest common switch
or down to its target, sealed where it passes a port, and nothing else in flight changes but that the count of a copy's bytes sets out where they
leave for another die. Where its link delivers nothing it is deflected: from a die's spine to a cluster switch of the die. One whose flow is full
waits at its port, and else leaves the module (21 R336, R337; 18 R291; 25 R390). The model's choices: combining as a hop of its own, the die that
counts LIFETIME, what a down link does, flows within the module (logs 14, 20, 71, 54). -/
def Sys2Proof.forwardsOne : Prop :=
  ∀ (s : State) (id : Nat) (p : Packet), s.arg.pkts = [id] → sfind s.net id = some p → p.hop ≠ .target → id < s.fresh →
    (p.hop ≠ .combining → 250 ≤ packetAge s p → ∃ t, exec .switchForward s = .next t ∧ sfind t.net id = none ∧
      (dieAt t (switchDie s p)).lifetime = (dieAt s (switchDie s p)).lifetime + 1 ∧
      (p.piece = none → p.tier = 0 → p.ofDev.isSome = true ∨ (∃ d b, p.cargo = .write d b) → t = { s with net := t.net, dies := t.dies })) ∧
    (packetAge s p < 250 → linkDown s s.arg.port p = true → ∃ t q, exec .switchForward s = .next t ∧ t.mem = s.mem ∧
      sfind t.net id = some q ∧ q.cargo = p.cargo ∧ q.dest = p.dest ∧ q.born = p.born ∧
      (p.hop = .spine → q.hop = .cluster ∧ q.srcDie = p.srcDie)) ∧
    (p.hop = .combining ∨ packetAge s p < 250 → linkDown s s.arg.port p = false → sealPacket s p = none → exec .switchForward s = .next s) ∧
    (p.hop = .combining ∨ packetAge s p < 250 → linkDown s s.arg.port p = false → ∀ u q, sealPacket s p = some (u, q) →
      ∃ t, exec .switchForward s = .next t ∧ t.mem = s.mem ∧
      (∀ k, k ≠ id → k ≠ s.fresh → sfind t.net k = sfind s.net k) ∧
      (p.hop = .combining → let r := { p with hop := .cluster, born := s.now }
        sfind t.net id = some (if leaves s r then { r with due := some (lifeEnd s r) } else r)) ∧
      (p.hop = .cluster → p.climb = 0 → sfind t.net id = some { q with hop := .target }) ∧
      (p.hop = .cluster → p.climb ≠ 0 → sfind t.net id = some { q with hop := .spine, climb := p.climb - 1, inPort := p.srcCl }) ∧
      (p.hop = .spine → p.climb ≠ 0 →
        sfind t.net id = some { departed u q with hop := .package, climb := p.climb - 1, inPort := p.srcDie }) ∧
      (p.hop = .spine → p.climb = 0 → ∀ cls a, p.dest = .mem cls a → sfind t.net id = some { q with hop := .target }) ∧
      (p.hop = .spine → p.climb = 0 → ∀ c off, p.dest = .pool c off → sfind t.net id = some { q with hop := .cluster, inPort := 16 }) ∧
      (p.hop = .package → p.climb = 0 →
        let v := if namesUs u q = true then noteRequest u q else u
        sfind t.net id = some (if destDie v q = 8 then { q with hop := .target } else { departed v q with hop := .spine, inPort := 48 })) ∧
      (p.hop = .package → p.climb ≠ 0 →
        sfind t.net id = some { departed u q with hop := .port (s.arg.port % 96), climb := p.climb - 1 }) ∧
      (∀ n, p.hop = .port n → leaves s p = true →
        ((ownDevice s).isSome = true → FlowFull s n p → sfind t.net id = some p ∧ t.outbox = s.outbox) ∧
        (¬ FlowFull s n p → sfind t.net id = none ∧ ((ownDevice s).isSome = true → (worldOfKey s p.portKey).isSome = true →
          ∃ q, t.outbox = s.outbox ++ [.packet q] ∧ q.cargo = p.cargo ∧ q.dest = p.dest ∧ q.key = p.key ∧ q.header = p.header ∧
            q.hop = .port n ∧ q.age0 = packetAge s p))) ∧
      (∀ n, p.hop = .port n → leaves s p = false → sfind t.net id = some { p with hop := .package, inPort := 32 + n }))

/-- Of two packets at one spine that both climb, and so want one port, the one with the larger AGE goes on, and the other is deflected by a free
port, to a cluster switch of its die: the one that State.arg.pools names, if it names one (21 R336; log 71). -/
def Sys2Proof.forwardsElder : Prop :=
  ∀ (s : State) (i j : Nat) (p q : Packet), s.arg.pkts = [i, j] → i ≠ j → sfind s.net i = some p → sfind s.net j = some q →
    i < s.fresh → j < s.fresh → p.hop = .spine → q.hop = .spine → p.climb ≠ 0 → q.climb ≠ 0 → q.srcDie = p.srcDie →
    linkDown s s.arg.port p = false → packetAge s p < 250 → packetAge s q < packetAge s p → ∀ u r, sealPacket s p = some (u, r) →
    ∃ t q', exec .switchForward s = .next t ∧
      sfind t.net i = some { departed u r with hop := .package, climb := p.climb - 1, inPort := p.srcDie } ∧
      sfind t.net j = some q' ∧ q'.hop = .cluster ∧ q'.cargo = q.cargo ∧ q'.dest = q.dest ∧ q'.born = q.born ∧ q'.srcDie = q.srcDie ∧
      (∀ o rest, s.arg.pools = o :: rest → o < 16 → q'.srcCl = o)

/-- The target takes packet State.arg.pkt, `p`, whose seal its port accepts. -/
abbrev Sys2Proof.AtTarget (s : State) (p : Packet) : Prop :=
  sfind s.net s.arg.pkt = some p ∧ p.hop = .target ∧ s.arg.canRead = false ∧ sealFails s p = false ∧ s.arg.pkt < s.fresh

/-- Nothing of the hub differs but what the worlds' ports have seen. -/
abbrev Sys2Proof.SeenOnly (s t : State) : Prop := t = { s with net := t.net, dies := t.dies, hub := { s.hub with worlds := t.hub.worlds } }

/-- REMOTE_ACCESS_ARRIVAL at a memory of this module: a write is performed under the packet's key; a read answers with the bytes as they are
now; an atomic answers with the old number and leaves the new one; a poisoned one stays as it is, and the answer is poisoned (11 R223; 10 R209,
R217). -/
def Sys2Proof.accessesArrive : Prop :=
  ∀ (s : State) (p : Packet) (cls a : Nat), AtTarget s p → p.header = none → p.dest = .mem cls a → cls ≠ 2 → linkDown s 0 p = false →
    (∀ d bad, p.cargo = .write d bad → landBlocked s cls a d.length = false →
      ∃ t, exec .remoteAccessArrival s = .next t ∧ sfind t.net s.arg.pkt = none ∧
        t.mem = s.mem.write (memKey cls a) d p.key bad) ∧
    (∀ n, p.cargo = .read n → ∃ t q bad, exec .remoteAccessArrival s = .next t ∧ t.mem = s.mem ∧ sfind t.net s.arg.pkt = none ∧
      sfind t.net s.fresh = some q ∧ q.dest = .reply p.src ∧ q.req = p.req ∧
      q.cargo = .data (s.mem.read p.key n (memKey cls a)) bad ∧
      (bad = true ↔ s.mem.anyPoison (memKey cls a) n = true ∨ (cls = 1 ∧ expanderFailed s a n = true))) ∧
    (∀ op sz cmp v, p.cargo = .atomic op sz cmp v → landBlocked s cls a (asizeBytes sz) = false →
      s.mem.anyPoison (memKey cls a) (asizeBytes sz) = false → (cls = 1 → expanderFailed s a (asizeBytes sz) = false) →
      let old := s.mem.read p.key (asizeBytes sz) (memKey cls a)
      ∃ t q, exec .remoteAccessArrival s = .next t ∧ sfind t.net s.fresh = some q ∧ q.dest = .reply p.src ∧ q.cargo = .data old false ∧
        t.mem = (match atomicNew op sz (leNat old) cmp v with
          | some w => s.mem.write (memKey cls a) (leBytes (asizeBytes sz) w) p.key false
          | none => s.mem)) ∧
    (∀ op sz cmp v, p.cargo = .atomic op sz cmp v → landBlocked s cls a (asizeBytes sz) = false →
      s.mem.anyPoison (memKey cls a) (asizeBytes sz) = true ∨ (cls = 1 ∧ expanderFailed s a (asizeBytes sz) = true) →
      ∃ t q, exec .remoteAccessArrival s = .next t ∧ t.mem = s.mem ∧ sfind t.net s.fresh = some q ∧ q.dest = .reply p.src ∧
        q.cargo = .data (s.mem.read p.key (asizeBytes sz) (memKey cls a)) true)

/-- A packet to a pool at an offset in no scratchpad of its capsule, nor, for a copy, in one that its exited task leaves to it (log 75), is a stray:
dropped, counted, without effect (09 R196); one whose tag no open world's key opens, if it came through a port, is dropped and counted in CIPHER, by
the model's choice (log 39); so is one whose counter its port has seen, or that has left the window of 4,096 below the highest seen (25 R390; which
ports make one flow is log 54). -/
def Sys2Proof.accessesRefused : Prop :=
  (∀ (s : State) (p : Packet) (c : CoreId) (off : Nat) (d : List Byte) (bad : Bool), AtTarget s p → p.header = none →
    p.dest = .pool c off → p.cargo = .write d bad → scratchHolder s c p.capsule off d.length = none →
    leftPool s p c off d.length = false →
    ∃ t, exec .remoteAccessArrival s = .next t ∧ t.mem = s.mem ∧ sfind t.net s.arg.pkt = none ∧
      (dieAt t (dieOf c)).stray = (dieAt s (dieOf c)).stray + 1) ∧
  (∀ (s : State) (p : Packet) (d : List Byte) (bad : Bool), sfind s.net s.arg.pkt = some p → p.hop = .target → p.header = none →
    s.arg.canRead = false → p.cargo = .write d bad →
    (worldOfKey s p.portKey = none ∧ unsealed p = false) ∨ (∃ k w x, p.flow = some k ∧ worldOfKey s p.portKey = some w ∧ worldAt s w = some x ∧
      (p.seq + 4096 < (sget ⟨0, []⟩ x.innerSeen k).next ∨ p.seq ∈ (sget ⟨0, []⟩ x.innerSeen k).seen)) →
    ∃ t, exec .remoteAccessArrival s = .next t ∧ t.mem = s.mem ∧ sfind t.net s.arg.pkt = none ∧
      (dieAt t (destDie s p % 8)).cipher = (dieAt s (destDie s p % 8)).cipher + 1)

/-- Slot `l'` has taken the data `bs` of its load `q` of `w` bytes: the register kept under `k` holds the sign-extended number, marked where the
data is poisoned, and the access is over (10 R209, R210). -/
def Sys2Proof.LoadLands (l l' : Slot) (q : Pending) (w k : Nat) (bs : List Byte) (bad : Bool) : Prop :=
  l'.pending = l.pending.filter (fun x => x.req != q.req) ∧ sget 0 l'.x k = signLoad w (leNat (mergeOwn q.own bs)) ∧
    sfind l'.xPoison k = (if bad then some q.ea else none) ∧ (∀ j, j ≠ k → sget 0 l'.x j = sget 0 l.x j) ∧ l'.f = l.f ∧ l'.v = l.v

/-- Packet State.arg.pkt brings the data `bs` for part number `req` of an access of slot `i`, and its port takes it. -/
abbrev Sys2Proof.Answers (s : State) (i : SlotId) (req : Nat) (bs : List Byte) (bad : Bool) : Prop :=
  ∃ p, sfind s.net s.arg.pkt = some p ∧ (admitFlow s p).isSome = true ∧ p.hop = .target ∧ p.cargo = .data bs bad ∧ p.dest = .reply i ∧ p.req = req

/-- An access of slot `i` that part `req` belongs to left the device more than 2 L_max ago. -/
abbrev Sys2Proof.partLate (s : State) (i : SlotId) (req : Nat) : Bool :=
  (getSlot s i).pending.any fun x => (x.parts.any fun r => r.1 == req) && responseLate s x

/-- ACCESS_RESPONSE takes the data of one part of a load; with the last part the load lands, the bytes of both parts in the order of their
addresses. Data too late is not taken; RESPONSE_TIMEOUT, 2 L_max after the request left, lands poisoned zeros (10 R209, R212). -/
def Sys2Proof.responsesLand : Prop :=
  (∀ (s : State) (i : SlotId) (q : Pending) (req w k : Nat) (bs : List Byte) (bad : Bool), Answers s i req bs bad →
    (getSlot s i).pending.find? (fun x => x.parts.any fun r => r.1 == req) = some q → partLate s i req = false →
    q.land = .load w → q.dst = some k → q.dst2 = none →
    (∀ lo, q.parts = [(req, lo.length)] → q.got = byteMap 0 lo → ∃ t, exec .accessResponse s = .next t ∧
      sfind t.net s.arg.pkt = none ∧ t.mem = s.mem ∧ LoadLands (getSlot s i) (getSlot t i) q w k (lo ++ bs) (q.bad || bad)) ∧
    (∀ hi, q.parts = [(req, 0)] → q.got = byteMap bs.length hi → ∃ t, exec .accessResponse s = .next t ∧
      sfind t.net s.arg.pkt = none ∧ t.mem = s.mem ∧ LoadLands (getSlot s i) (getSlot t i) q w k (bs ++ hi) (q.bad || bad)) ∧
    (∀ at0 other at1, q.parts = [(req, at0), (other, at1)] ∨ q.parts = [(other, at1), (req, at0)] → other ≠ req → q.got = [] →
      ∃ t, exec .accessResponse s = .next t ∧ sfind t.net s.arg.pkt = none ∧ t.mem = s.mem ∧
        getSlot t i = { getSlot s i with pending := (getSlot s i).pending.map fun x =>
          if x.req = q.req then { q with parts := [(other, at1)], got := byteMap at0 bs, bad := q.bad || bad } else x })) ∧
  (∀ (s : State) (i : SlotId) (req : Nat) (bs : List Byte) (bad : Bool), Answers s i req bs bad → partLate s i req = true →
    ∃ t, exec .accessResponse s = .next t ∧ sfind t.net s.arg.pkt = none ∧ t.mem = s.mem ∧ getSlot t i = getSlot s i) ∧
  (∀ (s : State) (q : Pending) (w k gone : Nat), (getSlot s s.arg.slot).pending.find? (fun x => x.req == s.arg.copy) = some q →
    q.land = .load w → q.dst = some k → q.dst2 = none → q.left = some gone → gone + 2 * Config.lifeMax ≤ s.now →
      ∃ t, exec .responseTimeout s = .next t ∧ t.mem = s.mem ∧
        LoadLands (getSlot s s.arg.slot) (getSlot t s.arg.slot) { q with own := [] } w k (List.replicate 16 0) true)

/-- MESSAGE_ARRIVAL: a message enters the inbox, of 16, of the slot that runs its target; where it is full it is staged for the capsule's overflow
handler, at most 64 for a core, beyond which it is deflected into the spine, and without a handler it is a stray. SEV_ARRIVAL sets the target's
latch. Where no slot runs the target both are strays (06 R127 to R131), of the sender's die by the model's choice (log 67). -/
def Sys2Proof.messagesArrive : Prop :=
  ∀ (s : State) (p : Packet) (n : Nat), AtTarget s p → p.dest = .task n →
    (∀ m i c, p.cargo = .message m → placedAt s p.capsule n = some i → capAt s p.capsule = some c →
      ((getSlot s i).inbox.length < 16 → ∃ t, exec .messageArrival s = .next t ∧ sfind t.net s.arg.pkt = none ∧ t.mem = s.mem ∧
        (getSlot t i).inbox = (getSlot s i).inbox ++ [m]) ∧
      (16 ≤ (getSlot s i).inbox.length → c.stopped = none → c.info.overflow ≠ 0xFFFFFFFF → (coreOf s i.core).staged.length < 64 →
        ∃ t, exec .messageArrival s = .next t ∧ sfind t.net s.arg.pkt = none ∧
          (coreOf t i.core).staged =
            (coreOf s i.core).staged ++ [{ slot := i.slot, task := (getSlot s i).task, payload := m }]) ∧
      (16 ≤ (getSlot s i).inbox.length → c.stopped = none → c.info.overflow = 0xFFFFFFFF →
        ∃ t, exec .messageArrival s = .next t ∧ sfind t.net s.arg.pkt = none ∧ SeenOnly s t ∧
          (dieAt t (dieOf i.core)).stray = (dieAt s (dieOf i.core)).stray + 1) ∧
      (16 ≤ (getSlot s i).inbox.length → c.stopped = none → c.info.overflow ≠ 0xFFFFFFFF → 64 ≤ (coreOf s i.core).staged.length →
        ∃ t q, exec .messageArrival s = .next t ∧ t = { s with net := t.net } ∧ sfind t.net s.arg.pkt = some q ∧ q.hop = .spine ∧
          q.cargo = p.cargo ∧ q.dest = p.dest ∧ q.born = p.born)) ∧
    (∀ i, p.cargo = .event → placedAt s p.capsule n = some i → (getSlot s i).run = .running → (getSlot s i).gangSize = 1 →
      ∃ t, exec .sevArrival s = .next t ∧ sfind t.net s.arg.pkt = none ∧ t.mem = s.mem ∧
        getSlot t i = { getSlot s i with latchBit := true }) ∧
    (∀ i, p.cargo = .event → placedAt s p.capsule n = some i → (getSlot s i).run = .asleep → (getSlot s i).gangSize = 1 →
      ∃ t, exec .sevArrival s = .next t ∧ getSlot t i = { getSlot s i with run := .running, latchBit := false }) ∧
    (∀ m, p.cargo = .message m → placedAt s p.capsule n = none → ∃ t, exec .messageArrival s = .next t ∧
      (dieAt t (dieOf p.src.core)).stray = (dieAt s (dieOf p.src.core)).stray + 1 ∧ SeenOnly s t) ∧
    (p.cargo = .event → placedAt s p.capsule n = none → ∃ t, exec .sevArrival s = .next t ∧
      (dieAt t (dieOf p.src.core)).stray = (dieAt s (dieOf p.src.core)).stray + 1 ∧ SeenOnly s t)

/-- Packets go on and are performed. -/
def Obligations.PacketsMove : Prop :=
  sealsFlows ∧ forwardsOne ∧ forwardsElder ∧ accessesArrive ∧ accessesRefused ∧ responsesLand ∧ messagesArrive

/-- A flag for class `cls` address `a` has failed: it takes 2^63 plus `code`, and one journal entry is written, with the event, the die, the flag's
address and its header without FLAG (21 R349, Table 21-7; 25 Table 25-4). -/
def Sys2Proof.FlagFailed (s t : State) (die code event : Nat) (p : Packet) (h : Word) (cls a : Nat) : Prop :=
  s.bindings = [] → journalFull s = false → s.hub.jqueue = [] → s.hub.jlost = 0 → s.hub.jhead ≠ 0 →
    t.hub.jhead = s.hub.jhead + 1 ∧
    t.mem = (s.mem.write (memKey cls a) (leBytes 8 (2 ^ 63 + code)) p.key false).write
      (memKey 0 (s.hub.jbase + 64 * (s.hub.jhead % 2 ^ s.hub.jlog))) t.hub.jlast .clear false ∧
    leNat ((t.hub.jlast.drop 16).take 2) = event ∧ leNat ((t.hub.jlast.drop 18).take 2) = (0x100 + die) % 2 ^ 16 ∧
    leNat ((t.hub.jlast.drop 24).take 8) = (cls * 2 ^ 60 + a) % 2 ^ 64 ∧ leNat ((t.hub.jlast.drop 32).take 16) = h.toNat % 2 ^ 63

/-- COUNTED_PACKET_ARRIVAL at a memory slice: a write adds the bytes that it performs to its entry; a flag whose count has arrived is performed,
one whose count is still out waits in the entry, and one whose count is exceeded fails with OVERCOUNT. Without an entry and with 4,096 in the table
a packet is deflected, and from AGE 240 on a flag fails with TABLEFULL. ARRIVAL_TIMEOUT fails a flag that has waited T_wait, and ARRIVAL_ORPHAN
drops an entry without a flag after T_orphan (21 R348, R349). -/
def Obligations.CountedArrivals : Prop :=
  (∀ (s : State) (p : Packet) (h : Word) (cls a : Nat) (e : Arrival), AtTarget s p → p.header = some h → p.dest = .mem cls a →
    cls = 0 ∨ cls = 3 → (dieAt s (memDie s cls a)).arrivals.find? (fun x => x.key == h &&& 0x7FFFFFFFFFFFFFFF) = some e →
    e.flag = none →
    (∀ d bad, p.cargo = .write d bad → landBlocked s cls a d.length = false →
      ∃ t, exec .countedPacketArrival s = .next t ∧ sfind t.net s.arg.pkt = none ∧ t.mem = s.mem.write (memKey cls a) d p.key bad ∧
        { e with arrived := e.arrived + keptBytes s.mem (memKey cls a) d.length } ∈ (dieAt t (memDie s cls a)).arrivals) ∧
    (∀ n v, p.cargo = .flag n v → landBlocked s cls a 8 = false →
      ∃ t, exec .countedPacketArrival s = .next t ∧ sfind t.net s.arg.pkt = none ∧
        (e.arrived = n → t.mem = s.mem.write (memKey cls a) (leBytes 8 v.toNat) p.key false ∧
          ∀ x ∈ (dieAt t (memDie s cls a)).arrivals, x.key ≠ e.key) ∧
        (e.arrived < n → t.mem = s.mem ∧ { e with flag := some (p, s.now) } ∈ (dieAt t (memDie s cls a)).arrivals) ∧
        (n < e.arrived → (dieAt t (memDie s cls a)).overcount = (dieAt s (memDie s cls a)).overcount + 1 ∧
          FlagFailed s t (memDie s cls a) 1 0x41 p h cls a ∧ ∀ x ∈ (dieAt t (memDie s cls a)).arrivals, x.key ≠ e.key))) ∧
  (∀ (s : State) (p : Packet) (h : Word) (cls a n : Nat) (v : Word), AtTarget s p → p.header = some h → p.dest = .mem cls a → cls = 0 ∨ cls = 3 →
    p.cargo = .flag n v → (∀ x ∈ (dieAt s (memDie s cls a)).arrivals, x.key ≠ h &&& 0x7FFFFFFFFFFFFFFF) →
    4096 ≤ (dieAt s (memDie s cls a)).arrivals.length →
    (packetAge s p < 240 → ∃ t q, exec .countedPacketArrival s = .next t ∧ t = { s with net := t.net } ∧ sfind t.net s.arg.pkt = some q ∧
      q.hop = .spine ∧ q.cargo = p.cargo ∧ q.dest = p.dest ∧ q.header = p.header ∧ q.born = p.born) ∧
    (240 ≤ packetAge s p → landBlocked s cls a 8 = false → ∃ t, exec .countedPacketArrival s = .next t ∧ sfind t.net s.arg.pkt = none ∧
      (dieAt t (memDie s cls a)).tablefull = (dieAt s (memDie s cls a)).tablefull + 1 ∧ FlagFailed s t (memDie s cls a) 3 0x42 p h cls a)) ∧
  (∀ (s : State) (e : Arrival) (p : Packet) (since : Nat),
    (dieAt s s.arg.die).arrivals.find? (timedOut s) = some e → e.flag = some (p, since) →
    ∃ t, exec .arrivalTimeout s = .next t ∧ (dieAt t s.arg.die).timeout = (dieAt s s.arg.die).timeout + 1 ∧
      (∀ h cls a, p.header = some h → p.dest = .mem cls a → cls ≠ 2 → FlagFailed s t s.arg.die 2 0x40 p h cls a) ∧
      ∀ x ∈ (dieAt t s.arg.die).arrivals, x.key ≠ e.key) ∧
  (∀ (s : State) (e : Arrival),
    (dieAt s s.arg.die).arrivals.find? (fun x => x.flag.isNone && decide (x.created + 4 * x.wait * 1000 * Config.nanosecond ≤ s.now)) =
      some e →
    ∃ t, exec .arrivalOrphan s = .next t ∧ t.mem = s.mem ∧ (dieAt t s.arg.die).orphan = (dieAt s s.arg.die).orphan + 1 ∧
      ∀ x ∈ (dieAt t s.arg.die).arrivals, x.key ≠ e.key)

/-- A store of `d` at `pl` as parts of at most `unit` bytes, none across a multiple of it: what each writes, where and under which key (10
R212). -/
def Sys2Proof.storeParts (unit : Nat) (pl : Place) (d : List Byte) : List (Cargo × Dest × KeyId) :=
  (splitAt unit (placeOffset pl) d).map fun r => (.write r.2 false, (destOf (placeAdd pl (r.1 - placeOffset pl))).1, (destOf pl).2)

/-- A held store leaves: where its performer is on the issuer's die, by whatever number, it joins the store buffer in parts of 64 bytes; elsewhere
parts of 32 bytes go out, each as a packet (10 R212; 11 R225, R229; 20 R319). That it joins the store buffer, the lower part first, also by the
device's own number, and that a packet combines at a hop of its own are the model's choices (log 13, log 64, log 84, log 14). -/
def Sys2Proof.heldStoreLeaves : Prop :=
  ∀ (s : State) (pl : Place) (ea : Word) (d : List Byte) (rel : Option Scope) (rest : List Held),
    (getSlot s s.arg.slot).hold = .store pl ea d rel none :: rest → headReady s s.arg.slot (.store pl ea d rel none) = true →
    (OnDie s s.arg.slot pl d.length .store → ∃ t es, exec .heldWriteDepart s = .next t ∧ (getSlot t s.arg.slot).hold = rest ∧ t.mem = s.mem ∧
      (getSlot t s.arg.slot).storeBuf = (getSlot s s.arg.slot).storeBuf ++ es ∧
      (es.map fun e => e.out.map fun p => (p.cargo, p.dest, p.key)) = (storeParts 64 pl d).map some ∧ ∀ e ∈ es, e.rel = none) ∧
    (¬ OnDie s s.arg.slot pl d.length .store →
      ∃ t, exec .heldWriteDepart s = .next t ∧ (getSlot t s.arg.slot).hold = rest ∧ t.mem = s.mem ∧
      (getSlot t s.arg.slot).storeBuf = (getSlot s s.arg.slot).storeBuf ∧
      ∀ (j : Nat) c dest key, (storeParts 32 pl d)[j]? = some (c, dest, key) → ∃ q, sfind t.net (s.fresh + j) = some q ∧ q.cargo = c ∧
        q.dest = dest ∧ q.key = key ∧ q.hop = .combining)

/-- What leaves a slot's buffers: the oldest store performs its bytes and no other; a met release condition is noted; the head of the hold area
departs when the region closes, in order; a counted release sends its flag with the bytes of its group and the group's
sequence goes on; and a staged message starts the service slot at the overflow handler with x2 the target (04 R94; 10 R213; 11 R225;
20 R319; 21 R344; 06 R130). A buffered store by the device's own number goes out as a packet, and its entry stays at the head until that is gone (09
R197; 11 R225; log 84). sev of a task to itself sets its latch (07 R158). That each step performs one entry, in order, is the model's choice
(log 19). -/
def Obligations.SlotBuffersDrain : Prop :=
  heldStoreLeaves ∧
  (∀ (s : State) (e : BufStore) (rest : List BufStore), (getSlot s s.arg.slot).storeBuf = e :: rest → e.rel = none → e.whole = false →
    e.out = none →
    (e.bytes.map fun b => b.1).Nodup → (∀ b ∈ e.bytes, b.1 < 2 ^ 19) →
    ∃ t, exec .storeBufferPerform s = .next t ∧ (getSlot t s.arg.slot).storeBuf = rest ∧
      (∀ b ∈ e.bytes, t.mem.raw (poolKey s.arg.slot.core b.1) = b.2) ∧
      (∀ k, (∀ b ∈ e.bytes, k ≠ poolKey s.arg.slot.core b.1) → t.mem.raw k = s.mem.raw k) ∧
      t.mem = { s.mem with cells := t.mem.cells }) ∧
  (∀ (s : State) (e : BufStore) (rest : List BufStore) (p : Packet) (cls a : Nat) (d : List Byte) (bad : Bool),
    (getSlot s s.arg.slot).storeBuf = e :: rest → e.rel = none → e.out = some p → p.header = none → p.dest = .mem cls a → cls ≠ 2 →
    p.cargo = .write d bad → landBlocked s cls a d.length = false →
    ∃ t, exec .storeBufferPerform s = .next t ∧ (getSlot t s.arg.slot).storeBuf = rest ∧ t.mem = s.mem.write (memKey cls a) d p.key bad) ∧
  (∀ (s : State) (e : BufStore) (rest : List BufStore) (p : Packet) (a : Word), (getSlot s s.arg.slot).storeBuf = e :: rest → e.rel = none →
    e.out = some p → p.dest = .peer a →
    (e.sent = none → ∃ t q, exec .storeBufferPerform s = .next t ∧ t.mem = s.mem ∧
      (getSlot t s.arg.slot).storeBuf = { e with sent := some s.fresh } :: rest ∧ sfind t.net s.fresh = some q ∧ q.cargo = p.cargo ∧
      q.dest = p.dest ∧ q.header = p.header ∧ q.hop ≠ .target ∧ q.hop ≠ .combining) ∧
    (∀ id, e.sent = some id → (sfind s.net id).isSome = true → exec .storeBufferPerform s = .next s) ∧
    (∀ id, e.sent = some id → sfind s.net id = none → ∃ t, exec .storeBufferPerform s = .next t ∧ t.mem = s.mem ∧ t.net = s.net ∧
      (getSlot t s.arg.slot).storeBuf = rest)) ∧
  (∀ (s : State) (sc : Scope), (getSlot s s.arg.slot).wantRel = some sc → relCond s s.arg.slot sc true = true →
    ∃ t, exec .releaseConditionMet s = .next t ∧ getSlot t s.arg.slot = { getSlot s s.arg.slot with condMet := some sc } ∧ t.mem = s.mem) ∧
  (∀ (s : State) (h : Held) (rest : List Held), (getSlot s s.arg.slot).hold = h :: rest → headReady s s.arg.slot h = true →
    (∀ n m, h = .send n m → s.arg.slot.slot ≠ 4 → ∃ t q, exec .heldWriteDepart s = .next t ∧ (getSlot t s.arg.slot).hold = rest ∧
      t.mem = s.mem ∧ sfind t.net s.fresh = some q ∧ q.cargo = .message m ∧ q.dest = .task n.toNat) ∧
    (∀ n c, h = .sev n → (getSlot s s.arg.slot).capsule = some c → placedAt s c n.toNat = some s.arg.slot → ∃ t,
      exec .heldWriteDepart s = .next t ∧ (getSlot t s.arg.slot).hold = rest ∧ t.mem = s.mem ∧ t.net = s.net ∧
      ((getSlot s s.arg.slot).run = .running → (getSlot s s.arg.slot).gangSize = 1 → (getSlot t s.arg.slot).latchBit = true)) ∧
    (∀ n c, h = .sev n → (getSlot s s.arg.slot).capsule = some c → placedAt s c n.toNat ≠ some s.arg.slot → ∃ t q,
      exec .heldWriteDepart s = .next t ∧ (getSlot t s.arg.slot).hold = rest ∧ t.mem = s.mem ∧ sfind t.net s.fresh = some q ∧ q.cargo = .event ∧
          q.dest = .task n.toNat) ∧
    (∀ g c n, h = .posting g c n → ∃ t, exec .heldWriteDepart s = .next t ∧ (getSlot t s.arg.slot).hold = rest ∧ t.mem = s.mem ∧
      ∀ x ∈ (coreOf t s.arg.slot.core).copies, x.id = c → x.posted = false ∧ x.seq = (groupAt (getSlot s s.arg.slot) g).seq)) ∧
  (∀ (s : State) (g : Nat) (pl : Place) (v : Word) (rest : List Held), (getSlot s s.arg.slot).hold = .rel g pl v :: rest →
    (getSlot s s.arg.slot).closing = true → groupReady s (groupAt (getSlot s s.arg.slot) g) = true →
    let gr := groupAt (getSlot s s.arg.slot) g
    ∃ t q, exec .relFlagDepart s = .next t ∧ (getSlot t s.arg.slot).hold = rest ∧ t.mem = s.mem ∧
      (¬ OnDie s s.arg.slot pl 8 .store → sfind t.net s.fresh = some q) ∧
      (OnDie s s.arg.slot pl 8 .store → ∃ e, (getSlot t s.arg.slot).storeBuf = (getSlot s s.arg.slot).storeBuf ++ [e] ∧ e.out = some q) ∧
      q.cargo = .flag gr.bytes v ∧ q.dest = (destOf pl).1 ∧
      groupAt (getSlot t s.arg.slot) g = { bind := none, bytes := 0, seq := (gr.seq + 1) % 16, last := sput gr.last gr.seq s.now }) ∧
  (∀ (s : State) (m : Staged) (rest : List Staged) (n : Nat) (cap : Capsule), (coreOf s s.arg.core).staged = m :: rest →
    (getSlot s ⟨s.arg.core, 4⟩).run = .unbound → (getSlot s ⟨s.arg.core, 4⟩).storeBuf = [] →
    (getSlot s ⟨s.arg.core, m.slot⟩).capsule = some n → (getSlot s ⟨s.arg.core, m.slot⟩).task = m.task → capAt s n = some cap →
    cap.stopped = none → cap.info.overflow ≠ 0xFFFFFFFF →
    ∃ t, exec .overflowActivation s = .next t ∧ t.mem = s.mem ∧
      let l := getSlot t ⟨s.arg.core, 4⟩
      l.run = .running ∧ l.pc = cap.info.code + BitVec.ofNat 64 cap.info.overflow ∧ xval l 2 = BitVec.ofNat 64 m.slot ∧
        l.serves = some (m.slot, m.task) ∧ l.capsule = some n ∧ l.region.entry = l.pc ∧ l.region.mask = 1)

/-! ### Steps of the copy engine and the cellars (18 R286 to R306; 23 R361 to R373) -/

/-- A piece on its way: the next piece of a copy is sent; its streamer reads it, performs its bytes at a destination on its own die and sends the
count, or sends them to another die; and the count reaches the channel, which completes when all is counted, and before which no byte bound for
the core's own pool is still under way (log 76). A piece that has been gone for 2 L_max faults the channel with LOST (18 R286, R291, R299, R301).
-/
def Sys2Proof.piecesGo : Prop :=
  (∀ (s : State) (x : Copy) (src : Place) (dsts : List Place), s.arg.flag = false → copyOn s s.arg.core s.arg.copy = some x →
    x.form ≠ .subscr → sfind x.served s.arg.at0 = none →
    let i : SlotId := ⟨s.arg.core, x.slot⟩
    let cut := copyCut s i x s.arg.at0
    let n := pieceLength (tableOf s i) cut
    pieceAllowed s i x s.arg.at0 = true → pieceResolve s i cut.src n .load = .ok src → (∀ a, src ≠ .peer a) →
    pieceDests s i x cut n = .ok dsts →
    ∃ t, exec .copyPieceServe s = .next t ∧ t.mem = s.mem ∧ t.net = s.net ∧ copyOn t s.arg.core x.id = some { x with
      served := sput x.served s.arg.at0 { len := n }, next := s.arg.at0 + n }) ∧
  (∀ (s : State) (x : Copy) (v : Served) (c1 c2 : CoreId) (o1 o2 : Nat), s.arg.flag = false → copyOn s s.arg.core s.arg.copy = some x →
    sfind x.served s.arg.at0 = some v → v.read = false → v.remote = false → x.group = none →
    let i : SlotId := ⟨s.arg.core, x.slot⟩
    let cut := copyCut s i x s.arg.at0
    pieceResolve s i cut.src v.len .load = .ok (.pool c1 o1) → pieceDests s i x cut v.len = .ok [.pool c2 o2] → dieOf c2 = dieOf c1 →
    0 < v.len → o2 % 64 + v.len ≤ 64 → (scratchHolder s c2 ((getSlot s i).capsule.getD 0) o2 v.len).isSome = true →
    (c2 = s.arg.core → ∀ l ∈ (coreOf s c2).locks, overlaps o2 v.len l.lo (l.hi - l.lo) = false) →
    ∃ t y q, exec .copyPieceServe s = .next t ∧
      t.mem = s.mem.write (poolKey c2 o2) (s.mem.raws v.len (poolKey c1 o1)) .clear (s.mem.anyPoison (poolKey c1 o1) v.len) ∧
      copyOn t s.arg.core x.id = some y ∧ sfind y.served s.arg.at0 = some { v with read := true } ∧
      sfind t.net s.fresh = some q ∧ q.cargo = .count x.id s.arg.at0 v.len 0 ∧ q.dest = .reply i) ∧
  (∀ (s : State) (x : Copy) (v : Served) (c1 : CoreId) (o1 cls a : Nat) (key : KeyId), s.arg.flag = false →
    copyOn s s.arg.core s.arg.copy = some x → sfind x.served s.arg.at0 = some v → v.read = false → v.remote = false → x.group = none →
    let i : SlotId := ⟨s.arg.core, x.slot⟩
    let cut := copyCut s i x s.arg.at0
    pieceResolve s i cut.src v.len .load = .ok (.pool c1 o1) → pieceDests s i x cut v.len = .ok [.mem cls a key] → cls = 0 ∨ cls = 3 →
    memDie s cls a ≠ dieOf c1 → 0 < v.len → a % 64 + v.len ≤ 64 →
    ∃ t y q, exec .copyPieceServe s = .next t ∧ t.mem = s.mem ∧ copyOn t s.arg.core x.id = some y ∧
      sfind y.served s.arg.at0 = some { v with read := true } ∧ sfind t.net s.fresh = some q ∧
      q.cargo = .write (s.mem.raws v.len (poolKey c1 o1)) (s.mem.anyPoison (poolKey c1 o1) v.len) ∧ q.dest = .mem cls a ∧ q.key = key ∧
      q.piece = some (x.id, s.arg.at0, 0)) ∧
  (∀ (s : State) (p : Packet) (i : SlotId) (x : Copy) (id b n j : Nat), sfind s.net s.arg.pkt = some p → p.hop = .target →
    (admitFlow s p).isSome = true → p.cargo = .count id b n j → p.dest = .reply i → notLanded s i id b j = false → copyOn s i.core id = some x →
        x.form = .cp →
    (chanAt (getSlot s i) x.ch).state = .active →
    let c := chanAt (getSlot s i) x.ch
    ∃ t, exec .channelCount s = .next t ∧ t.mem = s.mem ∧ sfind t.net s.arg.pkt = none ∧
      let c' := chanAt (getSlot t i) x.ch
      c'.arrived = c.arrived + n ∧ c'.expected = c.expected ∧ c'.state = (if c.arrived + n = c.expected then .complete else .active)) ∧
  (∀ (s : State) (p : Packet) (i : SlotId) (id b n j : Nat), sfind s.net s.arg.pkt = some p → p.cargo = .count id b n j → p.dest = .reply i →
    notLanded s i id b j = true → exec .channelCount s = .next s) ∧
  (∀ (s : State) (x : Copy) (v : Served) (time : Nat), copyOn s s.arg.core s.arg.copy = some x → x.form = .cp →
    sfind x.served s.arg.at0 = some v → v.remote = true → v.left = some time → time + 2 * Config.lifeMax ≤ s.now →
    (chanAt (getSlot s ⟨s.arg.core, x.slot⟩) x.ch).state ≠ .faulted →
    ∃ t f, exec .copyPieceLost s = .next t ∧ t.mem = s.mem ∧
      (chanAt (getSlot t ⟨s.arg.core, x.slot⟩) x.ch).state = .faulted ∧ (chanAt (getSlot t ⟨s.arg.core, x.slot⟩) x.ch).fault = some f ∧
      f.cause = .lost ∧ f.copy = x.id)

/-- `cp.dec` first reads the sequence word and opens the message under it; then it faults with TAGFAIL where the tag did not verify, with REPLAY
where the word is no longer what it was, and writes zeros; else the word is one higher and the plaintext stands at the destination. The
bytes are counted in each case (18 R302). A word in host memory waits for 8 tokens of a guarded world's bucket (25 R399). The model's choices: zeros
and fault in one moment (log 77), poison that marks either (log 86), the tokens of the compare-and-swap (log 49). -/
def Sys2Proof.decSteps : Prop :=
  ∀ (s : State) (x : Copy) (cls a : Nat) (key : KeyId) (w : Place), copyOn s s.arg.core s.arg.copy = some x → x.form = .dec →
    x.dead = false → decOwn s x = false ∨ x.served = [] → spaceOf x.dst = 0 → cls = 0 ∨ cls = 3 →
    let i : SlotId := ⟨s.arg.core, x.slot⟩
    let n := x.geom.xlen
    pieceResolve s i x.dst n .store = .ok (.mem cls a key) → decWord s i x = .ok (some w) → landBlocked s cls a n = false →
    writeBlocked s w 8 = false →
    let shut : Prop := ∃ k wkey wd, w = .mem 2 k wkey ∧ slotWorld s i = some wd ∧ bucketLets wd x.id 8 = false
    (∀ bs bad, x.opened = none → decSource s i x (n + 16) = .got bs bad → ∃ t, exec .decCopy s = .next t ∧ t.mem = s.mem ∧
      copyOn t s.arg.core x.id = some { x with opened := some (if (readPlace s w 8).2 then 2 ^ 64 else leNat (readPlace s w 8).1,
        gcmOpen (((slotWorld s i).map dataKey).getD []) (leBytes 4 x.geom.decstream.toNat ++ leBytes 8 (leNat (readPlace s w 8).1)) (leBytes 8 n)
          (bs.take n) (bs.drop n), bad) }) ∧
    (∀ q plain bad, x.opened = some (q, plain, bad) → (chanAt (getSlot s i) x.ch).state ≠ .faulted →
      (plain = none → ∃ t f, exec .decCopy s = .next t ∧ (chanAt (getSlot t i) x.ch).fault = some f ∧ f.cause = .tagfail ∧
        (chanAt (getSlot t i) x.ch).arrived = (chanAt (getSlot s i) x.ch).arrived + n ∧
        t.mem = s.mem.write (memKey cls a) (List.replicate n 0) key bad) ∧
      (plain ≠ none → shut → ∃ t, exec .decCopy s = .next t ∧ t = { s with hub := { s.hub with worlds := t.hub.worlds } }) ∧
      (plain ≠ none → ¬ shut → (readPlace s w 8).2 = true ∨ leNat (readPlace s w 8).1 ≠ q → ∃ t f, exec .decCopy s = .next t ∧
        (chanAt (getSlot t i) x.ch).fault = some f ∧ f.cause = .replay ∧
        (chanAt (getSlot t i) x.ch).arrived = (chanAt (getSlot s i) x.ch).arrived + n ∧
        t.mem = s.mem.write (memKey cls a) (List.replicate n 0) key bad) ∧
      (∀ d, plain = some d → ¬ shut → (readPlace s w 8).2 = false → leNat (readPlace s w 8).1 = q → ∃ t, exec .decCopy s = .next t ∧
        (chanAt (getSlot t i) x.ch).arrived = (chanAt (getSlot s i) x.ch).arrived + n ∧
        t.mem = (writePlace s w (leBytes 8 (q + 1)) false).mem.write (memKey cls a) d key bad))

/-- The copy engine accepts the oldest command of the queue whose turn it is, of at most 1,024 in flight; pieces go on and are counted; cp.dec
works in two accesses; a subscription starts where its racker has room for it among 32 (18 R287, R291, R301 to R304). -/
def Obligations.CopyEngineSteps : Prop :=
  piecesGo ∧ decSteps ∧
  (∀ (s : State) (j : Nat) (x : Copy) (rest : List Copy),
    ((coreOf s s.arg.core).copies.filter (inFlight s s.arg.core)).length < 1024 →
    (cpOrder (coreOf s s.arg.core)).find? (fun j => !(getSlot s ⟨s.arg.core, j⟩).cpQueue.isEmpty) = some j →
    (getSlot s ⟨s.arg.core, j⟩).cpQueue = x :: rest →
    ∃ t, exec .copyCommandAccept s = .next t ∧ (getSlot t ⟨s.arg.core, j⟩).cpQueue = rest ∧ t.mem = s.mem ∧
      (coreOf t s.arg.core).copies = (coreOf s s.arg.core).copies ++ [x] ∧ (coreOf t s.arg.core).cpLast = j) ∧
  (∀ (s : State) (x : Copy) (u : Sub), copyOn s s.arg.core s.arg.copy = some x →
    (chanAt (getSlot s ⟨s.arg.core, x.slot⟩) x.ch).sub = some u → u.started = false →
    256 ≤ rackerOf s ⟨s.arg.core, x.slot⟩ u ∨ rackerLoad s (rackerOf s ⟨s.arg.core, x.slot⟩ u) < 32 →
    ∃ t, exec .subscriptionStart s = .next t ∧ t.mem = s.mem ∧
      (chanAt (getSlot t ⟨s.arg.core, x.slot⟩) x.ch).sub = some { u with started := true })

/-- A cellar engine that serves a binding, with its binding. -/
abbrev Sys2Proof.Serves (s : State) (b : Binding) : Prop := bindingOf s s.arg.slice = some b

/-- The first event of the engine becomes a snapshot: of a block's intake, header and values, with the value written to its doorbell; or of a
command as it stood (23 R364, R365, R371). -/
def Sys2Proof.snapshotsTaken : Prop :=
  (∀ (s : State) (b : Binding) (i : Nat) (v : Word) (rest : List Bell) (k : Block), Serves s b →
    (engineAt s s.arg.slice).bells = .block i v :: rest → b.blocks[i]? = some k →
    let at0 := memKey k.cls (k.addr + intakeOffset b)
    let header := s.mem.read k.key 64 at0
    let len := if leNat ((header.drop 0x0A).take 1) = 1 then blockArray b / 2 else blockArray b
    ∃ t, exec .cellarDoorbell s = .next t ∧ t.mem = s.mem ∧ (engineAt t s.arg.slice).bells = rest ∧
      (engineAt t s.arg.slice).jobs = (engineAt s s.arg.slice).jobs ++
        [.gradient i v header (s.mem.read k.key len (at0 + 64)) (s.mem.anyPoison at0 (64 + len))]) ∧
  (∀ (s : State) (b : Binding) (op factor : Nat) (step : Word) (rest : List Bell), Serves s b →
    (engineAt s s.arg.slice).bells = .command op factor step :: rest →
    ∃ t, exec .cellarDoorbell s = .next t ∧ t.mem = s.mem ∧ (engineAt t s.arg.slice).bells = rest ∧
      (engineAt t s.arg.slice).jobs = (engineAt s s.arg.slice).jobs ++ [.command op factor step])

/-- OnDoorbell: the oldest snapshot is processed when the return buffer has room: a poisoned doorbell sets STATUS 2, a malformed header STATUS 1;
the next step applies with factor 1, or in norm mode with the factor of its CLIP, else it is staged; the same one returns the block again
and counts a duplicate, an older one counts as late, a later one as ahead, noted in AHEAD where it lies in reach (23 R367, R370, R371). -/
def Sys2Proof.doorbellsProcessed : Prop :=
  ∀ (s : State) (b : Binding) (i : Nat) (v : Word) (header values : List Byte) (bad : Bool) (rest : List Job) (k : Block), Serves s b →
    (engineAt s s.arg.slice).jobs = .gradient i v header values bad :: rest → b.blocks[i]? = some k →
    returnRoom b (engineAt s s.arg.slice) = true →
    let n := s.arg.slice
    let u := modEngine s n fun e => { e with jobs := rest }
    let step := leNat (header.take 8)
    let stamp := headField u k 0 8
    let bad1 := leNat ((header.drop 8).take 2) ≠ i ∨ 1 < leNat ((header.drop 10).take 1) ∨ leNat ((header.drop 11).take 1) ≠ 0 ∨
      leNat ((header.drop 24).take 40) ≠ 0 ∨ step ≠ v.toNat
    let clip := (engineAt u n).clip.filter fun c => c.1.toNat == step
    ∃ t, exec .cellarStep s = .next t ∧
      (v.getLsbD 63 = true → t = setStatus u k 2) ∧
      (v.getLsbD 63 = false → bad1 → t = setStatus u k 1) ∧
      (v.getLsbD 63 = false → ¬ bad1 →
        (step = stamp + 1 → b.norm = false → t = applyBlock u n b i k header values bad 0x3F800000) ∧
        (step = stamp + 1 → b.norm = true → headField u k 0x30 8 = step → t = raiseHead u k 0x10) ∧
        (∀ c, step = stamp + 1 → b.norm = true → headField u k 0x30 8 ≠ step → clip = some c →
          t = applyBlock u n b i k header values bad c.2) ∧
        (step = stamp + 1 → b.norm = true → headField u k 0x30 8 ≠ step → clip = none →
          sfind (engineAt t n).staged i = some (header, values, bad)) ∧
        (step = stamp → t = returnBlock (raiseHead u k 0x10) n b i k) ∧
        (step < stamp → t = raiseHead u k 0x14) ∧
        (stamp + 2 ≤ step → step < stamp + 66 →
          let w := raiseHead u k 0x18
          t = setHead w k 0x20 8 (headField w k 0x20 8 ||| 2 ^ (step - stamp - 2))) ∧
        (stamp + 66 ≤ step → t = raiseHead u k 0x18))

/-- CLIP is recorded and applies the staged blocks of the shard with its factor, one at a step where the return buffer has room, in norm mode;
PROMOTE makes a twin's engine send its shard's blocks, likewise; and then the command is done. In any other binding it is dropped (23
R371, R372). -/
def Sys2Proof.commandsProcessed : Prop :=
  ∀ (s : State) (b : Binding) (factor : Nat) (step : Word) (rest : List Job), Serves s b →
    let n := s.arg.slice
    let e := engineAt s n
    let staged : Nat × Block → Bool := fun k =>
      decide (e.cursor ≤ k.1) && (headField s k.2 0x30 8 == step.toNat && headField s k.2 0x1C 4 % 2 == 1)
    let left : Nat × Block → Bool := fun k => decide (e.cursor ≤ k.1)
    (e.jobs = .command 1 factor step :: rest →
      (b.norm = false → ∃ t, exec .clip s = .next t ∧ t.mem = s.mem ∧ (engineAt t n).jobs = rest) ∧
      (b.norm = true → (shard s b n).find? staged = none → ∃ t, exec .clip s = .next t ∧ t.mem = s.mem ∧ (engineAt t n).jobs = rest ∧
        (engineAt t n).cursor = 0 ∧ (engineAt t n).clip = some (step, factor)) ∧
      (∀ k, b.norm = true → (shard s b n).find? staged = some k → returnRoom b e = true →
        let u := modEngine (modEngine s n fun e => { e with clip := some (step, factor) }) n fun e => { e with cursor := k.1 + 1 }
        let g := stagedOf u n b k
        ∃ t, exec .clip s = .next t ∧ t.mem = (applyBlock u n b k.1 k.2 g.1 g.2.1 g.2.2 factor).mem ∧ (engineAt t n).jobs = e.jobs ∧
          (engineAt t n).cursor = k.1 + 1 ∧ (engineAt t n).clip = some (step, factor))) ∧
    (e.jobs = .command 2 factor step :: rest →
      (b.twin = false → ∃ t, exec .promote s = .next t ∧ t.mem = s.mem ∧ (engineAt t n).jobs = rest) ∧
      (b.twin = true → (shard s b n).find? (fun k => left k && true) = none → ∃ t, exec .promote s = .next t ∧ t.mem = s.mem ∧
        (engineAt t n).jobs = rest ∧ (engineAt t n).promoted = true) ∧
      (∀ k, b.twin = true → (shard s b n).find? (fun k => left k && true) = some k → returnRoom b e = true →
        exec .promote s = .next (returnBlock (modEngine (modEngine s n fun e => { e with promoted := true }) n
          fun e => { e with cursor := k.1 + 1 }) n b k.1 k.2)))

/-- The engine of a cellar: events become snapshots, snapshots are processed, commands act, and a return whose sequence may be used again
departs; a partial sum goes, with its flag, to the norm area (23 R365, R367, R371, R372). -/
def Obligations.CellarSteps : Prop :=
  snapshotsTaken ∧ doorbellsProcessed ∧ commandsProcessed ∧
  (∀ (s : State) (b : Binding) (cap : Nat) (r : Return), Serves s b → (engineAt s s.arg.slice).cap = some cap →
    (engineAt s s.arg.slice).returns.find? (fun r => decide (sget (engineAt s s.arg.slice).bound (engineAt s s.arg.slice).used
      (seqKey r.sub r.block r.seq) + tReuse s ≤ s.now)) = some r →
    ∃ t, exec .cellarPacketDepart s = .next t ∧ t.mem = s.mem ∧
      (engineAt t s.arg.slice).returns = (engineAt s s.arg.slice).returns.erase r ∧
      sfind (engineAt t s.arg.slice).used (seqKey r.sub r.block r.seq) = some s.now ∧
      (∀ nd, r.sub = none → b.norms = some nd → ∃ q ∈ t.net, q.2.cargo = .flag r.data.length r.value ∧
        q.2.dest = .mem nd.cls (r.dst.toNat + r.data.length)))

/-! ### Capsules (08 R162 to R186; 20 R326 to R333) -/

/-- DOORBELL of an enabled ring with the device in RUN starts a scan, and of any other has no effect; RING_RESET stops the ring's scan, leaves its
registers but ENABLE, which is as written with it (the model's reading, log 27), and writes zeros to both indices and to every ticket; it waits
where an intake or a doorbell that it meets takes no write (26 R407; 25 R401; 23 R365). -/
def Sys2Proof.ringsMove : Prop :=
  (∀ s : State, s.arg.ring < 64 →
    ((ringAt s s.arg.ring).on = true → s.hub.run = true → ∃ t, exec .doorbell s = .next t ∧ sget false t.hub.scanning s.arg.ring = true ∧
      (∀ n, n ≠ s.arg.ring → sget false t.hub.scanning n = sget false s.hub.scanning n) ∧
      t = { s with hub := { s.hub with scanning := t.hub.scanning } }) ∧
    ((ringAt s s.arg.ring).on = false ∨ s.hub.run = false → exec .doorbell s = .next s)) ∧
  (∀ s : State, s.arg.again = false → s.arg.ring < 64 →
    let r := ringAt s s.arg.ring
    (resetWaits s s.arg.ring = false → ∃ t, exec .ringReset s = .next t ∧ ringAt t s.arg.ring = { r with on := s.arg.flag } ∧
      sfind t.hub.scanning s.arg.ring = none ∧ (∀ n, n ≠ s.arg.ring → ringAt t n = ringAt s n) ∧
      (ringMapped s r = true → t.mem.read .clear 16 (memKey 0 r.base) = List.replicate 16 0 ∧
        ∀ i, i < 2 ^ r.log → t.mem.read .clear 8 (memKey 0 (r.base + 0x40 + 32 * i + 0x18)) = List.replicate 8 0)) ∧
    (resetWaits s s.arg.ring = true → exec .ringReset s =
      .next { s with deferred := s.deferred ++ [(.ringReset, { ring := s.arg.ring, flag := s.arg.flag })] }))

/-- Nothing is taken from a ring while a world closes, which goes on, or while the queue is full or the journal has no room or holds events; nor
where no ring has an entry that can be taken and read now (08 R179, R183, R417; 25 R396). -/
def Sys2Proof.acceptanceWaits : Prop :=
  ∀ s : State,
    (closingWorlds s ≠ [] → exec .capsuleAcceptance s = .next (closeMore s)) ∧
    (closingWorlds s = [] → queueFull s = true ∨ journalOpen s = false → exec .capsuleAcceptance s = .next s) ∧
    (closingWorlds s = [] → queueFull s = false → journalOpen s = true →
      (∀ e, nextEntry (endScans s) = some e →
        recordWaits (endScans s) e = true ∨ judgeWaits (endScans s) e = true ∨ indexWaits (endScans s) e = true) →
      exec .capsuleAcceptance s = .next (endScans s))

/-- The entry that CAPSULE_ACCEPTANCE takes: the queue and the journal have room, no world is closing, the entry's record and what it names can
be read now, and what acceptance writes meets no intake or doorbell that is held. -/
abbrev Sys2Proof.Takes (s : State) (e : Taken) : Prop :=
  closingWorlds s = [] ∧ queueFull s = false ∧ journalOpen s = true ∧ nextEntry (endScans s) = some e ∧
    recordWaits (endScans s) e = false ∧ judgeWaits (endScans s) e = false ∧ indexWaits (endScans s) e = false

/-- The state with that entry taken from its ring: the turn goes to the ring after it (08 R417). -/
def Sys2Proof.taken (s : State) (e : Taken) : State :=
  let u := touchTarget (takeEntry (endScans s) e) (e.target / 2 ^ 60) (e.target % 2 ^ 60) (recordLength (endScans s) e)
  { u with hub := { u.hub with turn := (e.ring + 1) % 80 } }

/-- What the hub still knows of entries that waited while a world closed, when entry `e` is past (25 R392). -/
def Sys2Proof.lateAfter (e : Taken) (l : List Late) : List Late := l.filter fun x => x.ring != e.ring || decide (e.index + 1 < x.upTo)

/-- The entry is rejected: one journal event with the code, and no capsule; an entry of a chain ring leaves its world (08 R172, R178, R418). -/
def Sys2Proof.Rejected (s v : State) (e : Taken) (code digest : Nat) : Prop :=
  let j := journal v { code := code, source := e.ring, cookie := e.cookie.toNat, digest := digest }
  let t := e.world.elim j (leaveWorld j)
  exec .capsuleAcceptance s = .next { t with hub := { t.hub with late := lateAfter e t.hub.late } }

/-- The state in which the format of a record is judged: what names the cellars of a CELLAR record has been read (09 R203). -/
def Sys2Proof.bindingRead (x : State) (p : Payload) (r : Record) : State := if r.flags.getLsbD 2 then touchBinding x p r else x

/-- The checks of 08 Table 8-5 in their order, each with its code: a record that cannot be read 0x25, the handle 0x21, the seal 0x22, an epoch
that is another or that has closed 0x21, the sequence word 0x23, the extents 0x24, the format 0x25, a counter that is not 0 yet 0x26, a
cohort too large 0x27 (08 R171; 25 R392). -/
def Sys2Proof.entriesRejected : Prop :=
  ∀ (s : State) (e : Taken), Takes s e →
    (readRecord (taken s e) e = none → Rejected s (taken s e) e 0x25 e.target) ∧
    ∀ r, readRecord (taken s e) e = some r →
      (fetchHandle (taken s e) r = none → Rejected s (taken s e) e 0x21 (recordDigest r)) ∧
      ∀ w d p, fetchHandle (taken s e) r = some (w, d, p) →
        (sealOk p r = false → Rejected s w e 0x22 (recordDigest r)) ∧
        (sealOk p r = true → epochWrong w p r = true ∨ epochClosed w e p r = true → Rejected s w e 0x21 (recordDigest r)) ∧
        (sealOk p r = true → epochWrong w p r = false → epochClosed w e p r = false → swapSequence w p r = none →
          Rejected s w e 0x23 (recordDigest r)) ∧
        ∀ x, sealOk p r = true → epochWrong w p r = false → epochClosed w e p r = false → swapSequence w p r = some x →
          let y := bindingRead x p r
          (extentsOk x p r = false → Rejected s x e 0x24 (recordDigest r)) ∧
          (extentsOk x p r = true → formatOk y e p r = false → Rejected s y e 0x25 (recordDigest r)) ∧
          (extentsOk x p r = true → formatOk y e p r = true → stillPending y e r = true → Rejected s y e 0x26 (recordDigest r)) ∧
          (extentsOk x p r = true → formatOk y e p r = true → stillPending y e r = false → cohortFits y r = false →
            Rejected s y e 0x27 (recordDigest r))

/-- A record that passes every check becomes a capsule: it waits with its record, priority and key handle under the next number, with the position
of its ACCEPTED entry; WORLD_OPEN follows where its world opens with it (08 R171, R174, R178, R183, Table 8-11). -/
def Sys2Proof.entriesAccepted : Prop :=
  ∀ (s : State) (e : Taken) (r : Record) (w x : State) (d : BitVec 256) (p : Payload), Takes s e →
    readRecord (taken s e) e = some r → fetchHandle (taken s e) r = some (w, d, p) → sealOk p r = true → epochWrong w p r = false →
    epochClosed w e p r = false → swapSequence w p r = some x → extentsOk x p r = true → formatOk (bindingRead x p r) e p r = true →
    stillPending (bindingRead x p r) e r = false → cohortFits (bindingRead x p r) r = true →
    let y := chargeAll (bindingRead x p r)
    let j := journal y { code := 0x10, source := e.ring, cookie := e.cookie.toNat, digest := recordDigest r }
    let k := if (joined j e p r).isSome then j else journal j
      { code := 0x11, source := 0xFFFF, cookie := r.chain.toNat, digest := digest16 (beBytes 32 (worldTag p.rootKey).toNat) }
    ∃ t c, exec .capsuleAcceptance s = .next t ∧ capAt t x.hub.capNo = some c ∧ c.info = r ∧ c.payload = p ∧ c.handle = d ∧
      c.pos = BitVec.ofNat 64 (nextPosition y) ∧ t.mem = k.mem ∧ t.hub.jhead = k.hub.jhead ∧ t.hub.jlast = k.hub.jlast ∧
      t.hub.jqueue = k.hub.jqueue ∧
      c.status = .queued ∧ c.priority = r.priority ∧ c.next = 0 ∧ c.source = e.ring ∧ c.cookie = e.cookie ∧ c.accepted = s.now ∧
      t.hub.capNo = x.hub.capNo + 1

/-- Rings and acceptance. -/
def Obligations.Acceptance : Prop := ringsMove ∧ acceptanceWaits ∧ entriesRejected ∧ entriesAccepted

/-- Beyond what the rings are charged nothing has changed: memory, the packets, the worlds, and every slot but for what it has been charged. -/
abbrev Sys2Proof.ChargedOnly (s t : State) : Prop :=
  t.mem = s.mem ∧ t.net = s.net ∧ t.hub.worlds = s.hub.worlds ∧
    ∀ i, ({ getSlot t i with charged := 0 } : Slot) = { getSlot s i with charged := 0 }

/-- What ring `r` is charged for now: a core-us for every microsecond that a slot has been bound to a tile task of a capsule of it and that it has
not been charged for (08 R183). -/
def Sys2Proof.chargeOf (s : State) (r : Nat) : Nat :=
  (((boundSlots s).filter fun i => ((getSlot s i).capsule.bind (capAt s)).elim false fun c => c.source == r).map fun i =>
    uncharged s (getSlot s i)).sum

/-- The dispatcher: PRIORITY_AGING lowers the effective priority of what waits by one for each 2 ms; DEFICIT_CHARGE charges every ring with
capsules waiting for the time that slots have been bound, and leaves the deficits of the others at 0; PLACE_GROUP brings ages, charges and the
waiting cohort's slots up to date and then places the next group of the chosen capsule, the first of its park record before any other, or the
whole of a cohort; COHORT_RESERVATION adds only slots that a member of the cohort may take; CODE_VERDICT gathers a code extent of host memory page
by page (09 R203), and with all of the code at hand ends the wait of a capsule whose code hashes to the record's digest, which the world's code
cache then holds, and ends any other capsule (08 R170, R183, R184; 20 R333). -/
def Obligations.Dispatching : Prop :=
  (∀ s : State, ∃ t, exec .priorityAging s = .next t ∧ t = { s with hub := { s.hub with capsules := t.hub.capsules } } ∧
    ∀ n c, capAt s n = some c → capAt t n = some (if waits c = true then
      { c with priority := c.info.priority - (s.now - c.accepted) / (2000000 * Config.nanosecond) } else c)) ∧
  (∀ s : State, ∃ t, exec .deficitCharge s = .next t ∧ ChargedOnly s t ∧ t.hub.capsules = s.hub.capsules ∧
    (∀ r, r ∉ waitingRings s → sget 0 t.hub.deficits r = 0) ∧
    ((boundSlots s).Nodup → ∀ r, r ∈ waitingRings s → sget 0 t.hub.deficits r = sget 0 s.hub.deficits r - (chargeOf s r : Int))) ∧
  (∀ (s u v : State) (n : Nat) (c : Capsule), chooseCapsule (toPlace s) = (u, some (n, c)) →
    placeNext u n c s.arg.homes s.arg.pools = some v → capAt u n = some c →
    ∃ t, exec .placeGroup s = .next t ∧ t.hub.lastPlaced = c.source ∧
      ∃ x, capAt t n = some x ∧ x.status = .running ∧ x.placed = u.now ∧
        (c.info.flags.getLsbD 0 = false → c.resume = [] → x.next = c.next + 1 ∧ x.resume = []) ∧
        (c.info.flags.getLsbD 0 = false → ∀ j js, parkedGroups c = j :: js →
          x.next = c.next ∧ x.resume = c.resume.filter fun b => groupNo c (fieldOf b 0 8) != j) ∧
        (c.info.flags.getLsbD 0 = true → c.next ≤ groupCount c.info → x.next = groupCount c.info ∧ x.resume = [])) ∧
  (∀ (s : State) (n : Nat) (c : Capsule), waitingCohort (ageAll s) = some (n, c) →
    let u := ageAll s
    ∃ t l, exec .cohortReservation s = .next t ∧ t.hub.cohort = some (n, l) ∧ (∀ i ∈ heldFor s n, i ∈ l) ∧
      (∀ i ∈ l, i ∈ heldFor s n ∨ memberOk u n c i = true) ∧ (l.length ≤ groupsLeft c * c.info.gang ∨ l = heldFor s n) ∧
      t = { u with hub := { u.hub with cohort := t.hub.cohort } }) ∧
  (∀ (s : State) (b c : Capsule), capAt s s.arg.cap = some b → b.verdict = true → b.status ≠ .queued →
    let u := gatherCode s s.arg.cap
    capAt u s.arg.cap = some c →
    (c.info = b.info ∧ c.world = b.world ∧ u.mem = s.mem ∧ ((∀ e, codeExtent b.info = some e → e.cls ≠ 2) → u = s ∧ codeGathered c = true)) ∧
    (codeGathered c = false → exec .codeVerdict s = .next u) ∧
    (codeGathered c = true → codeMatches u c = true → ∃ t d, exec .codeVerdict s = .next t ∧ t.mem = s.mem ∧ capAt t s.arg.cap = some d ∧
      d = { c with verdict := false, gathered := d.gathered } ∧
      ∀ w e, worldAt s c.world = some w → codeExtent c.info = some e → ∃ w', worldAt t c.world = some w' ∧
        ⟨targetForm e.cls e.target, e.length, c.info.digest⟩ ∈ w'.code) ∧
    (codeGathered c = true → codeMatches u c = false → ∃ t, exec .codeVerdict s = .next t ∧ capAt t s.arg.cap = none))

/-- The record of capsule State.arg.cap that goes into extent number `i` need not wait, or does not go there. -/
abbrev Sys2Proof.RecordFits (s : State) (c : Capsule) (i : Nat) : Prop :=
  ∀ e, extentAt c i = some e → recordWaitsAt s c e (parkSize s s.arg.cap c) = false

/-- How capsules end: a capsule that may complete, and whose counters can be written now, gathers what it is measured by from host memory (09
R203), and with all of it at hand is gone, and any other stays; a capsule with a fault that its policy does not halt drains, and once its tasks
have stopped and what they caused is over it is gone; parking stops one capsule, which then is gone, or faults where a task of it has faulted; a
queued capsule whose park extent holds no record starts afresh, one with a bad record faults with 0x8400, and one with a good record gets its slot
records, messages and next group back, and the record is void, which in a guarded world waits for the tokens of its four bytes in host memory (08
R173, R186; 20 R327, R328, R332; 25 R399). -/
def Obligations.CapsulesEnd : Prop :=
  (∀ (s : State) (c : Capsule), capAt s s.arg.cap = some c →
    (mayComplete s s.arg.cap c = true → countersWait s c = false → ∀ d, capAt (gatherMeasured s s.arg.cap) s.arg.cap = some d →
      (measureReady d = true → ∃ t, exec .capsuleCompletion s = .next t ∧ capAt t s.arg.cap = none) ∧
      (measureReady d = false → exec .capsuleCompletion s = .next (gatherMeasured s s.arg.cap))) ∧
    ((∀ q ∈ measuredExtents c, q.2.cls ≠ 2) → gatherMeasured s s.arg.cap = s ∧ measureReady c = true) ∧
    (mayComplete s s.arg.cap c = false ∨ countersWait s c = true → exec .capsuleCompletion s = .next s)) ∧
  (∀ (s : State) (c : Capsule) (f : FaultRec) (fs : List FaultRec), capAt s s.arg.cap = some c → c.faults = f :: fs →
    (c.status = .running → halts c = false → ∃ t, exec .capsuleFault s = .next t ∧
      capAt t s.arg.cap = some { c with status := .faulting } ∧ ChargedOnly s t ∧
      ∀ n, n ≠ s.arg.cap → capAt t n = capAt s n) ∧
    (c.status = .faulting → c.stopped = none → allStopped s s.arg.cap = true → ∃ t, exec .capsuleFault s = .next t ∧
      capAt t s.arg.cap = some { c with stopped := some s.now }) ∧
    (c.status = .faulting → c.stopped ≠ none → captureOver s s.arg.cap c = true → RecordFits s c c.info.faultq →
      ∃ t, exec .capsuleFault s = .next t ∧ capAt t s.arg.cap = none)) ∧
  (∀ (s : State) (u n : Nat) (c d : Capsule), blockedUrgent (ageAll s) = some (u, c) → chooseVictim (ageAll s) = some (n, d) →
    capAt (ageAll s) n = some d → (s.hub.capsules.any fun p => p.2.status == .parking) = false →
    ∃ t e, exec .parkCapsule s = .next t ∧ capAt t n = some e ∧ e.status = .parking ∧ e.stopped = some s.now) ∧
  (∀ (s : State) (c : Capsule), capAt s s.arg.cap = some c → c.status = .parking → captureOver s s.arg.cap c = true →
    (c.faults = [] → RecordFits s c c.info.park → ∃ t, exec .parkCaptureEnd s = .next t ∧ capAt t s.arg.cap = none) ∧
    (c.faults ≠ [] → ∃ t, exec .parkCaptureEnd s = .next t ∧ capAt t s.arg.cap = some { c with status := .faulting })) ∧
  (∀ (s : State) (c : Capsule) (e : Extent), capAt s s.arg.cap = some c → c.info.park ≠ 0xFFFF → c.checked = false →
    extentAt c c.info.park = some e → parkWaits s c e = false → landBlocked s e.cls e.target 4 = false →
    (readPark s c e = .absent → ∃ t, exec .resumeCapsule s = .next t ∧ t.mem = s.mem ∧
      capAt t s.arg.cap = some { c with checked := true }) ∧
    (readPark s c e = .bad → ∃ t, exec .resumeCapsule s = .next t ∧ t.mem = s.mem ∧
      capAt t s.arg.cap = some { c with checked := true, faults := c.faults ++ [⟨0x8400, 0, 0, 0⟩] }) ∧
    (∀ slots msgs next, readPark s c e = .good slots msgs next →
      (recordWaitsAt s c e 4 = true → exec .resumeCapsule s = .next (payRecord s s.arg.cap c e 4)) ∧
      (recordWaitsAt s c e 4 = false → ∃ t d, exec .resumeCapsule s = .next t ∧
        (e.cls ≠ 2 → t.mem = s.mem.write (memKey e.cls e.target) [0, 0, 0, 0] (extentKey c.payload c.info.chain e) false) ∧
        capAt t s.arg.cap = some d ∧ d = { c with checked := true, resume := slots, next := next, paid := 0, waitNo := d.waitNo
                                                  captured := msgs.map fun m => (none, m.1, m.2) })))

/-! ### What reaches the module from outside (09 R202 to R204; 21 R337, R339; 25; 26) -/

/-- Nothing that access `i` from outside keeps its order behind waits. -/
abbrev Sys2Proof.First (s : State) (i : Instr) : Prop := s.arg.again = false ∧ (s.deferred.any fun p => ordered p.1 i) = false

/-- Access `i` comes over a host link that is up, and nothing that came before it waits (09 R204; 11 R228). -/
abbrev Sys2Proof.AtOnce (s : State) (i : Instr) : Prop := First s i ∧ hostLinkUp s = true

/-- Translations and host accesses: an answer to a request fills the translation cache, from whose 4,096 entries the least recently used leaves,
and an invalidation empties it of its pages; the host reads and writes device memory within the map under the clear key; its AtomicOps exchange one
number; a read outside the map is an Unsupported Request; behind an access that waits, and over a link that is down, each waits
in its order (09 R203, R204; 11 R228; 21 R337; 26 R404; 10 Table 10-6). -/
def Sys2Proof.hostReaches : Prop :=
  (∀ s : State, s.hub.run = true → closingWorlds s = [] → ∃ t, exec .atsTranslationComplete s = .next t ∧ t.mem = s.mem ∧
    sfind t.hub.atc s.arg.addr = some ⟨s.arg.page, s.arg.canRead, s.arg.canWrite⟩ ∧
    (s.hub.atcOrder.length < 4096 → ∀ p, p ≠ s.arg.addr → sfind t.hub.atc p = sfind s.hub.atc p) ∧
    (∀ q qs, (s.hub.atcOrder.filter fun p => p != s.arg.addr) = q :: qs → 4096 ≤ qs.length + 1 → sfind t.hub.atc q = none)) ∧
  (∀ (s : State) (i : Instr), i = .hostMemoryAccess ∨ i = .hostAtomicop ∨ i = .atsInvalidation → s.arg.again = false →
    (s.deferred.any fun p => ordered p.1 i) = true ∨ hostLinkUp s = false →
    exec i s = .next { s with deferred := s.deferred ++ [(i, s.arg)] }) ∧
  (∀ s : State, AtOnce s .atsInvalidation → ∃ t, exec .atsInvalidation s = .next t ∧ t.mem = s.mem ∧
    t.outbox = s.outbox ++ [.invalidated s.arg.addr] ∧
    ∀ p, p ∈ t.hub.atc ↔ p ∈ s.hub.atc ∧ ¬ (s.arg.addr ≤ p.1 ∧ p.1 < s.arg.addr + Max.max 1 s.arg.len)) ∧
  (∀ s : State, AtOnce s .hostMemoryAccess →
    (s.arg.flag = false → s.arg.len ≠ 0 → targetOk s 0 s.arg.addr s.arg.len = true → exec .hostMemoryAccess s =
      .next { s with outbox := s.outbox ++ [.completion s.arg.addr (s.mem.read .clear s.arg.len (memKey 0 s.arg.addr))] }) ∧
    (s.arg.flag = true → s.arg.data ≠ [] → targetOk s 0 s.arg.addr s.arg.data.length = true →
      landBlocked s 0 s.arg.addr s.arg.data.length = false → ∃ t, exec .hostMemoryAccess s = .next t ∧
        t.mem = s.mem.write (memKey 0 s.arg.addr) s.arg.data .clear false ∧ t.outbox = s.outbox) ∧
    (s.arg.flag = false → s.arg.len ≠ 0 → targetOk s 0 s.arg.addr s.arg.len = false → ∃ t, exec .hostMemoryAccess s = .next t ∧
      t = { s with outbox := s.outbox ++ [.unsupported s.arg.addr] })) ∧
  (∀ s : State, AtOnce s .hostAtomicop → pcieAtomic s.arg.op s.arg.sz = true → targetOk s 0 s.arg.addr (asizeBytes s.arg.sz) = true →
    s.arg.addr % asizeBytes s.arg.sz = 0 → landBlocked s 0 s.arg.addr (asizeBytes s.arg.sz) = false →
    s.mem.anyPoison (memKey 0 s.arg.addr) (asizeBytes s.arg.sz) = false →
    let old := s.mem.read .clear (asizeBytes s.arg.sz) (memKey 0 s.arg.addr)
    ∃ t, exec .hostAtomicop s = .next t ∧ t.outbox = s.outbox ++ [.completion s.arg.addr old] ∧
      t.mem = (match atomicNew s.arg.op s.arg.sz (leNat old) s.arg.cmp s.arg.operand with
        | some v => s.mem.write (memKey 0 s.arg.addr) (leBytes (asizeBytes s.arg.sz) v) .clear false
        | none => s.mem))

/-- Links: a receiver takes the flit it waits for, and at a bad one returns a negative acknowledgement; a replay within 64 flits goes on; a link
that goes down, or whose replay fails, loses its packets and says so in PORTSTAT or CXLSTAT, and comes back retrained; a lost lane is noted
(21 R337; 26 R405, R413). A packet at the package switch that still climbs stands at no link, and is not lost: the model's choice (log 71). -/
def Sys2Proof.linksRun : Prop :=
  (∀ s : State, (linkAt s s.arg.link).down = false → (linkAt s s.arg.link).nak = false → s.arg.value = (linkAt s s.arg.link).expect →
    ∃ t, exec .linkFlitReceive s = .next t ∧
      (linkAt t s.arg.link).expect = (linkAt s s.arg.link).expect + (if s.arg.flag then 1 else 0) ∧
      (linkAt t s.arg.link).nak = !s.arg.flag ∧ ∀ n, n ≠ s.arg.link → linkAt t n = linkAt s n) ∧
  (∀ s : State, (linkAt s s.arg.link).nak = true → s.arg.flag = true → (linkAt s s.arg.link).next - (linkAt s s.arg.link).expect ≤ 64 →
    ∃ t, exec .flitReplay s = .next t ∧ linkAt t s.arg.link = { linkAt s s.arg.link with nak := false } ∧
      t = { s with hub := { s.hub with links := t.hub.links } }) ∧
  (∀ s : State, (linkAt s s.arg.link).nak = true →
    s.arg.flag = false ∨ 64 < (linkAt s s.arg.link).next - (linkAt s s.arg.link).expect → s.arg.value ≠ 1 →
    exec .flitReplay s = exec .linkDown s) ∧
  (∀ s : State, (s.net.map fun p => p.1).Nodup → ∃ t, exec .linkDown s = .next t ∧ (linkAt t s.arg.link).down = true ∧ t.mem = s.mem ∧
    (8 ≤ s.arg.link → s.arg.link < 104 → (sget {} t.hub.ports (s.arg.link - 8)).down = true) ∧
    (105 ≤ s.arg.link → s.arg.link < 113 → (sget {} t.hub.cxl (s.arg.link - 105)).up = false) ∧
    ∀ id p, sfind s.net id = some p → sfind t.net id =
      if nextLink s 0 p = some s.arg.link ∧ ¬ (p.hop = .package ∧ p.climb ≠ 0) then none else some p) ∧
  (∀ s : State, ∃ t, exec .linkRetrainComplete s = .next t ∧ (linkAt t s.arg.link).down = false ∧ (linkAt t s.arg.link).nak = false ∧
    (linkAt t s.arg.link).expect = (linkAt s s.arg.link).expect ∧ t.mem = s.mem) ∧
  (∀ s : State, s.arg.port < 96 → ∃ t, exec .laneLoss s = .next t ∧ (sget {} t.hub.ports s.arg.port).oneLane = true ∧
    (linkAt t (8 + s.arg.port)).oneLane = true ∧ t = { s with hub := { s.hub with ports := t.hub.ports, links := t.hub.links } })

/-- A packet that arrives at a port for this device enters where its tag verifies under an open world's key and its counter is new; a counter
seen before, or too old, or a tag that fails, is counted in CIPHER; one of a device outside the roster, or on a device without a number
of its own, is counted in DROP (21 R339; 25 R390). What makes one flow (`flowOf`) is the model's choice (log 54). -/
def Sys2Proof.portsAdmit : Prop :=
  ∀ (s : State) (p : Packet), s.arg.packet = some p → s.arg.port < 96 → (linkAt s (8 + s.arg.port)).down = false →
    (inRoster s p.srcDev.toNat = false ∨ ownDevice s = none → ∃ t, exec .portPacketReceive s = .next t ∧ t.net = s.net ∧ t.mem = s.mem ∧
      (sget {} t.hub.ports s.arg.port).drop = (sget {} s.hub.ports s.arg.port).drop + 1) ∧
    (∀ n w f, (ownDevice s).isSome = true → inRoster s p.srcDev.toNat = true → forUs s p = true → worldOfKey s p.portKey = some n →
      worldAt s n = some w → sget ⟨0, []⟩ w.received (flowOf p s.arg.port) = f →
      (p.intact = true → p.seq ∉ f.seen → f.next ≤ p.seq + 4096 → ∃ t q, exec .portPacketReceive s = .next t ∧ t.mem = s.mem ∧
        sfind t.net s.fresh = some q ∧ q.cargo = p.cargo ∧ q.dest = p.dest ∧ q.src = p.src ∧ q.key = p.key ∧ q.header = p.header ∧
        q.hop = .package ∧ q.climb = 0 ∧ q.inPort = 32 + s.arg.port ∧ q.age0 = p.age0 ∧ q.born = s.now ∧ q.inbound = true) ∧
      (p.intact = false ∨ p.seq ∈ f.seen ∨ p.seq + 4096 < f.next → ∃ t, exec .portPacketReceive s = .next t ∧ t.net = s.net ∧
        (dieAt t (destDie s p % 8)).cipher = (dieAt s (destDie s p % 8)).cipher + 1))

/-- A die's clock is that of its throttle or the one wanted; another one runs from the end of the cycle in hand on, whose successor is then the first,
and the cycles of one that stays are counted on (26 R414). -/
abbrev Sys2Proof.ClockFollows (s t : State) (d : Nat) : Prop :=
  (dieAt t d).clock = (if (dieAt t d).throttled = true then 8 else (dieAt t d).wanted) ∧
  ((dieAt t d).clock = (dieAt s d).clock → (dieAt t d).cycles = (dieAt s d).cycles ∧ (dieAt t d).since = (dieAt s d).since) ∧
  ((dieAt t d).clock ≠ (dieAt s d).clock → (dieAt t d).cycles = dieCycles s d + 1 ∧ (dieAt t d).since = nextCycle s d)

/-- The bucket, TDISP, IDE, CXL, power, temperature and soft errors (25 R399, R401; 26 R406, R414, Table 26-1; 16 R269). That a throttle's end
returns to the wanted clock and that another clock runs from the end of the cycle in hand (log 51), and that a soft error counts when it strikes (log
50), are the model's choices. -/
def Sys2Proof.moduleStates : Prop :=
  (∀ s : State, (∀ p ∈ s.hub.worlds, p.2.guarded = false) → exec .egressTokenTick s = .next (closeMore s) ∧
    (closingWorlds s = [] → closeMore s = s)) ∧
  (∀ (s : State) (n : Nat) (w : World), s.hub.worlds = [(n, w)] → w.live ≠ 0 → w.guarded = true → w.waiting = [] →
    let k := (s.now - w.ticked) / (1000 * Config.nanosecond)
    ∃ t, exec .egressTokenTick s = .next t ∧ t.mem = s.mem ∧
      t.hub.worlds = [(n, { w with tokens := Min.min w.burst (w.tokens + k * w.rate), ticked := w.ticked + k * (1000 * Config.nanosecond) })]) ∧
  (∀ s : State, exec .tdispStateChange s = .next { s with hub := { s.hub with run := s.arg.flag } }) ∧
  (∀ s : State, s.arg.stream < 4 → ∃ t, exec .ideKeyProgramming s = .next t ∧ sfind t.hub.ideKeys s.arg.stream = some s.arg.key ∧
    t = { s with hub := { s.hub with ideKeys := t.hub.ideKeys } }) ∧
  (∀ s : State, s.arg.port < 8 → ∃ t, exec .cxlLinkState s = .next t ∧
    (sget {} t.hub.cxl s.arg.port) = { (sget {} s.hub.cxl s.arg.port : CxlPort) with up := s.arg.flag, reports := s.arg.value } ∧
    (linkAt t (105 + s.arg.port)).down = !s.arg.flag ∧ t.mem = s.mem ∧
    (s.arg.flag = true → t = { s with hub := { s.hub with cxl := t.hub.cxl, links := t.hub.links } }) ∧
    (s.arg.flag = false → (s.net.map fun p => p.1).Nodup → ∀ id p, sfind s.net id = some p → sfind t.net id =
      if nextLink s 0 p = some (105 + s.arg.port) ∧ ¬ (p.hop = .package ∧ p.climb ≠ 0) then none else some p)) ∧
  (∀ s : State, s.arg.port < 8 → ∃ t, exec .expanderFailure s = .next t ∧
    (sget {} t.hub.cxl s.arg.port) = { (sget {} s.hub.cxl s.arg.port : CxlPort) with failed := true } ∧
    t = { s with hub := { s.hub with cxl := t.hub.cxl } }) ∧
  (∀ s : State, s.arg.die < 8 → ∃ t, exec .powerLimitControl s = .next t ∧ t.hub.modPower = s.arg.value ∧
    (dieAt t s.arg.die).power = s.arg.len ∧ ClockFollows s t s.arg.die ∧
    (s.hub.powerLim < s.arg.value → (dieAt t s.arg.die).wanted = Max.max 8 ((dieAt s s.arg.die).wanted - 1)) ∧
    (s.arg.value ≤ s.hub.powerLim → s.arg.flag = false → (dieAt t s.arg.die).wanted = (dieAt s s.arg.die).wanted)) ∧
  (∀ s : State, exec .thermalThrottleEnd s = exec .thermalThrottle s ∧ (1150 ≤ s.arg.value → exec .thermalShutdown s = exec .thermalThrottle s)) ∧
  (∀ s : State, s.arg.die < 8 → 1000 ≤ s.arg.value → s.arg.value < 1150 → ∃ t, exec .thermalThrottle s = .next t ∧
      (dieAt t s.arg.die).throttled = true ∧
    (dieAt t s.arg.die).clock = 8 ∧ ClockFollows s t s.arg.die ∧ (dieAt t s.arg.die).temp = s.arg.value) ∧
  (∀ s : State, s.arg.die < 8 → s.arg.value < 950 → ∃ t, exec .thermalThrottleEnd s = .next t ∧ (dieAt t s.arg.die).throttled = false ∧
    (dieAt t s.arg.die).clock = (dieAt s s.arg.die).wanted ∧ ClockFollows s t s.arg.die) ∧
  (∀ s : State, 1150 ≤ s.arg.value → ∃ t, exec .thermalShutdown s = .next t ∧ t.powered = false ∧
    ∀ k, k < memKey 2 0 ∨ memKey 3 0 ≤ k → t.mem.raw k = 0) ∧
  (∀ s : State, s.arg.port = 0 → ∃ t, exec .softError s = .next t ∧ t.mem.poisoned (poolKey s.arg.core s.arg.offset) = true ∧
    t.mem.cells = s.mem.cells ∧ (dieAt t (dieOf s.arg.core)).softerr = (dieAt s (dieOf s.arg.core)).softerr + 1)

/-- What the outside world does to the module. -/
def Obligations.OutsideEvents : Prop := hostReaches ∧ linksRun ∧ portsAdmit ∧ moduleStates

/-- Registers: a read gives the register's value, but of a register not marked A while a guarded world is open it gives 0 and sets WITHHELD; a write
in range takes effect, out of range or to a drained-only field with the module not drained it sets CFGREJ instead, and a new SPOOL or CXL map
leaves every byte in its group or behind its port; RCTL.RESET resets its ring; FMKEY is written once; a roster with a newer version that
verifies is installed, and another journalled; a CXL port takes what its expander reports (25 R400; 26 R405 to R408). HOST_READ_WITHHELD as a
read of any register, and offsets without a register that read 0, are the model's choice (logs 55, 27). -/
def Sys2Proof.registersWork : Prop :=
  (∀ s : State, let o := s.arg.addr / 8 * 8
    (restricted o = false ∨ guardedOpen s = false →
      exec .hostReadWithheld s = .next { s with outbox := s.outbox ++ [.register o (registerValue s o)] }) ∧
    (restricted o = true → guardedOpen s = true → ∃ t, exec .hostReadWithheld s = .next t ∧ t.hub.withheld = true ∧
      t.outbox = s.outbox ++ [.register o 0])) ∧
  (∀ s : State, s.arg.addr = 0x140 →
    (s.arg.value < 10 → exec .registerWrite s = .next { s with hub := { s.hub with cfgrej := true } }) ∧
    (10 ≤ s.arg.value → s.arg.value ≤ 10000 → exec .registerWrite s = .next { s with hub := { s.hub with twait := s.arg.value } }) ∧
    (10000 < s.arg.value → s.arg.value < 2 ^ 64 → exec .registerWrite s = .next { s with hub := { s.hub with cfgrej := true } })) ∧
  (∀ s : State, s.arg.addr = 0x138 → s.arg.value ≤ 31 →
    (isDrained s = true → exec .registerWrite s = .next (keepBytes s { s with hub := { s.hub with spool := s.arg.value } })) ∧
    (isDrained s = false → exec .registerWrite s = .next { s with hub := { s.hub with cfgrej := true } })) ∧
  (∀ (s : State) (n : Nat), n < 64 → s.arg.addr = 0x1000 + 32 * n + 16 → s.arg.value < 2 ^ 64 → s.arg.value.testBit 1 = true →
    resetWaits s n = false → ∃ t, exec .registerWrite s = .next t ∧ ringAt t n = { ringAt s n with on := s.arg.value % 2 == 1 } ∧
      sfind t.hub.scanning n = none ∧ ∀ m, m ≠ n → ringAt t m = ringAt s m) ∧
  (∀ s : State, (s.hub.fmkey = none → exec .fmkeyWrite s = .next { s with hub := { s.hub with fmkey := some s.arg.key } }) ∧
    (s.hub.fmkey ≠ none → exec .fmkeyWrite s = .next { s with hub := { s.hub with cfgrej := true } })) ∧
  (∀ s : State, ∃ t, exec .rosterInstall s = .next t ∧
    (∀ v l, readRoster s s.arg.addr = some (v, l) → s.hub.rosterVersion < v →
      t = { s with hub := { s.hub with rosterVersion := v, roster := l } }) ∧
    ((∀ v l, readRoster s s.arg.addr = some (v, l) → ¬ s.hub.rosterVersion < v) → t = journal s { code := 0x54, source := 0xFFFF })) ∧
  (∀ s : State, s.arg.port < 8 → isDrained s = true → s.arg.value % 2 = 1 →
    bits s.arg.value 8 16 ≤ (sget {} s.hub.cxl s.arg.port : CxlPort).reports → cxlTotal s s.arg.port true (bits s.arg.value 8 16) ≤ 16384 →
    ∃ t, exec .cxlPortConfig s = .next t ∧ t = keepBytes s { s with hub := { s.hub with cxl := t.hub.cxl } } ∧
      sget {} t.hub.cxl s.arg.port = { (sget {} s.hub.cxl s.arg.port : CxlPort) with on := true, capacity := bits s.arg.value 8 16 })

/-- Firmware and the debug path: an accepted image for a die makes it drain, and a refused one is journalled; once drained the controller restarts
on it and drains no more; one for the hub empties the handle cache, and the hub restarts on it with no die drained; a debug read gives a register
or memory's bytes, and takes their number from a guarded world's bucket, or waits for them behind the requests before it (26 R409 to R411; 25
R399). That an image is in force at the restart even where negotiation fails is the model's choice (log 53). -/
def Sys2Proof.firmwareAndDebug : Prop :=
  (∀ s : State, s.hub.update = none → bits (s.arg.value % 2 ^ 64) 60 4 < 8 →
    let d := bits (s.arg.value % 2 ^ 64) 60 4
    let image := (readTarget s 0 (bits (s.arg.value % 2 ^ 64) 0 40) .clear s.arg.len).getD []
    let v := { s with hub := { s.hub with fwReg := BitVec.ofNat 64 (d * 2 ^ 60 + bits (s.arg.value % 2 ^ 64) 0 40) } }
    ∃ t, exec .firmwareUpdate s = .next t ∧
      (Config.imageAccepted d image = true → t.mem = s.mem ∧ (dieAt t d).draining = true ∧
        (t.hub.update.map fun u => (u.target, u.image.digest)) = some (d, digest256 image)) ∧
      (Config.imageAccepted d image = false →
        t = journal v { code := 0x56, source := 0xFFFF, detail := d, digest := digest16 (beBytes 32 (digest256 image).toNat) })) ∧
  (∀ s : State, s.hub.update.isSome = true → ∃ t, exec .firmwareUpdate s = .next t ∧ t = { s with hub := { s.hub with cfgrej := true } }) ∧
  (∀ (s : State) (u : Update), s.hub.update = some u → u.target < 8 → dieDrained s u.target = true → ∃ t,
    exec .firmwareRestart s = .next t ∧ t.hub.update = none ∧ sfind t.hub.images (u.target + 1) = some u.image ∧
      (dieAt t u.target).draining = false) ∧
  (∀ s : State, s.hub.update = none → bits (s.arg.value % 2 ^ 64) 60 4 = 8 →
    let image := (readTarget s 0 (bits (s.arg.value % 2 ^ 64) 0 40) .clear s.arg.len).getD []
    Config.imageAccepted 8 image = true → ∃ t, exec .firmwareUpdate s = .next t ∧ t.mem = s.mem ∧ t.dies = s.dies ∧ t.hub.handles = [] ∧
      (t.hub.update.map fun u => (u.target, u.image.digest)) = some (8, digest256 image)) ∧
  (∀ (s : State) (u : Update), s.hub.update = some u → u.target = 8 → ∃ t, exec .firmwareRestart s = .next t ∧ t.hub.update = none ∧
    sfind t.hub.images 0 = some u.image ∧ t.dies = s.dies) ∧
  (∀ s : State, First s .debugRead → s.hub.worlds = [] → ∃ t bs, exec .debugRead s = .next t ∧ t = { s with outbox := s.outbox ++ [.debug bs] } ∧
    (s.arg.flag = true → bs = leBytes 8 (registerValue s (s.arg.addr / 8 * 8))) ∧
    (s.arg.flag = false → targetOk s 0 s.arg.addr s.arg.len = true → bs = s.mem.read .clear s.arg.len (memKey 0 s.arg.addr))) ∧
  (∀ (s : State) (n : Nat) (w : World), First s .debugRead → s.hub.worlds = [(n, w)] → w.guarded = true → w.waiting = [] →
    (debugBytes s).length ≤ w.tokens →
    ∃ t, exec .debugRead s = .next t ∧ t.mem = s.mem ∧
      t.hub.worlds = [(n, { w with tokens := w.tokens - (debugBytes s).length })]) ∧
  (∀ (s : State) (n : Nat) (w : World), First s .debugRead → s.hub.worlds = [(n, w)] → w.guarded = true →
    w.waiting ≠ [] ∨ w.tokens < (debugBytes s).length →
    ∃ t, exec .debugRead s = .next t ∧ t.mem = s.mem ∧ t.outbox = s.outbox ∧
      t.hub.worlds = [(n, { w with waiting := w.waiting ++ [s.fresh] })] ∧
      t.deferred = s.deferred ++ [(.debugRead, { s.arg with copy := s.fresh })])

/-- The state in which the host has consumed the entries below State.arg.value. -/
def Sys2Proof.consumed (s : State) : State := { s with hub := { s.hub with jconsumed := s.arg.value % 2 ^ 64 } }

/-- The journal: where there is room and nothing is held, an event is the next entry, 64 bytes at its place in the ring, linked to the one before;
else it is held, or counted as lost where 1,024 are held; when the host has consumed, JOURNAL_LOST is written first where events were lost, and then
the held events one after the other while there is room, a WORLD_CLOSE with its receipt; and a root that is due goes to its slot and empties the
batch (25 R395 to R398). That the place of an entry takes no write while an intake or a doorbell there is held is 23 R365. -/
def Sys2Proof.journalWorks : Prop :=
  (∀ (s : State) (e : Event), let t := writeEntry s e
    s.hub.jhead ≠ 0 → t.hub.jhead = s.hub.jhead + 1 ∧ t.hub.jlast.length = 64 ∧
      t.mem = s.mem.write (memKey 0 (s.hub.jbase + 64 * (s.hub.jhead % 2 ^ s.hub.jlog))) t.hub.jlast .clear false ∧
      t.hub.jlast.drop 48 = (sha256 s.hub.jlast).take 16 ∧
      t.hub.jlast.take 20 = leBytes 8 s.hub.jhead ++ leBytes 8 (s.now / Config.nanosecond) ++ leBytes 2 e.code ++ leBytes 2 e.source) ∧
  (∀ (s : State) (e : Event), s.hub.jhead ≠ 0 →
    (journalOpen s = true → journal s e = writeEntry s e) ∧
    (journalOpen s = false → s.hub.jqueue.length < 1024 → journal s e = { s with hub := { s.hub with jqueue := s.hub.jqueue ++ [e] } }) ∧
    (journalOpen s = false → 1024 ≤ s.hub.jqueue.length → journal s e = { s with hub := { s.hub with jlost := s.hub.jlost + 1 } })) ∧
  (∀ s : State, let u := consumed s
    (s.hub.jlost = 0 → s.hub.jqueue = [] → exec .jconsumedWrite s = .next u) ∧
    (journalFull u = true ∨ headBlocked u = true → exec .jconsumedWrite s = .next u) ∧
    (journalFull u = false → headBlocked u = false → s.hub.jlost ≠ 0 → exec .jconsumedWrite s = exec .jconsumedWrite
      (writeEntry { u with hub := { u.hub with jlost := 0 } }
        { code := 0x53, source := 0xFFFF, detail := Min.min s.hub.jlost 0xFFFFFFFF })) ∧
    (∀ e q, journalFull u = false → headBlocked u = false → s.hub.jlost = 0 → s.hub.jqueue = e :: q → e.receipt = none →
      exec .jconsumedWrite s = exec .jconsumedWrite (writeEntry { u with hub := { u.hub with jqueue := q } } e)) ∧
    (∀ e q w, journalFull u = false → headBlocked u = false → s.hub.jlost = 0 → s.hub.jqueue = e :: q → e.receipt = some w →
      s.hub.batch.length < 4096 → s.hub.jqueue.length ≤ 1024 → s.bindings = [] → exec .jconsumedWrite s = exec .jconsumedWrite
        (issueReceipt (writeEntry { u with hub := { u.hub with jqueue := q } } { e with receipt := none }) w s.hub.jhead))) ∧
  (∀ s : State, rootDue s = true → s.hub.jhead ≠ 0 → s.hub.jqueue = [] → journalOpen s = true → landBlocked s 0 (rootAt s) 17248 = false →
    s.bindings = [] → ∃ t, exec .rootSign s = .next t ∧ t.hub.batch = [] ∧ t.hub.batchNo = s.hub.batchNo + 1 ∧ t.hub.jhead = s.hub.jhead + 1 ∧
      t.hub.rootAddr = s.hub.rcptBase + 256 * 2 ^ s.hub.rcptLog + 32768 * (s.hub.batchNo % 8))

/-- Registers, firmware, the debug path and the journal. -/
def Obligations.Management : Prop := registersWork ∧ firmwareAndDebug ∧ journalWorks
end

