-- ==== Sys2Proof/Laws/Exec.lean ====
section
/-! SUPPORT. The meaning of each instruction, as exec dispatches it: one equation for each constructor. -/

namespace Sys2Proof.Laws

open Sys2Proof.Machine

set_option maxRecDepth 4000

@[simp] theorem exec_deviceReset (s : State) : exec (.deviceReset) s = execDeviceReset s := rfl
@[simp] theorem exec_doorbell (s : State) : exec (.doorbell) s = execDoorbell s := rfl
@[simp] theorem exec_ringReset (s : State) : exec (.ringReset) s = execRingReset s := rfl
@[simp] theorem exec_capsuleAcceptance (s : State) : exec (.capsuleAcceptance) s = execCapsuleAcceptance s := rfl
@[simp] theorem exec_codeVerdict (s : State) : exec (.codeVerdict) s = execCodeVerdict s := rfl
@[simp] theorem exec_placeGroup (s : State) : exec (.placeGroup) s = execPlaceGroup s := rfl
@[simp] theorem exec_priorityAging (s : State) : exec (.priorityAging) s = execPriorityAging s := rfl
@[simp] theorem exec_deficitCharge (s : State) : exec (.deficitCharge) s = execDeficitCharge s := rfl
@[simp] theorem exec_cohortReservation (s : State) : exec (.cohortReservation) s = execCohortReservation s := rfl
@[simp] theorem exec_parkCapsule (s : State) : exec (.parkCapsule) s = execParkCapsule s := rfl
@[simp] theorem exec_parkCaptureEnd (s : State) : exec (.parkCaptureEnd) s = execParkCaptureEnd s := rfl
@[simp] theorem exec_resumeCapsule (s : State) : exec (.resumeCapsule) s = execResumeCapsule s := rfl
@[simp] theorem exec_capsuleCompletion (s : State) : exec (.capsuleCompletion) s = execCapsuleCompletion s := rfl
@[simp] theorem exec_capsuleFault (s : State) : exec (.capsuleFault) s = execCapsuleFault s := rfl
@[simp] theorem exec_messageArrival (s : State) : exec (.messageArrival) s = execMessageArrival s := rfl
@[simp] theorem exec_overflowActivation (s : State) : exec (.overflowActivation) s = execOverflowActivation s := rfl
@[simp] theorem exec_sevArrival (s : State) : exec (.sevArrival) s = execSevArrival s := rfl
@[simp] theorem exec_remoteAccessArrival (s : State) : exec (.remoteAccessArrival) s = execRemoteAccessArrival s := rfl
@[simp] theorem exec_accessResponse (s : State) : exec (.accessResponse) s = execAccessResponse s := rfl
@[simp] theorem exec_responseTimeout (s : State) : exec (.responseTimeout) s = execResponseTimeout s := rfl
@[simp] theorem exec_atsTranslationComplete (s : State) : exec (.atsTranslationComplete) s = execAtsTranslationComplete s := rfl
@[simp] theorem exec_atsInvalidation (s : State) : exec (.atsInvalidation) s = execAtsInvalidation s := rfl
@[simp] theorem exec_hostMemoryAccess (s : State) : exec (.hostMemoryAccess) s = execHostMemoryAccess s := rfl
@[simp] theorem exec_heldWriteDepart (s : State) : exec (.heldWriteDepart) s = execHeldWriteDepart s := rfl
@[simp] theorem exec_relFlagDepart (s : State) : exec (.relFlagDepart) s = execRelFlagDepart s := rfl
@[simp] theorem exec_engineCommandStart (s : State) : exec (.engineCommandStart) s = execEngineCommandStart s := rfl
@[simp] theorem exec_engineCommandRetire (s : State) : exec (.engineCommandRetire) s = execEngineCommandRetire s := rfl
@[simp] theorem exec_copyCommandAccept (s : State) : exec (.copyCommandAccept) s = execCopyCommandAccept s := rfl
@[simp] theorem exec_copyPieceServe (s : State) : exec (.copyPieceServe) s = execCopyPieceServe s := rfl
@[simp] theorem exec_decCopy (s : State) : exec (.decCopy) s = execDecCopy s := rfl
@[simp] theorem exec_channelCount (s : State) : exec (.channelCount) s = execChannelCount s := rfl
@[simp] theorem exec_copyPieceLost (s : State) : exec (.copyPieceLost) s = execCopyPieceLost s := rfl
@[simp] theorem exec_subscriptionStart (s : State) : exec (.subscriptionStart) s = execSubscriptionStart s := rfl
@[simp] theorem exec_switchForward (s : State) : exec (.switchForward) s = execSwitchForward s := rfl
@[simp] theorem exec_linkFlitReceive (s : State) : exec (.linkFlitReceive) s = execLinkFlitReceive s := rfl
@[simp] theorem exec_flitReplay (s : State) : exec (.flitReplay) s = execFlitReplay s := rfl
@[simp] theorem exec_linkDown (s : State) : exec (.linkDown) s = execLinkDown s := rfl
@[simp] theorem exec_laneLoss (s : State) : exec (.laneLoss) s = execLaneLoss s := rfl
@[simp] theorem exec_portPacketReceive (s : State) : exec (.portPacketReceive) s = execPortPacketReceive s := rfl
@[simp] theorem exec_countedPacketArrival (s : State) : exec (.countedPacketArrival) s = execCountedPacketArrival s := rfl
@[simp] theorem exec_arrivalTimeout (s : State) : exec (.arrivalTimeout) s = execArrivalTimeout s := rfl
@[simp] theorem exec_arrivalOrphan (s : State) : exec (.arrivalOrphan) s = execArrivalOrphan s := rfl
@[simp] theorem exec_rosterInstall (s : State) : exec (.rosterInstall) s = execRosterInstall s := rfl
@[simp] theorem exec_fmkeyWrite (s : State) : exec (.fmkeyWrite) s = execFmkeyWrite s := rfl
@[simp] theorem exec_cellarDoorbell (s : State) : exec (.cellarDoorbell) s = execCellarDoorbell s := rfl
@[simp] theorem exec_cellarStep (s : State) : exec (.cellarStep) s = execCellarStep s := rfl
@[simp] theorem exec_cellarPacketDepart (s : State) : exec (.cellarPacketDepart) s = execCellarPacketDepart s := rfl
@[simp] theorem exec_clip (s : State) : exec (.clip) s = execClip s := rfl
@[simp] theorem exec_promote (s : State) : exec (.promote) s = execPromote s := rfl
@[simp] theorem exec_rootSign (s : State) : exec (.rootSign) s = execRootSign s := rfl
@[simp] theorem exec_egressTokenTick (s : State) : exec (.egressTokenTick) s = execEgressTokenTick s := rfl
@[simp] theorem exec_hostReadWithheld (s : State) : exec (.hostReadWithheld) s = execHostReadWithheld s := rfl
@[simp] theorem exec_jconsumedWrite (s : State) : exec (.jconsumedWrite) s = execJconsumedWrite s := rfl
@[simp] theorem exec_firmwareUpdate (s : State) : exec (.firmwareUpdate) s = execFirmwareUpdate s := rfl
@[simp] theorem exec_firmwareRestart (s : State) : exec (.firmwareRestart) s = execFirmwareRestart s := rfl
@[simp] theorem exec_cxlPortConfig (s : State) : exec (.cxlPortConfig) s = execCxlPortConfig s := rfl
@[simp] theorem exec_registerWrite (s : State) : exec (.registerWrite) s = execRegisterWrite s := rfl
@[simp] theorem exec_debugRead (s : State) : exec (.debugRead) s = execDebugRead s := rfl
@[simp] theorem exec_powerLimitControl (s : State) : exec (.powerLimitControl) s = execPowerLimitControl s := rfl
@[simp] theorem exec_thermalThrottle (s : State) : exec (.thermalThrottle) s = execThermalThrottle s := rfl
@[simp] theorem exec_thermalShutdown (s : State) : exec (.thermalShutdown) s = execThermalShutdown s := rfl
@[simp] theorem exec_tdispStateChange (s : State) : exec (.tdispStateChange) s = execTdispStateChange s := rfl
@[simp] theorem exec_expanderFailure (s : State) : exec (.expanderFailure) s = execExpanderFailure s := rfl
@[simp] theorem exec_add (d a b : BitVec 5) (s : State) : exec (.add d a b) s = execAdd d a b s := rfl
@[simp] theorem exec_sub (d a b : BitVec 5) (s : State) : exec (.sub d a b) s = execSub d a b s := rfl
@[simp] theorem exec_and (d a b : BitVec 5) (s : State) : exec (.and d a b) s = execAnd d a b s := rfl
@[simp] theorem exec_or (d a b : BitVec 5) (s : State) : exec (.or d a b) s = execOr d a b s := rfl
@[simp] theorem exec_xor (d a b : BitVec 5) (s : State) : exec (.xor d a b) s = execXor d a b s := rfl
@[simp] theorem exec_andn (d a b : BitVec 5) (s : State) : exec (.andn d a b) s = execAndn d a b s := rfl
@[simp] theorem exec_orn (d a b : BitVec 5) (s : State) : exec (.orn d a b) s = execOrn d a b s := rfl
@[simp] theorem exec_xnor (d a b : BitVec 5) (s : State) : exec (.xnor d a b) s = execXnor d a b s := rfl
@[simp] theorem exec_sll (d a b : BitVec 5) (s : State) : exec (.sll d a b) s = execSll d a b s := rfl
@[simp] theorem exec_srl (d a b : BitVec 5) (s : State) : exec (.srl d a b) s = execSrl d a b s := rfl
@[simp] theorem exec_sra (d a b : BitVec 5) (s : State) : exec (.sra d a b) s = execSra d a b s := rfl
@[simp] theorem exec_rol (d a b : BitVec 5) (s : State) : exec (.rol d a b) s = execRol d a b s := rfl
@[simp] theorem exec_ror (d a b : BitVec 5) (s : State) : exec (.ror d a b) s = execRor d a b s := rfl
@[simp] theorem exec_slt (d a b : BitVec 5) (s : State) : exec (.slt d a b) s = execSlt d a b s := rfl
@[simp] theorem exec_sltu (d a b : BitVec 5) (s : State) : exec (.sltu d a b) s = execSltu d a b s := rfl
@[simp] theorem exec_seq (d a b : BitVec 5) (s : State) : exec (.seq d a b) s = execSeq d a b s := rfl
@[simp] theorem exec_min (d a b : BitVec 5) (s : State) : exec (.min d a b) s = execMin d a b s := rfl
@[simp] theorem exec_max (d a b : BitVec 5) (s : State) : exec (.max d a b) s = execMax d a b s := rfl
@[simp] theorem exec_minu (d a b : BitVec 5) (s : State) : exec (.minu d a b) s = execMinu d a b s := rfl
@[simp] theorem exec_maxu (d a b : BitVec 5) (s : State) : exec (.maxu d a b) s = execMaxu d a b s := rfl
@[simp] theorem exec_csel (d a b c : BitVec 5) (s : State) : exec (.csel d a b c) s = execCsel d a b c s := rfl
@[simp] theorem exec_mul (d a b : BitVec 5) (s : State) : exec (.mul d a b) s = execMul d a b s := rfl
@[simp] theorem exec_mulh (d a b : BitVec 5) (s : State) : exec (.mulh d a b) s = execMulh d a b s := rfl
@[simp] theorem exec_mulhu (d a b : BitVec 5) (s : State) : exec (.mulhu d a b) s = execMulhu d a b s := rfl
@[simp] theorem exec_div (d a b : BitVec 5) (s : State) : exec (.div d a b) s = execDiv d a b s := rfl
@[simp] theorem exec_divu (d a b : BitVec 5) (s : State) : exec (.divu d a b) s = execDivu d a b s := rfl
@[simp] theorem exec_rem (d a b : BitVec 5) (s : State) : exec (.rem d a b) s = execRem d a b s := rfl
@[simp] theorem exec_remu (d a b : BitVec 5) (s : State) : exec (.remu d a b) s = execRemu d a b s := rfl
@[simp] theorem exec_clz (d a : BitVec 5) (s : State) : exec (.clz d a) s = execClz d a s := rfl
@[simp] theorem exec_ctz (d a : BitVec 5) (s : State) : exec (.ctz d a) s = execCtz d a s := rfl
@[simp] theorem exec_popc (d a : BitVec 5) (s : State) : exec (.popc d a) s = execPopc d a s := rfl
@[simp] theorem exec_sextB (d a : BitVec 5) (s : State) : exec (.sextB d a) s = execSextB d a s := rfl
@[simp] theorem exec_sextH (d a : BitVec 5) (s : State) : exec (.sextH d a) s = execSextH d a s := rfl
@[simp] theorem exec_sextW (d a : BitVec 5) (s : State) : exec (.sextW d a) s = execSextW d a s := rfl
@[simp] theorem exec_zextW (d a : BitVec 5) (s : State) : exec (.zextW d a) s = execZextW d a s := rfl
@[simp] theorem exec_brev (d a : BitVec 5) (s : State) : exec (.brev d a) s = execBrev d a s := rfl
@[simp] theorem exec_abs (d a : BitVec 5) (s : State) : exec (.abs d a) s = execAbs d a s := rfl
@[simp] theorem exec_addsl (d a b n : BitVec 5) (s : State) : exec (.addsl d a b n) s = execAddsl d a b n s := rfl
@[simp] theorem exec_addi (d a : BitVec 5) (imm : BitVec 15) (s : State) : exec (.addi d a imm) s = execAddi d a imm s := rfl
@[simp] theorem exec_andi (d a : BitVec 5) (imm : BitVec 15) (s : State) : exec (.andi d a imm) s = execAndi d a imm s := rfl
@[simp] theorem exec_ori (d a : BitVec 5) (imm : BitVec 15) (s : State) : exec (.ori d a imm) s = execOri d a imm s := rfl
@[simp] theorem exec_xori (d a : BitVec 5) (imm : BitVec 15) (s : State) : exec (.xori d a imm) s = execXori d a imm s := rfl
@[simp] theorem exec_slti (d a : BitVec 5) (imm : BitVec 15) (s : State) : exec (.slti d a imm) s = execSlti d a imm s := rfl
@[simp] theorem exec_sltiu (d a : BitVec 5) (imm : BitVec 15) (s : State) : exec (.sltiu d a imm) s = execSltiu d a imm s := rfl
@[simp] theorem exec_slli (d a : BitVec 5) (n : BitVec 6) (s : State) : exec (.slli d a n) s = execSlli d a n s := rfl
@[simp] theorem exec_srli (d a : BitVec 5) (n : BitVec 6) (s : State) : exec (.srli d a n) s = execSrli d a n s := rfl
@[simp] theorem exec_srai (d a : BitVec 5) (n : BitVec 6) (s : State) : exec (.srai d a n) s = execSrai d a n s := rfl
@[simp] theorem exec_roli (d a : BitVec 5) (n : BitVec 6) (s : State) : exec (.roli d a n) s = execRoli d a n s := rfl
@[simp] theorem exec_rori (d a : BitVec 5) (n : BitVec 6) (s : State) : exec (.rori d a n) s = execRori d a n s := rfl
@[simp] theorem exec_lih (d : BitVec 5) (imm : BitVec 20) (s : State) : exec (.lih d imm) s = execLih d imm s := rfl
@[simp] theorem exec_lia (d : BitVec 5) (imm : BitVec 20) (s : State) : exec (.lia d imm) s = execLia d imm s := rfl
@[simp] theorem exec_bEq (a b : BitVec 5) (off : BitVec 12) (s : State) : exec (.bEq a b off) s = execBEq a b off s := rfl
@[simp] theorem exec_bNe (a b : BitVec 5) (off : BitVec 12) (s : State) : exec (.bNe a b off) s = execBNe a b off s := rfl
@[simp] theorem exec_bLt (a b : BitVec 5) (off : BitVec 12) (s : State) : exec (.bLt a b off) s = execBLt a b off s := rfl
@[simp] theorem exec_bGe (a b : BitVec 5) (off : BitVec 12) (s : State) : exec (.bGe a b off) s = execBGe a b off s := rfl
@[simp] theorem exec_bLtu (a b : BitVec 5) (off : BitVec 12) (s : State) : exec (.bLtu a b off) s = execBLtu a b off s := rfl
@[simp] theorem exec_bGeu (a b : BitVec 5) (off : BitVec 12) (s : State) : exec (.bGeu a b off) s = execBGeu a b off s := rfl
@[simp] theorem exec_j (off : BitVec 25) (s : State) : exec (.j off) s = execJ off s := rfl
@[simp] theorem exec_call (off : BitVec 20) (k : BitVec 5) (s : State) : exec (.call off k) s = execCall off k s := rfl
@[simp] theorem exec_jr (a : BitVec 5) (s : State) : exec (.jr a) s = execJr a s := rfl
@[simp] theorem exec_callr (a k : BitVec 5) (s : State) : exec (.callr a k) s = execCallr a k s := rfl
@[simp] theorem exec_ret (s : State) : exec (.ret) s = execRet s := rfl
@[simp] theorem exec_loop (a : BitVec 5) (len : BitVec 11) (s : State) : exec (.loop a len) s = execLoop a len s := rfl
@[simp] theorem exec_loopi (count : BitVec 12) (len : BitVec 11) (s : State) : exec (.loopi count len) s = execLoopi count len s := rfl
@[simp] theorem exec_ld (d a : BitVec 5) (imm : BitVec 13) (sz : Size) (s : State) : exec (.ld d a imm sz) s = execLd d a imm sz s := rfl
@[simp] theorem exec_st (d a : BitVec 5) (imm : BitVec 13) (sz : Size) (s : State) : exec (.st d a imm sz) s = execSt d a imm sz s := rfl
@[simp] theorem exec_fld (d a : BitVec 5) (imm : BitVec 13) (sz : FSize) (s : State) : exec (.fld d a imm sz) s = execFld d a imm sz s := rfl
@[simp] theorem exec_fst (d a : BitVec 5) (imm : BitVec 13) (sz : FSize) (s : State) : exec (.fst d a imm sz) s = execFst d a imm sz s := rfl
@[simp] theorem exec_fadd (d a b : BitVec 5) (ty : FType) (rnd : Rnd) (s : State) : exec (.fadd d a b ty rnd) s = execFadd d a b ty rnd s := rfl
@[simp] theorem exec_fsub (d a b : BitVec 5) (ty : FType) (rnd : Rnd) (s : State) : exec (.fsub d a b ty rnd) s = execFsub d a b ty rnd s := rfl
@[simp] theorem exec_fmul (d a b : BitVec 5) (ty : FType) (rnd : Rnd) (s : State) : exec (.fmul d a b ty rnd) s = execFmul d a b ty rnd s := rfl
@[simp] theorem exec_fdiv (d a b : BitVec 5) (ty : FType) (rnd : Rnd) (s : State) : exec (.fdiv d a b ty rnd) s = execFdiv d a b ty rnd s := rfl
@[simp] theorem exec_fsqrt (d a : BitVec 5) (ty : FType) (rnd : Rnd) (s : State) : exec (.fsqrt d a ty rnd) s = execFsqrt d a ty rnd s := rfl
@[simp] theorem exec_fmin (d a b : BitVec 5) (ty : FType) (s : State) : exec (.fmin d a b ty) s = execFmin d a b ty s := rfl
@[simp] theorem exec_fmax (d a b : BitVec 5) (ty : FType) (s : State) : exec (.fmax d a b ty) s = execFmax d a b ty s := rfl
@[simp] theorem exec_fsgnj (d a b : BitVec 5) (ty : FType) (s : State) : exec (.fsgnj d a b ty) s = execFsgnj d a b ty s := rfl
@[simp] theorem exec_fsgnjn (d a b : BitVec 5) (ty : FType) (s : State) : exec (.fsgnjn d a b ty) s = execFsgnjn d a b ty s := rfl
@[simp] theorem exec_fsgnjx (d a b : BitVec 5) (ty : FType) (s : State) : exec (.fsgnjx d a b ty) s = execFsgnjx d a b ty s := rfl
@[simp] theorem exec_feq (d a b : BitVec 5) (ty : FType) (s : State) : exec (.feq d a b ty) s = execFeq d a b ty s := rfl
@[simp] theorem exec_flt (d a b : BitVec 5) (ty : FType) (s : State) : exec (.flt d a b ty) s = execFlt d a b ty s := rfl
@[simp] theorem exec_fle (d a b : BitVec 5) (ty : FType) (s : State) : exec (.fle d a b ty) s = execFle d a b ty s := rfl
@[simp] theorem exec_fclass (d a : BitVec 5) (ty : FType) (s : State) : exec (.fclass d a ty) s = execFclass d a ty s := rfl
@[simp] theorem exec_fcvt (d a : BitVec 5) (src ty : FType) (rnd : Rnd) (s : State) : exec (.fcvt d a src ty rnd) s = execFcvt d a src ty rnd s := rfl
@[simp] theorem exec_fcvtI (d a : BitVec 5) (ty : FType) (rnd : Rnd) (s : State) : exec (.fcvtI d a ty rnd) s = execFcvtI d a ty rnd s := rfl
@[simp] theorem exec_fcvtFromI (d a : BitVec 5) (ty : FType) (rnd : Rnd) (s : State) : exec (.fcvtFromI d a ty rnd) s = execFcvtFromI d a ty rnd s := rfl
@[simp] theorem exec_fmvX (d a : BitVec 5) (ty : FType) (s : State) : exec (.fmvX d a ty) s = execFmvX d a ty s := rfl
@[simp] theorem exec_fmvF (d a : BitVec 5) (ty : FType) (s : State) : exec (.fmvF d a ty) s = execFmvF d a ty s := rfl
@[simp] theorem exec_fmadd (d a b c : BitVec 5) (ty : FType) (rnd : Rnd) (s : State) : exec (.fmadd d a b c ty rnd) s = execFmadd d a b c ty rnd s := rfl
@[simp] theorem exec_fmsub (d a b c : BitVec 5) (ty : FType) (rnd : Rnd) (s : State) : exec (.fmsub d a b c ty rnd) s = execFmsub d a b c ty rnd s := rfl
@[simp] theorem exec_fnmadd (d a b c : BitVec 5) (ty : FType) (rnd : Rnd) (s : State) : exec (.fnmadd d a b c ty rnd) s = execFnmadd d a b c ty rnd s := rfl
@[simp] theorem exec_fnmsub (d a b c : BitVec 5) (ty : FType) (rnd : Rnd) (s : State) : exec (.fnmsub d a b c ty rnd) s = execFnmsub d a b c ty rnd s := rfl
@[simp] theorem exec_fgetx (d a b : BitVec 5) (s : State) : exec (.fgetx d a b) s = execFgetx d a b s := rfl
@[simp] theorem exec_fputx (d a b : BitVec 5) (s : State) : exec (.fputx d a b) s = execFputx d a b s := rfl
@[simp] theorem exec_xgetx (d a b : BitVec 5) (s : State) : exec (.xgetx d a b) s = execXgetx d a b s := rfl
@[simp] theorem exec_xputx (d a b : BitVec 5) (s : State) : exec (.xputx d a b) s = execXputx d a b s := rfl
@[simp] theorem exec_gets (d : BitVec 5) (n : BitVec 12) (s : State) : exec (.gets d n) s = execGets d n s := rfl
@[simp] theorem exec_puts (a : BitVec 5) (n : BitVec 12) (s : State) : exec (.puts a n) s = execPuts a n s := rfl
@[simp] theorem exec_nop (s : State) : exec (.nop) s = execNop s := rfl
@[simp] theorem exec_trap (imm : BitVec 15) (s : State) : exec (.trap imm) s = execTrap imm s := rfl
@[simp] theorem exec_brk (imm : BitVec 15) (s : State) : exec (.brk imm) s = execBrk imm s := rfl
@[simp] theorem exec_tret (s : State) : exec (.tret) s = execTret s := rfl
@[simp] theorem exec_texit (imm : BitVec 15) (s : State) : exec (.texit imm) s = execTexit imm s := rfl
@[simp] theorem exec_wfe (s : State) : exec (.wfe) s = execWfe s := rfl
@[simp] theorem exec_sev (a : BitVec 5) (s : State) : exec (.sev a) s = execSev a s := rfl
@[simp] theorem exec_popev (d : BitVec 5) (s : State) : exec (.popev d) s = execPopev d s := rfl
@[simp] theorem exec_region (msk : BitVec 11) (s : State) : exec (.region msk) s = execRegion msk s := rfl
@[simp] theorem exec_commit (s : State) : exec (.commit) s = execCommit s := rfl
@[simp] theorem exec_abort (s : State) : exec (.abort) s = execAbort s := rfl
@[simp] theorem exec_gang (n : BitVec 15) (s : State) : exec (.gang n) s = execGang n s := rfl
@[simp] theorem exec_split (s : State) : exec (.split) s = execSplit s := rfl
@[simp] theorem exec_fence (scope : Scope) (s : State) : exec (.fence scope) s = execFence scope s := rfl
@[simp] theorem exec_probe (d a : BitVec 5) (s : State) : exec (.probe d a) s = execProbe d a s := rfl
@[simp] theorem exec_send (a b : BitVec 5) (s : State) : exec (.send a b) s = execSend a b s := rfl
@[simp] theorem exec_recv (d : BitVec 5) (s : State) : exec (.recv d) s = execRecv d s := rfl
@[simp] theorem exec_grp (grp : BitVec 5) (s : State) : exec (.grp grp) s = execGrp grp s := rfl
@[simp] theorem exec_rel (a b : BitVec 5) (s : State) : exec (.rel a b) s = execRel a b s := rfl
@[simp] theorem exec_grpq (d grp : BitVec 5) (s : State) : exec (.grpq d grp) s = execGrpq d grp s := rfl
@[simp] theorem exec_ldG (d a : BitVec 5) (imm : BitVec 9) (sz : Size) (s : State) : exec (.ldG d a imm sz) s = execLdG d a imm sz s := rfl
@[simp] theorem exec_ldAcq (d a : BitVec 5) (imm : BitVec 9) (sz : Size) (scope : Scope) (s : State) : exec (.ldAcq d a imm sz scope) s = execLdAcq d a imm sz scope s := rfl
@[simp] theorem exec_stG (d a : BitVec 5) (imm : BitVec 9) (sz : Size) (s : State) : exec (.stG d a imm sz) s = execStG d a imm sz s := rfl
@[simp] theorem exec_stRel (d a : BitVec 5) (imm : BitVec 9) (sz : Size) (scope : Scope) (s : State) : exec (.stRel d a imm sz scope) s = execStRel d a imm sz scope s := rfl
@[simp] theorem exec_atomAdd (d a b : BitVec 5) (ar : Bool) (sz : ASize) (scope : Scope) (s : State) : exec (.atomAdd d a b ar sz scope) s = execAtomAdd d a b ar sz scope s := rfl
@[simp] theorem exec_atomAnd (d a b : BitVec 5) (ar : Bool) (sz : ASize) (scope : Scope) (s : State) : exec (.atomAnd d a b ar sz scope) s = execAtomAnd d a b ar sz scope s := rfl
@[simp] theorem exec_atomOr (d a b : BitVec 5) (ar : Bool) (sz : ASize) (scope : Scope) (s : State) : exec (.atomOr d a b ar sz scope) s = execAtomOr d a b ar sz scope s := rfl
@[simp] theorem exec_atomXor (d a b : BitVec 5) (ar : Bool) (sz : ASize) (scope : Scope) (s : State) : exec (.atomXor d a b ar sz scope) s = execAtomXor d a b ar sz scope s := rfl
@[simp] theorem exec_atomMin (d a b : BitVec 5) (ar : Bool) (sz : ASize) (scope : Scope) (s : State) : exec (.atomMin d a b ar sz scope) s = execAtomMin d a b ar sz scope s := rfl
@[simp] theorem exec_atomMax (d a b : BitVec 5) (ar : Bool) (sz : ASize) (scope : Scope) (s : State) : exec (.atomMax d a b ar sz scope) s = execAtomMax d a b ar sz scope s := rfl
@[simp] theorem exec_atomMinu (d a b : BitVec 5) (ar : Bool) (sz : ASize) (scope : Scope) (s : State) : exec (.atomMinu d a b ar sz scope) s = execAtomMinu d a b ar sz scope s := rfl
@[simp] theorem exec_atomMaxu (d a b : BitVec 5) (ar : Bool) (sz : ASize) (scope : Scope) (s : State) : exec (.atomMaxu d a b ar sz scope) s = execAtomMaxu d a b ar sz scope s := rfl
@[simp] theorem exec_atomSwap (d a b : BitVec 5) (ar : Bool) (sz : ASize) (scope : Scope) (s : State) : exec (.atomSwap d a b ar sz scope) s = execAtomSwap d a b ar sz scope s := rfl
@[simp] theorem exec_atomCas (d a b : BitVec 5) (ar : Bool) (sz : ASize) (scope : Scope) (s : State) : exec (.atomCas d a b ar sz scope) s = execAtomCas d a b ar sz scope s := rfl
@[simp] theorem exec_atomFaddS (d a b : BitVec 5) (ar : Bool) (scope : Scope) (s : State) : exec (.atomFaddS d a b ar scope) s = execAtomFaddS d a b ar scope s := rfl
@[simp] theorem exec_atomFminS (d a b : BitVec 5) (ar : Bool) (scope : Scope) (s : State) : exec (.atomFminS d a b ar scope) s = execAtomFminS d a b ar scope s := rfl
@[simp] theorem exec_atomFmaxS (d a b : BitVec 5) (ar : Bool) (scope : Scope) (s : State) : exec (.atomFmaxS d a b ar scope) s = execAtomFmaxS d a b ar scope s := rfl
@[simp] theorem exec_wait (ld st cp mx : BitVec 4) (s : State) : exec (.wait ld st cp mx) s = execWait ld st cp mx s := rfl
@[simp] theorem exec_vadd (d a b : BitVec 5) (ty : IType) (mask : BitVec 3) (s : State) : exec (.vadd d a b ty mask) s = execVadd d a b ty mask s := rfl
@[simp] theorem exec_vsub (d a b : BitVec 5) (ty : IType) (mask : BitVec 3) (s : State) : exec (.vsub d a b ty mask) s = execVsub d a b ty mask s := rfl
@[simp] theorem exec_vmul (d a b : BitVec 5) (ty : IType) (mask : BitVec 3) (s : State) : exec (.vmul d a b ty mask) s = execVmul d a b ty mask s := rfl
@[simp] theorem exec_vmulh (d a b : BitVec 5) (ty : IType) (mask : BitVec 3) (s : State) : exec (.vmulh d a b ty mask) s = execVmulh d a b ty mask s := rfl
@[simp] theorem exec_vmulhu (d a b : BitVec 5) (ty : IType) (mask : BitVec 3) (s : State) : exec (.vmulhu d a b ty mask) s = execVmulhu d a b ty mask s := rfl
@[simp] theorem exec_vmin (d a b : BitVec 5) (ty : IType) (mask : BitVec 3) (s : State) : exec (.vmin d a b ty mask) s = execVmin d a b ty mask s := rfl
@[simp] theorem exec_vmax (d a b : BitVec 5) (ty : IType) (mask : BitVec 3) (s : State) : exec (.vmax d a b ty mask) s = execVmax d a b ty mask s := rfl
@[simp] theorem exec_vminu (d a b : BitVec 5) (ty : IType) (mask : BitVec 3) (s : State) : exec (.vminu d a b ty mask) s = execVminu d a b ty mask s := rfl
@[simp] theorem exec_vmaxu (d a b : BitVec 5) (ty : IType) (mask : BitVec 3) (s : State) : exec (.vmaxu d a b ty mask) s = execVmaxu d a b ty mask s := rfl
@[simp] theorem exec_vand (d a b : BitVec 5) (ty : IType) (mask : BitVec 3) (s : State) : exec (.vand d a b ty mask) s = execVand d a b ty mask s := rfl
@[simp] theorem exec_vor (d a b : BitVec 5) (ty : IType) (mask : BitVec 3) (s : State) : exec (.vor d a b ty mask) s = execVor d a b ty mask s := rfl
@[simp] theorem exec_vxor (d a b : BitVec 5) (ty : IType) (mask : BitVec 3) (s : State) : exec (.vxor d a b ty mask) s = execVxor d a b ty mask s := rfl
@[simp] theorem exec_vsll (d a b : BitVec 5) (ty : IType) (mask : BitVec 3) (s : State) : exec (.vsll d a b ty mask) s = execVsll d a b ty mask s := rfl
@[simp] theorem exec_vsrl (d a b : BitVec 5) (ty : IType) (mask : BitVec 3) (s : State) : exec (.vsrl d a b ty mask) s = execVsrl d a b ty mask s := rfl
@[simp] theorem exec_vsra (d a b : BitVec 5) (ty : IType) (mask : BitVec 3) (s : State) : exec (.vsra d a b ty mask) s = execVsra d a b ty mask s := rfl
@[simp] theorem exec_vadds (d a b : BitVec 5) (ty : IType) (mask : BitVec 3) (s : State) : exec (.vadds d a b ty mask) s = execVadds d a b ty mask s := rfl
@[simp] theorem exec_vsubs (d a b : BitVec 5) (ty : IType) (mask : BitVec 3) (s : State) : exec (.vsubs d a b ty mask) s = execVsubs d a b ty mask s := rfl
@[simp] theorem exec_vabs (d a : BitVec 5) (ty : IType) (mask : BitVec 3) (s : State) : exec (.vabs d a ty mask) s = execVabs d a ty mask s := rfl
@[simp] theorem exec_vneg (d a : BitVec 5) (ty : IType) (mask : BitVec 3) (s : State) : exec (.vneg d a ty mask) s = execVneg d a ty mask s := rfl
@[simp] theorem exec_vdup (d a : BitVec 5) (ty : IType) (mask : BitVec 3) (s : State) : exec (.vdup d a ty mask) s = execVdup d a ty mask s := rfl
@[simp] theorem exec_vfadd (d a b : BitVec 5) (ty : FType) (mask : BitVec 3) (s : State) : exec (.vfadd d a b ty mask) s = execVfadd d a b ty mask s := rfl
@[simp] theorem exec_vfsub (d a b : BitVec 5) (ty : FType) (mask : BitVec 3) (s : State) : exec (.vfsub d a b ty mask) s = execVfsub d a b ty mask s := rfl
@[simp] theorem exec_vfmul (d a b : BitVec 5) (ty : FType) (mask : BitVec 3) (s : State) : exec (.vfmul d a b ty mask) s = execVfmul d a b ty mask s := rfl
@[simp] theorem exec_vfdiv (d a b : BitVec 5) (ty : FType) (mask : BitVec 3) (s : State) : exec (.vfdiv d a b ty mask) s = execVfdiv d a b ty mask s := rfl
@[simp] theorem exec_vfsqrt (d a : BitVec 5) (ty : FType) (mask : BitVec 3) (s : State) : exec (.vfsqrt d a ty mask) s = execVfsqrt d a ty mask s := rfl
@[simp] theorem exec_vfmin (d a b : BitVec 5) (ty : FType) (mask : BitVec 3) (s : State) : exec (.vfmin d a b ty mask) s = execVfmin d a b ty mask s := rfl
@[simp] theorem exec_vfmax (d a b : BitVec 5) (ty : FType) (mask : BitVec 3) (s : State) : exec (.vfmax d a b ty mask) s = execVfmax d a b ty mask s := rfl
@[simp] theorem exec_vfabs (d a : BitVec 5) (ty : FType) (mask : BitVec 3) (s : State) : exec (.vfabs d a ty mask) s = execVfabs d a ty mask s := rfl
@[simp] theorem exec_vfneg (d a : BitVec 5) (ty : FType) (mask : BitVec 3) (s : State) : exec (.vfneg d a ty mask) s = execVfneg d a ty mask s := rfl
@[simp] theorem exec_vfdup (d a : BitVec 5) (ty : FType) (mask : BitVec 3) (s : State) : exec (.vfdup d a ty mask) s = execVfdup d a ty mask s := rfl
@[simp] theorem exec_vfmadd (d a b : BitVec 5) (ty : FType) (mask : BitVec 3) (s : State) : exec (.vfmadd d a b ty mask) s = execVfmadd d a b ty mask s := rfl
@[simp] theorem exec_vfmsub (d a b : BitVec 5) (ty : FType) (mask : BitVec 3) (s : State) : exec (.vfmsub d a b ty mask) s = execVfmsub d a b ty mask s := rfl
@[simp] theorem exec_vfnmadd (d a b : BitVec 5) (ty : FType) (mask : BitVec 3) (s : State) : exec (.vfnmadd d a b ty mask) s = execVfnmadd d a b ty mask s := rfl
@[simp] theorem exec_vfnmsub (d a b : BitVec 5) (ty : FType) (mask : BitVec 3) (s : State) : exec (.vfnmsub d a b ty mask) s = execVfnmsub d a b ty mask s := rfl
@[simp] theorem exec_vceq (d : BitVec 3) (a b : BitVec 5) (ty : IType) (mask : BitVec 3) (s : State) : exec (.vceq d a b ty mask) s = execVceq d a b ty mask s := rfl
@[simp] theorem exec_vcne (d : BitVec 3) (a b : BitVec 5) (ty : IType) (mask : BitVec 3) (s : State) : exec (.vcne d a b ty mask) s = execVcne d a b ty mask s := rfl
@[simp] theorem exec_vclt (d : BitVec 3) (a b : BitVec 5) (ty : IType) (mask : BitVec 3) (s : State) : exec (.vclt d a b ty mask) s = execVclt d a b ty mask s := rfl
@[simp] theorem exec_vcle (d : BitVec 3) (a b : BitVec 5) (ty : IType) (mask : BitVec 3) (s : State) : exec (.vcle d a b ty mask) s = execVcle d a b ty mask s := rfl
@[simp] theorem exec_vcltu (d : BitVec 3) (a b : BitVec 5) (ty : IType) (mask : BitVec 3) (s : State) : exec (.vcltu d a b ty mask) s = execVcltu d a b ty mask s := rfl
@[simp] theorem exec_vcleu (d : BitVec 3) (a b : BitVec 5) (ty : IType) (mask : BitVec 3) (s : State) : exec (.vcleu d a b ty mask) s = execVcleu d a b ty mask s := rfl
@[simp] theorem exec_vfceq (d : BitVec 3) (a b : BitVec 5) (ty : FType) (mask : BitVec 3) (s : State) : exec (.vfceq d a b ty mask) s = execVfceq d a b ty mask s := rfl
@[simp] theorem exec_vfclt (d : BitVec 3) (a b : BitVec 5) (ty : FType) (mask : BitVec 3) (s : State) : exec (.vfclt d a b ty mask) s = execVfclt d a b ty mask s := rfl
@[simp] theorem exec_vfcle (d : BitVec 3) (a b : BitVec 5) (ty : FType) (mask : BitVec 3) (s : State) : exec (.vfcle d a b ty mask) s = execVfcle d a b ty mask s := rfl
@[simp] theorem exec_vsel (d a b : BitVec 5) (ty : IType) (mask : BitVec 3) (s : State) : exec (.vsel d a b ty mask) s = execVsel d a b ty mask s := rfl
@[simp] theorem exec_vperm (d a b : BitVec 5) (ty : IType) (mask : BitVec 3) (s : State) : exec (.vperm d a b ty mask) s = execVperm d a b ty mask s := rfl
@[simp] theorem exec_vslup (d a b : BitVec 5) (ty : IType) (mask : BitVec 3) (s : State) : exec (.vslup d a b ty mask) s = execVslup d a b ty mask s := rfl
@[simp] theorem exec_vsldn (d a b : BitVec 5) (ty : IType) (mask : BitVec 3) (s : State) : exec (.vsldn d a b ty mask) s = execVsldn d a b ty mask s := rfl
@[simp] theorem exec_vrsum (d a : BitVec 5) (ty : IType) (mask : BitVec 3) (s : State) : exec (.vrsum d a ty mask) s = execVrsum d a ty mask s := rfl
@[simp] theorem exec_vrmin (d a : BitVec 5) (ty : IType) (mask : BitVec 3) (s : State) : exec (.vrmin d a ty mask) s = execVrmin d a ty mask s := rfl
@[simp] theorem exec_vrmax (d a : BitVec 5) (ty : IType) (mask : BitVec 3) (s : State) : exec (.vrmax d a ty mask) s = execVrmax d a ty mask s := rfl
@[simp] theorem exec_vfrsum (d a : BitVec 5) (ty : FType) (mask : BitVec 3) (s : State) : exec (.vfrsum d a ty mask) s = execVfrsum d a ty mask s := rfl
@[simp] theorem exec_vfrmin (d a : BitVec 5) (ty : FType) (mask : BitVec 3) (s : State) : exec (.vfrmin d a ty mask) s = execVfrmin d a ty mask s := rfl
@[simp] theorem exec_vfrmax (d a : BitVec 5) (ty : FType) (mask : BitVec 3) (s : State) : exec (.vfrmax d a ty mask) s = execVfrmax d a ty mask s := rfl
@[simp] theorem exec_vext (d a b : BitVec 5) (ty : IType) (s : State) : exec (.vext d a b ty) s = execVext d a b ty s := rfl
@[simp] theorem exec_vins (d a b : BitVec 5) (ty : IType) (s : State) : exec (.vins d a b ty) s = execVins d a b ty s := rfl
@[simp] theorem exec_vcvt (d a : BitVec 5) (src dst : CFmt) (rnd : Rnd) (mask : BitVec 3) (s : State) : exec (.vcvt d a src dst rnd mask) s = execVcvt d a src dst rnd mask s := rfl
@[simp] theorem exec_mand (d a b : BitVec 3) (s : State) : exec (.mand d a b) s = execMand d a b s := rfl
@[simp] theorem exec_mor (d a b : BitVec 3) (s : State) : exec (.mor d a b) s = execMor d a b s := rfl
@[simp] theorem exec_mxor (d a b : BitVec 3) (s : State) : exec (.mxor d a b) s = execMxor d a b s := rfl
@[simp] theorem exec_mandn (d a b : BitVec 3) (s : State) : exec (.mandn d a b) s = execMandn d a b s := rfl
@[simp] theorem exec_mnot (d a : BitVec 3) (s : State) : exec (.mnot d a) s = execMnot d a s := rfl
@[simp] theorem exec_mpopc (d : BitVec 5) (a : BitVec 3) (s : State) : exec (.mpopc d a) s = execMpopc d a s := rfl
@[simp] theorem exec_mfirst (d : BitVec 5) (a : BitVec 3) (s : State) : exec (.mfirst d a) s = execMfirst d a s := rfl
@[simp] theorem exec_mfromx (d : BitVec 3) (a : BitVec 5) (s : State) : exec (.mfromx d a) s = execMfromx d a s := rfl
@[simp] theorem exec_mtox (d : BitVec 5) (a : BitVec 3) (s : State) : exec (.mtox d a) s = execMtox d a s := rfl
@[simp] theorem exec_vld (d a : BitVec 5) (off : BitVec 7) (mask : BitVec 3) (s : State) : exec (.vld d a off mask) s = execVld d a off mask s := rfl
@[simp] theorem exec_vst (d a : BitVec 5) (off : BitVec 7) (mask : BitVec 3) (s : State) : exec (.vst d a off mask) s = execVst d a off mask s := rfl
@[simp] theorem exec_vgather (d a b : BitVec 5) (ty : IType) (mask : BitVec 3) (s : State) : exec (.vgather d a b ty mask) s = execVgather d a b ty mask s := rfl
@[simp] theorem exec_vscatter (d a b : BitVec 5) (ty : IType) (mask : BitVec 3) (s : State) : exec (.vscatter d a b ty mask) s = execVscatter d a b ty mask s := rfl
@[simp] theorem exec_mmaLo (a b f n : BitVec 5) (pair : Pair) (s : State) : exec (.mmaLo a b f n pair) s = execMmaLo a b f n pair s := rfl
@[simp] theorem exec_mmaHi (a b f n : BitVec 5) (pair : Pair) (s : State) : exec (.mmaHi a b f n pair) s = execMmaHi a b f n pair s := rfl
@[simp] theorem exec_mclr (n : BitVec 6) (s : State) : exec (.mclr n) s = execMclr n s := rfl
@[simp] theorem exec_mld (n : BitVec 6) (a : BitVec 5) (ty : MType) (s : State) : exec (.mld n a ty) s = execMld n a ty s := rfl
@[simp] theorem exec_mst (n : BitVec 6) (a : BitVec 5) (ty : MType) (rnd : Rnd) (s : State) : exec (.mst n a ty rnd) s = execMst n a ty rnd s := rfl
@[simp] theorem exec_mcfg (a n : BitVec 5) (s : State) : exec (.mcfg a n) s = execMcfg a n s := rfl
@[simp] theorem exec_vpackM8 (d a b : BitVec 5) (rnd : Rnd) (s : State) : exec (.vpackM8 d a b rnd) s = execVpackM8 d a b rnd s := rfl
@[simp] theorem exec_vpackE43 (d a b : BitVec 5) (rnd : Rnd) (s : State) : exec (.vpackE43 d a b rnd) s = execVpackE43 d a b rnd s := rfl
@[simp] theorem exec_vpackE52 (d a b : BitVec 5) (rnd : Rnd) (s : State) : exec (.vpackE52 d a b rnd) s = execVpackE52 d a b rnd s := rfl
@[simp] theorem exec_vpackE23 (d a b : BitVec 5) (rnd : Rnd) (s : State) : exec (.vpackE23 d a b rnd) s = execVpackE23 d a b rnd s := rfl
@[simp] theorem exec_vpackE32 (d a b : BitVec 5) (rnd : Rnd) (s : State) : exec (.vpackE32 d a b rnd) s = execVpackE32 d a b rnd s := rfl
@[simp] theorem exec_vpackE21 (d a b : BitVec 5) (rnd : Rnd) (s : State) : exec (.vpackE21 d a b rnd) s = execVpackE21 d a b rnd s := rfl
@[simp] theorem exec_vpackI8 (d a b : BitVec 5) (rnd : Rnd) (s : State) : exec (.vpackI8 d a b rnd) s = execVpackI8 d a b rnd s := rfl
@[simp] theorem exec_cp (a b : BitVec 5) (ch : BitVec 4) (s : State) : exec (.cp a b ch) s = execCp a b ch s := rfl
@[simp] theorem exec_cpMc (a b : BitVec 5) (ch : BitVec 4) (s : State) : exec (.cpMc a b ch) s = execCpMc a b ch s := rfl
@[simp] theorem exec_cpDec (a b : BitVec 5) (ch : BitVec 4) (s : State) : exec (.cpDec a b ch) s = execCpDec a b ch s := rfl
@[simp] theorem exec_subscr (a b : BitVec 5) (ch : BitVec 4) (s : State) : exec (.subscr a b ch) s = execSubscr a b ch s := rfl
@[simp] theorem exec_srel (a : BitVec 5) (ch : BitVec 4) (s : State) : exec (.srel a ch) s = execSrel a ch s := rfl
@[simp] theorem exec_chinit (a b : BitVec 5) (ch : BitVec 4) (s : State) : exec (.chinit a b ch) s = execChinit a b ch s := rfl
@[simp] theorem exec_chq (d : BitVec 5) (ch : BitVec 4) (s : State) : exec (.chq d ch) s = execChq d ch s := rfl
@[simp] theorem exec_cpcfg (a n : BitVec 5) (s : State) : exec (.cpcfg a n) s = execCpcfg a n s := rfl
@[simp] theorem exec_waitc (ch : BitVec 4) (s : State) : exec (.waitc ch) s = execWaitc ch s := rfl
@[simp] theorem exec_nopC (s : State) : exec (.nopC) s = execNopC s := rfl
@[simp] theorem exec_addCX0 (d sr : BitVec 5) (s : State) : exec (.addCX0 d sr) s = execAddCX0 d sr s := rfl
@[simp] theorem exec_addC (d sr : BitVec 5) (s : State) : exec (.addC d sr) s = execAddC d sr s := rfl
@[simp] theorem exec_subC (d sr : BitVec 5) (s : State) : exec (.subC d sr) s = execSubC d sr s := rfl
@[simp] theorem exec_andC (d sr : BitVec 5) (s : State) : exec (.andC d sr) s = execAndC d sr s := rfl
@[simp] theorem exec_orC (d sr : BitVec 5) (s : State) : exec (.orC d sr) s = execOrC d sr s := rfl
@[simp] theorem exec_xorC (d sr : BitVec 5) (s : State) : exec (.xorC d sr) s = execXorC d sr s := rfl
@[simp] theorem exec_addiC (d imm : BitVec 5) (s : State) : exec (.addiC d imm) s = execAddiC d imm s := rfl
@[simp] theorem exec_addiCX0 (d imm : BitVec 5) (s : State) : exec (.addiCX0 d imm) s = execAddiCX0 d imm s := rfl
@[simp] theorem exec_slliC (d n : BitVec 5) (s : State) : exec (.slliC d n) s = execSlliC d n s := rfl
@[simp] theorem exec_srliC (d n : BitVec 5) (s : State) : exec (.srliC d n) s = execSrliC d n s := rfl
@[simp] theorem exec_sraiC (d n : BitVec 5) (s : State) : exec (.sraiC d n) s = execSraiC d n s := rfl
@[simp] theorem exec_ldDC (d sr : BitVec 5) (s : State) : exec (.ldDC d sr) s = execLdDC d sr s := rfl
@[simp] theorem exec_stDC (d sr : BitVec 5) (s : State) : exec (.stDC d sr) s = execStDC d sr s := rfl
@[simp] theorem exec_ldWC (d sr : BitVec 5) (s : State) : exec (.ldWC d sr) s = execLdWC d sr s := rfl
@[simp] theorem exec_stWC (d sr : BitVec 5) (s : State) : exec (.stWC d sr) s = execStWC d sr s := rfl
@[simp] theorem exec_jrC (sr : BitVec 5) (s : State) : exec (.jrC sr) s = execJrC sr s := rfl
@[simp] theorem exec_retC (s : State) : exec (.retC) s = execRetC s := rfl
@[simp] theorem exec_texitC (s : State) : exec (.texitC) s = execTexitC s := rfl
@[simp] theorem exec_wfeC (s : State) : exec (.wfeC) s = execWfeC s := rfl
@[simp] theorem exec_faddSC (d sr : BitVec 5) (s : State) : exec (.faddSC d sr) s = execFaddSC d sr s := rfl
@[simp] theorem exec_fmulSC (d sr : BitVec 5) (s : State) : exec (.fmulSC d sr) s = execFmulSC d sr s := rfl
@[simp] theorem exec_illegalInstruction (word : BitVec 32) (s : State) : exec (.illegalInstruction word) s = execIllegalInstruction word s := rfl
@[simp] theorem exec_fetchFault (rights : Bool) (addr : Word) (s : State) : exec (.fetchFault rights addr) s = execFetchFault rights addr s := rfl
@[simp] theorem exec_storeBufferPerform (s : State) : exec (.storeBufferPerform) s = execStoreBufferPerform s := rfl
@[simp] theorem exec_releaseConditionMet (s : State) : exec (.releaseConditionMet) s = execReleaseConditionMet s := rfl
@[simp] theorem exec_softError (s : State) : exec (.softError) s = execSoftError s := rfl
@[simp] theorem exec_linkRetrainComplete (s : State) : exec (.linkRetrainComplete) s = execLinkRetrainComplete s := rfl
@[simp] theorem exec_cxlLinkState (s : State) : exec (.cxlLinkState) s = execCxlLinkState s := rfl
@[simp] theorem exec_hostAtomicop (s : State) : exec (.hostAtomicop) s = execHostAtomicop s := rfl
@[simp] theorem exec_ideKeyProgramming (s : State) : exec (.ideKeyProgramming) s = execIdeKeyProgramming s := rfl
@[simp] theorem exec_thermalThrottleEnd (s : State) : exec (.thermalThrottleEnd) s = execThermalThrottleEnd s := rfl

end Sys2Proof.Laws
end

