-- ==== Sys2Proof/Laws/SMap.lean ====
section
/-! SUPPORT. Laws of sparse maps: what a key reads after each operation, in every map, and that each operation keeps the canonical
form. -/

namespace Sys2Proof.Laws

open Sys2Proof.Machine

variable {α : Type}

/-! ### Reading after an operation -/

@[simp] theorem sget_nil (d : α) (k : Nat) : sget d [] k = d := rfl

@[simp] theorem sfind_nil (k : Nat) : sfind ([] : SMap α) k = none := rfl

theorem sget_sput_same (d : α) (m : SMap α) (k : Nat) (v : α) : sget d (sput m k v) k = v := by
  induction m with
  | nil => simp [sput, sget]
  | cons p t ih =>
    obtain ⟨j, w⟩ := p
    unfold sput
    split
    · simp [sget]
    · split
      · simp [sget]
      · rename_i h _; simp [sget, h, ih]

theorem sget_sput_other (d : α) (m : SMap α) {k n : Nat} (v : α) (h : n ≠ k) : sget d (sput m k v) n = sget d m n := by
  induction m with
  | nil => simp [sput, sget, h]
  | cons p t ih =>
    obtain ⟨j, w⟩ := p
    unfold sput
    split
    · rename_i e; subst e; simp [sget, h]
    · split
      · simp [sget, h]
      · simp [sget, ih]

theorem sget_serase_same (d : α) (m : SMap α) (k : Nat) : sget d (serase m k) k = d := by
  induction m with
  | nil => rfl
  | cons p t ih =>
    obtain ⟨j, w⟩ := p
    unfold serase
    split
    · exact ih
    · rename_i h; simp [sget, h, ih]

theorem sget_serase_other (d : α) (m : SMap α) {k n : Nat} (h : n ≠ k) : sget d (serase m k) n = sget d m n := by
  induction m with
  | nil => rfl
  | cons p t ih =>
    obtain ⟨j, w⟩ := p
    unfold serase
    split
    · rename_i e; subst e; simp [sget, h, ih]
    · simp [sget, ih]

@[simp] theorem sget_sset_same [DecidableEq α] (d : α) (m : SMap α) (k : Nat) (v : α) : sget d (sset d m k v) k = v := by
  unfold sset
  split
  · rename_i h; rw [sget_serase_same, h]
  · exact sget_sput_same d m k v

theorem sget_sset_other [DecidableEq α] (d : α) (m : SMap α) {k n : Nat} (v : α) (h : n ≠ k) :
    sget d (sset d m k v) n = sget d m n := by
  unfold sset
  split
  · exact sget_serase_other d m h
  · exact sget_sput_other d m v h

theorem sget_sset [DecidableEq α] (d : α) (m : SMap α) (k n : Nat) (v : α) :
    sget d (sset d m k v) n = if n = k then v else sget d m n := by
  by_cases h : n = k
  · subst h; simp
  · rw [sget_sset_other d m v h]; simp [h]

@[simp] theorem sfind_sput_same (m : SMap α) (k : Nat) (v : α) : sfind (sput m k v) k = some v := by
  induction m with
  | nil => simp [sput, sfind]
  | cons p t ih =>
    obtain ⟨j, w⟩ := p
    unfold sput
    split
    · simp [sfind]
    · split
      · simp [sfind]
      · rename_i h _; simp [sfind, h, ih]

theorem sfind_sput_other (m : SMap α) {k n : Nat} (v : α) (h : n ≠ k) : sfind (sput m k v) n = sfind m n := by
  induction m with
  | nil => simp [sput, sfind, h]
  | cons p t ih =>
    obtain ⟨j, w⟩ := p
    unfold sput
    split
    · rename_i e; subst e; simp [sfind, h]
    · split
      · simp [sfind, h]
      · simp [sfind, ih]

@[simp] theorem sfind_serase_same (m : SMap α) (k : Nat) : sfind (serase m k) k = none := by
  induction m with
  | nil => rfl
  | cons p t ih =>
    obtain ⟨j, w⟩ := p
    unfold serase
    split
    · exact ih
    · rename_i h; simp [sfind, h, ih]

theorem sfind_serase_other (m : SMap α) {k n : Nat} (h : n ≠ k) : sfind (serase m k) n = sfind m n := by
  induction m with
  | nil => rfl
  | cons p t ih =>
    obtain ⟨j, w⟩ := p
    unfold serase
    split
    · rename_i e; subst e; simp [sfind, h, ih]
    · simp [sfind, ih]

/-! ### The canonical form -/

variable [DecidableEq α]

theorem swfFrom_mono (d : α) {lo lo' : Nat} (m : SMap α) (h : lo' ≤ lo) (hm : swfFrom d lo m = true) : swfFrom d lo' m = true := by
  cases m with
  | nil => rfl
  | cons p t =>
    obtain ⟨j, w⟩ := p
    simp only [swfFrom, Bool.and_eq_true, decide_eq_true_eq] at hm ⊢
    exact ⟨⟨by omega, hm.1.2⟩, hm.2⟩

theorem swfFrom_sput (d : α) (m : SMap α) (lo k : Nat) (v : α) (hk : lo ≤ k) (hv : v ≠ d) (hm : swfFrom d lo m = true) :
    swfFrom d lo (sput m k v) = true := by
  induction m generalizing lo with
  | nil => simp [sput, swfFrom, hk, hv]
  | cons p t ih =>
    obtain ⟨j, w⟩ := p
    simp only [swfFrom, Bool.and_eq_true, decide_eq_true_eq] at hm
    unfold sput
    split
    · rename_i e; subst e; simp [swfFrom, hk, hv, hm.2]
    · split
      · simp only [swfFrom, Bool.and_eq_true, decide_eq_true_eq]
        exact ⟨⟨hk, hv⟩, ⟨by omega, hm.1.2⟩, hm.2⟩
      · simp only [swfFrom, Bool.and_eq_true, decide_eq_true_eq]
        exact ⟨hm.1, ih (j + 1) (by omega) hm.2⟩

theorem swfFrom_serase (d : α) (m : SMap α) (lo k : Nat) (hm : swfFrom d lo m = true) : swfFrom d lo (serase m k) = true := by
  induction m generalizing lo with
  | nil => rfl
  | cons p t ih =>
    obtain ⟨j, w⟩ := p
    simp only [swfFrom, Bool.and_eq_true, decide_eq_true_eq] at hm
    unfold serase
    split
    · exact swfFrom_mono d _ (by omega) (ih (j + 1) hm.2)
    · simp only [swfFrom, Bool.and_eq_true, decide_eq_true_eq]
      exact ⟨hm.1, ih (j + 1) hm.2⟩

theorem swfFrom_filter (d : α) (p : Nat × α → Bool) (m : SMap α) (lo : Nat) (hm : swfFrom d lo m = true) :
    swfFrom d lo (m.filter p) = true := by
  induction m generalizing lo with
  | nil => rfl
  | cons q t ih =>
    obtain ⟨j, w⟩ := q
    simp only [swfFrom, Bool.and_eq_true, decide_eq_true_eq] at hm
    simp only [List.filter_cons]
    split
    · simp only [swfFrom, Bool.and_eq_true, decide_eq_true_eq]
      exact ⟨hm.1, ih (j + 1) hm.2⟩
    · exact swfFrom_mono d _ (by omega) (ih (j + 1) hm.2)

@[simp] theorem swf_nil (d : α) : swf d [] = true := rfl

theorem swf_sset (d : α) (m : SMap α) (k : Nat) (v : α) (hm : swf d m = true) : swf d (sset d m k v) = true := by
  unfold sset swf at *
  split
  · exact swfFrom_serase d m 0 k hm
  · rename_i h; exact swfFrom_sput d m 0 k v (by omega) h hm

theorem swf_sput (d : α) (m : SMap α) (k : Nat) (v : α) (hv : v ≠ d) (hm : swf d m = true) : swf d (sput m k v) = true :=
  swfFrom_sput d m 0 k v (by omega) hv hm

theorem swf_serase (d : α) (m : SMap α) (k : Nat) (hm : swf d m = true) : swf d (serase m k) = true :=
  swfFrom_serase d m 0 k hm

theorem swf_filter (d : α) (p : Nat × α → Bool) (m : SMap α) (hm : swf d m = true) : swf d (m.filter p) = true :=
  swfFrom_filter d p m 0 hm

/-- A key below the first bound is not listed. -/
theorem sget_below (d : α) (m : SMap α) {lo k : Nat} (hm : swfFrom d lo m = true) (h : k < lo) : sget d m k = d := by
  induction m generalizing lo with
  | nil => rfl
  | cons p t ih =>
    obtain ⟨j, w⟩ := p
    simp only [swfFrom, Bool.and_eq_true, decide_eq_true_eq] at hm
    have : k ≠ j := by omega
    simp [sget, this, ih hm.2 (by omega)]

/-- Canonical maps that read alike are equal. -/
theorem swfFrom_ext (d : α) (m n : SMap α) (lo : Nat) (hm : swfFrom d lo m = true) (hn : swfFrom d lo n = true)
    (h : ∀ k, sget d m k = sget d n k) : m = n := by
  induction m generalizing lo n with
  | nil =>
    cases n with
    | nil => rfl
    | cons p t =>
      obtain ⟨j, w⟩ := p
      simp only [swfFrom, Bool.and_eq_true, decide_eq_true_eq] at hn
      have := h j
      simp [sget] at this
      exact absurd this.symm hn.1.2
  | cons p t ih =>
    obtain ⟨j, w⟩ := p
    cases n with
    | nil =>
      simp only [swfFrom, Bool.and_eq_true, decide_eq_true_eq] at hm
      have := h j
      simp [sget] at this
      exact absurd this hm.1.2
    | cons q u =>
      obtain ⟨i, x⟩ := q
      simp only [swfFrom, Bool.and_eq_true, decide_eq_true_eq] at hm hn
      have e : j = i := by
        rcases Nat.lt_trichotomy j i with l | l | l
        · have a := h j
          have : j ≠ i := by omega
          simp only [sget, if_true, this, if_false] at a
          rw [sget_below d u hn.2 (by omega)] at a
          exact absurd a hm.1.2
        · exact l
        · have a := h i
          have : i ≠ j := by omega
          simp only [sget, if_true, this, if_false] at a
          rw [sget_below d t hm.2 (by omega)] at a
          exact absurd a.symm hn.1.2
      subst e
      have v : w = x := by have a := h j; simpa [sget] using a
      subst v
      congr 1
      refine ih u (j + 1) hm.2 hn.2 fun k => ?_
      by_cases c : k = j
      · subst c
        rw [sget_below d t hm.2 (by omega), sget_below d u hn.2 (by omega)]
      · have a := h k
        simpa [sget, c] using a

theorem swf_ext (d : α) (m n : SMap α) (hm : swf d m = true) (hn : swf d n = true) (h : ∀ k, sget d m k = sget d n k) : m = n :=
  swfFrom_ext d m n 0 hm hn h

end Sys2Proof.Laws
end

