-- ==== Sys2Proof/Laws/State.lean ====
section
/-! SUPPORT. What each update of the state leaves: one equation for each field, and what reading gives after writing. -/

namespace Sys2Proof.Laws

open Sys2Proof.Machine

/-! ### onSlot -/

@[simp] theorem onSlot_cur (s : State) (f : Slot → Slot) : (onSlot s f).cur = s.cur := rfl
@[simp] theorem onSlot_others (s : State) (f : Slot → Slot) : (onSlot s f).others = s.others := rfl
@[simp] theorem onSlot_latch (s : State) (f : Slot → Slot) : (onSlot s f).latch = s.latch := rfl
@[simp] theorem onSlot_cores (s : State) (f : Slot → Slot) : (onSlot s f).cores = s.cores := rfl
@[simp] theorem onSlot_dies (s : State) (f : Slot → Slot) : (onSlot s f).dies = s.dies := rfl
@[simp] theorem onSlot_mem (s : State) (f : Slot → Slot) : (onSlot s f).mem = s.mem := rfl
@[simp] theorem onSlot_net (s : State) (f : Slot → Slot) : (onSlot s f).net = s.net := rfl
@[simp] theorem onSlot_hub (s : State) (f : Slot → Slot) : (onSlot s f).hub = s.hub := rfl
@[simp] theorem onSlot_bindings (s : State) (f : Slot → Slot) : (onSlot s f).bindings = s.bindings := rfl
@[simp] theorem onSlot_engines (s : State) (f : Slot → Slot) : (onSlot s f).engines = s.engines := rfl
@[simp] theorem onSlot_outbox (s : State) (f : Slot → Slot) : (onSlot s f).outbox = s.outbox := rfl
@[simp] theorem onSlot_deferred (s : State) (f : Slot → Slot) : (onSlot s f).deferred = s.deferred := rfl
@[simp] theorem onSlot_agenda (s : State) (f : Slot → Slot) : (onSlot s f).agenda = s.agenda := rfl
@[simp] theorem onSlot_arg (s : State) (f : Slot → Slot) : (onSlot s f).arg = s.arg := rfl
@[simp] theorem onSlot_now (s : State) (f : Slot → Slot) : (onSlot s f).now = s.now := rfl
@[simp] theorem onSlot_dwell (s : State) (f : Slot → Slot) : (onSlot s f).dwell = s.dwell := rfl
@[simp] theorem onSlot_fresh (s : State) (f : Slot → Slot) : (onSlot s f).fresh = s.fresh := rfl
@[simp] theorem onSlot_resets (s : State) (f : Slot → Slot) : (onSlot s f).resets = s.resets := rfl
@[simp] theorem onSlot_fetches (s : State) (f : Slot → Slot) : (onSlot s f).fetches = s.fetches := rfl
@[simp] theorem onSlot_powered (s : State) (f : Slot → Slot) : (onSlot s f).powered = s.powered := rfl
@[simp] theorem onSlot_late (s : State) (f : Slot → Slot) : (onSlot s f).late = s.late := rfl
@[simp] theorem onSlot_stalled (s : State) (f : Slot → Slot) : (onSlot s f).stalled = s.stalled := rfl

/-! ### setSlot -/

@[simp] theorem setSlot_cur (s : State) (i : SlotId) (l : Slot) : (setSlot s i l).cur = s.cur := by unfold setSlot; split <;> rfl
@[simp] theorem setSlot_latch (s : State) (i : SlotId) (l : Slot) : (setSlot s i l).latch = s.latch := by unfold setSlot; split <;> rfl
@[simp] theorem setSlot_cores (s : State) (i : SlotId) (l : Slot) : (setSlot s i l).cores = s.cores := by unfold setSlot; split <;> rfl
@[simp] theorem setSlot_dies (s : State) (i : SlotId) (l : Slot) : (setSlot s i l).dies = s.dies := by unfold setSlot; split <;> rfl
@[simp] theorem setSlot_mem (s : State) (i : SlotId) (l : Slot) : (setSlot s i l).mem = s.mem := by unfold setSlot; split <;> rfl
@[simp] theorem setSlot_net (s : State) (i : SlotId) (l : Slot) : (setSlot s i l).net = s.net := by unfold setSlot; split <;> rfl
@[simp] theorem setSlot_hub (s : State) (i : SlotId) (l : Slot) : (setSlot s i l).hub = s.hub := by unfold setSlot; split <;> rfl
@[simp] theorem setSlot_bindings (s : State) (i : SlotId) (l : Slot) : (setSlot s i l).bindings = s.bindings := by unfold setSlot; split <;> rfl
@[simp] theorem setSlot_engines (s : State) (i : SlotId) (l : Slot) : (setSlot s i l).engines = s.engines := by unfold setSlot; split <;> rfl
@[simp] theorem setSlot_outbox (s : State) (i : SlotId) (l : Slot) : (setSlot s i l).outbox = s.outbox := by unfold setSlot; split <;> rfl
@[simp] theorem setSlot_deferred (s : State) (i : SlotId) (l : Slot) : (setSlot s i l).deferred = s.deferred := by unfold setSlot; split <;> rfl
@[simp] theorem setSlot_agenda (s : State) (i : SlotId) (l : Slot) : (setSlot s i l).agenda = s.agenda := by unfold setSlot; split <;> rfl
@[simp] theorem setSlot_arg (s : State) (i : SlotId) (l : Slot) : (setSlot s i l).arg = s.arg := by unfold setSlot; split <;> rfl
@[simp] theorem setSlot_now (s : State) (i : SlotId) (l : Slot) : (setSlot s i l).now = s.now := by unfold setSlot; split <;> rfl
@[simp] theorem setSlot_dwell (s : State) (i : SlotId) (l : Slot) : (setSlot s i l).dwell = s.dwell := by unfold setSlot; split <;> rfl
@[simp] theorem setSlot_fresh (s : State) (i : SlotId) (l : Slot) : (setSlot s i l).fresh = s.fresh := by unfold setSlot; split <;> rfl
@[simp] theorem setSlot_resets (s : State) (i : SlotId) (l : Slot) : (setSlot s i l).resets = s.resets := by unfold setSlot; split <;> rfl
@[simp] theorem setSlot_fetches (s : State) (i : SlotId) (l : Slot) : (setSlot s i l).fetches = s.fetches := by unfold setSlot; split <;> rfl
@[simp] theorem setSlot_powered (s : State) (i : SlotId) (l : Slot) : (setSlot s i l).powered = s.powered := by unfold setSlot; split <;> rfl
@[simp] theorem setSlot_late (s : State) (i : SlotId) (l : Slot) : (setSlot s i l).late = s.late := by unfold setSlot; split <;> rfl
@[simp] theorem setSlot_stalled (s : State) (i : SlotId) (l : Slot) : (setSlot s i l).stalled = s.stalled := by unfold setSlot; split <;> rfl

/-! ### modSlot -/

@[simp] theorem modSlot_cur (s : State) (i : SlotId) (f : Slot → Slot) : (modSlot s i f).cur = s.cur := by simp [modSlot]
@[simp] theorem modSlot_latch (s : State) (i : SlotId) (f : Slot → Slot) : (modSlot s i f).latch = s.latch := by simp [modSlot]
@[simp] theorem modSlot_cores (s : State) (i : SlotId) (f : Slot → Slot) : (modSlot s i f).cores = s.cores := by simp [modSlot]
@[simp] theorem modSlot_dies (s : State) (i : SlotId) (f : Slot → Slot) : (modSlot s i f).dies = s.dies := by simp [modSlot]
@[simp] theorem modSlot_mem (s : State) (i : SlotId) (f : Slot → Slot) : (modSlot s i f).mem = s.mem := by simp [modSlot]
@[simp] theorem modSlot_net (s : State) (i : SlotId) (f : Slot → Slot) : (modSlot s i f).net = s.net := by simp [modSlot]
@[simp] theorem modSlot_hub (s : State) (i : SlotId) (f : Slot → Slot) : (modSlot s i f).hub = s.hub := by simp [modSlot]
@[simp] theorem modSlot_bindings (s : State) (i : SlotId) (f : Slot → Slot) : (modSlot s i f).bindings = s.bindings := by simp [modSlot]
@[simp] theorem modSlot_engines (s : State) (i : SlotId) (f : Slot → Slot) : (modSlot s i f).engines = s.engines := by simp [modSlot]
@[simp] theorem modSlot_outbox (s : State) (i : SlotId) (f : Slot → Slot) : (modSlot s i f).outbox = s.outbox := by simp [modSlot]
@[simp] theorem modSlot_deferred (s : State) (i : SlotId) (f : Slot → Slot) : (modSlot s i f).deferred = s.deferred := by simp [modSlot]
@[simp] theorem modSlot_agenda (s : State) (i : SlotId) (f : Slot → Slot) : (modSlot s i f).agenda = s.agenda := by simp [modSlot]
@[simp] theorem modSlot_arg (s : State) (i : SlotId) (f : Slot → Slot) : (modSlot s i f).arg = s.arg := by simp [modSlot]
@[simp] theorem modSlot_now (s : State) (i : SlotId) (f : Slot → Slot) : (modSlot s i f).now = s.now := by simp [modSlot]
@[simp] theorem modSlot_dwell (s : State) (i : SlotId) (f : Slot → Slot) : (modSlot s i f).dwell = s.dwell := by simp [modSlot]
@[simp] theorem modSlot_fresh (s : State) (i : SlotId) (f : Slot → Slot) : (modSlot s i f).fresh = s.fresh := by simp [modSlot]
@[simp] theorem modSlot_resets (s : State) (i : SlotId) (f : Slot → Slot) : (modSlot s i f).resets = s.resets := by simp [modSlot]
@[simp] theorem modSlot_fetches (s : State) (i : SlotId) (f : Slot → Slot) : (modSlot s i f).fetches = s.fetches := by simp [modSlot]
@[simp] theorem modSlot_powered (s : State) (i : SlotId) (f : Slot → Slot) : (modSlot s i f).powered = s.powered := by simp [modSlot]
@[simp] theorem modSlot_late (s : State) (i : SlotId) (f : Slot → Slot) : (modSlot s i f).late = s.late := by simp [modSlot]
@[simp] theorem modSlot_stalled (s : State) (i : SlotId) (f : Slot → Slot) : (modSlot s i f).stalled = s.stalled := by simp [modSlot]

/-! ### focus -/

@[simp] theorem focus_latch (s : State) (i : SlotId) : (focus s i).latch = s.latch := by unfold focus; split <;> rfl
@[simp] theorem focus_cores (s : State) (i : SlotId) : (focus s i).cores = s.cores := by unfold focus; split <;> rfl
@[simp] theorem focus_dies (s : State) (i : SlotId) : (focus s i).dies = s.dies := by unfold focus; split <;> rfl
@[simp] theorem focus_mem (s : State) (i : SlotId) : (focus s i).mem = s.mem := by unfold focus; split <;> rfl
@[simp] theorem focus_net (s : State) (i : SlotId) : (focus s i).net = s.net := by unfold focus; split <;> rfl
@[simp] theorem focus_hub (s : State) (i : SlotId) : (focus s i).hub = s.hub := by unfold focus; split <;> rfl
@[simp] theorem focus_bindings (s : State) (i : SlotId) : (focus s i).bindings = s.bindings := by unfold focus; split <;> rfl
@[simp] theorem focus_engines (s : State) (i : SlotId) : (focus s i).engines = s.engines := by unfold focus; split <;> rfl
@[simp] theorem focus_outbox (s : State) (i : SlotId) : (focus s i).outbox = s.outbox := by unfold focus; split <;> rfl
@[simp] theorem focus_deferred (s : State) (i : SlotId) : (focus s i).deferred = s.deferred := by unfold focus; split <;> rfl
@[simp] theorem focus_agenda (s : State) (i : SlotId) : (focus s i).agenda = s.agenda := by unfold focus; split <;> rfl
@[simp] theorem focus_arg (s : State) (i : SlotId) : (focus s i).arg = s.arg := by unfold focus; split <;> rfl
@[simp] theorem focus_now (s : State) (i : SlotId) : (focus s i).now = s.now := by unfold focus; split <;> rfl
@[simp] theorem focus_dwell (s : State) (i : SlotId) : (focus s i).dwell = s.dwell := by unfold focus; split <;> rfl
@[simp] theorem focus_fresh (s : State) (i : SlotId) : (focus s i).fresh = s.fresh := by unfold focus; split <;> rfl
@[simp] theorem focus_resets (s : State) (i : SlotId) : (focus s i).resets = s.resets := by unfold focus; split <;> rfl
@[simp] theorem focus_fetches (s : State) (i : SlotId) : (focus s i).fetches = s.fetches := by unfold focus; split <;> rfl
@[simp] theorem focus_powered (s : State) (i : SlotId) : (focus s i).powered = s.powered := by unfold focus; split <;> rfl
@[simp] theorem focus_late (s : State) (i : SlotId) : (focus s i).late = s.late := by unfold focus; split <;> rfl
@[simp] theorem focus_stalled (s : State) (i : SlotId) : (focus s i).stalled = s.stalled := by unfold focus; split <;> rfl

/-! ### setCore -/

@[simp] theorem setCore_cur (s : State) (c : CoreId) (k : Core) : (setCore s c k).cur = s.cur := rfl
@[simp] theorem setCore_slot (s : State) (c : CoreId) (k : Core) : (setCore s c k).slot = s.slot := rfl
@[simp] theorem setCore_others (s : State) (c : CoreId) (k : Core) : (setCore s c k).others = s.others := rfl
@[simp] theorem setCore_latch (s : State) (c : CoreId) (k : Core) : (setCore s c k).latch = s.latch := rfl
@[simp] theorem setCore_dies (s : State) (c : CoreId) (k : Core) : (setCore s c k).dies = s.dies := rfl
@[simp] theorem setCore_mem (s : State) (c : CoreId) (k : Core) : (setCore s c k).mem = s.mem := rfl
@[simp] theorem setCore_net (s : State) (c : CoreId) (k : Core) : (setCore s c k).net = s.net := rfl
@[simp] theorem setCore_hub (s : State) (c : CoreId) (k : Core) : (setCore s c k).hub = s.hub := rfl
@[simp] theorem setCore_bindings (s : State) (c : CoreId) (k : Core) : (setCore s c k).bindings = s.bindings := rfl
@[simp] theorem setCore_engines (s : State) (c : CoreId) (k : Core) : (setCore s c k).engines = s.engines := rfl
@[simp] theorem setCore_outbox (s : State) (c : CoreId) (k : Core) : (setCore s c k).outbox = s.outbox := rfl
@[simp] theorem setCore_deferred (s : State) (c : CoreId) (k : Core) : (setCore s c k).deferred = s.deferred := rfl
@[simp] theorem setCore_agenda (s : State) (c : CoreId) (k : Core) : (setCore s c k).agenda = s.agenda := rfl
@[simp] theorem setCore_arg (s : State) (c : CoreId) (k : Core) : (setCore s c k).arg = s.arg := rfl
@[simp] theorem setCore_now (s : State) (c : CoreId) (k : Core) : (setCore s c k).now = s.now := rfl
@[simp] theorem setCore_dwell (s : State) (c : CoreId) (k : Core) : (setCore s c k).dwell = s.dwell := rfl
@[simp] theorem setCore_fresh (s : State) (c : CoreId) (k : Core) : (setCore s c k).fresh = s.fresh := rfl
@[simp] theorem setCore_resets (s : State) (c : CoreId) (k : Core) : (setCore s c k).resets = s.resets := rfl
@[simp] theorem setCore_fetches (s : State) (c : CoreId) (k : Core) : (setCore s c k).fetches = s.fetches := rfl
@[simp] theorem setCore_powered (s : State) (c : CoreId) (k : Core) : (setCore s c k).powered = s.powered := rfl
@[simp] theorem setCore_late (s : State) (c : CoreId) (k : Core) : (setCore s c k).late = s.late := rfl
@[simp] theorem setCore_stalled (s : State) (c : CoreId) (k : Core) : (setCore s c k).stalled = s.stalled := rfl

/-! ### modCore -/

@[simp] theorem modCore_cur (s : State) (c : CoreId) (f : Core → Core) : (modCore s c f).cur = s.cur := rfl
@[simp] theorem modCore_slot (s : State) (c : CoreId) (f : Core → Core) : (modCore s c f).slot = s.slot := rfl
@[simp] theorem modCore_others (s : State) (c : CoreId) (f : Core → Core) : (modCore s c f).others = s.others := rfl
@[simp] theorem modCore_latch (s : State) (c : CoreId) (f : Core → Core) : (modCore s c f).latch = s.latch := rfl
@[simp] theorem modCore_dies (s : State) (c : CoreId) (f : Core → Core) : (modCore s c f).dies = s.dies := rfl
@[simp] theorem modCore_mem (s : State) (c : CoreId) (f : Core → Core) : (modCore s c f).mem = s.mem := rfl
@[simp] theorem modCore_net (s : State) (c : CoreId) (f : Core → Core) : (modCore s c f).net = s.net := rfl
@[simp] theorem modCore_hub (s : State) (c : CoreId) (f : Core → Core) : (modCore s c f).hub = s.hub := rfl
@[simp] theorem modCore_bindings (s : State) (c : CoreId) (f : Core → Core) : (modCore s c f).bindings = s.bindings := rfl
@[simp] theorem modCore_engines (s : State) (c : CoreId) (f : Core → Core) : (modCore s c f).engines = s.engines := rfl
@[simp] theorem modCore_outbox (s : State) (c : CoreId) (f : Core → Core) : (modCore s c f).outbox = s.outbox := rfl
@[simp] theorem modCore_deferred (s : State) (c : CoreId) (f : Core → Core) : (modCore s c f).deferred = s.deferred := rfl
@[simp] theorem modCore_agenda (s : State) (c : CoreId) (f : Core → Core) : (modCore s c f).agenda = s.agenda := rfl
@[simp] theorem modCore_arg (s : State) (c : CoreId) (f : Core → Core) : (modCore s c f).arg = s.arg := rfl
@[simp] theorem modCore_now (s : State) (c : CoreId) (f : Core → Core) : (modCore s c f).now = s.now := rfl
@[simp] theorem modCore_dwell (s : State) (c : CoreId) (f : Core → Core) : (modCore s c f).dwell = s.dwell := rfl
@[simp] theorem modCore_fresh (s : State) (c : CoreId) (f : Core → Core) : (modCore s c f).fresh = s.fresh := rfl
@[simp] theorem modCore_resets (s : State) (c : CoreId) (f : Core → Core) : (modCore s c f).resets = s.resets := rfl
@[simp] theorem modCore_fetches (s : State) (c : CoreId) (f : Core → Core) : (modCore s c f).fetches = s.fetches := rfl
@[simp] theorem modCore_powered (s : State) (c : CoreId) (f : Core → Core) : (modCore s c f).powered = s.powered := rfl
@[simp] theorem modCore_late (s : State) (c : CoreId) (f : Core → Core) : (modCore s c f).late = s.late := rfl
@[simp] theorem modCore_stalled (s : State) (c : CoreId) (f : Core → Core) : (modCore s c f).stalled = s.stalled := rfl

/-! ### modDie -/

@[simp] theorem modDie_cur (s : State) (d : Nat) (f : Die → Die) : (modDie s d f).cur = s.cur := rfl
@[simp] theorem modDie_slot (s : State) (d : Nat) (f : Die → Die) : (modDie s d f).slot = s.slot := rfl
@[simp] theorem modDie_others (s : State) (d : Nat) (f : Die → Die) : (modDie s d f).others = s.others := rfl
@[simp] theorem modDie_latch (s : State) (d : Nat) (f : Die → Die) : (modDie s d f).latch = s.latch := rfl
@[simp] theorem modDie_cores (s : State) (d : Nat) (f : Die → Die) : (modDie s d f).cores = s.cores := rfl
@[simp] theorem modDie_mem (s : State) (d : Nat) (f : Die → Die) : (modDie s d f).mem = s.mem := rfl
@[simp] theorem modDie_net (s : State) (d : Nat) (f : Die → Die) : (modDie s d f).net = s.net := rfl
@[simp] theorem modDie_hub (s : State) (d : Nat) (f : Die → Die) : (modDie s d f).hub = s.hub := rfl
@[simp] theorem modDie_bindings (s : State) (d : Nat) (f : Die → Die) : (modDie s d f).bindings = s.bindings := rfl
@[simp] theorem modDie_engines (s : State) (d : Nat) (f : Die → Die) : (modDie s d f).engines = s.engines := rfl
@[simp] theorem modDie_outbox (s : State) (d : Nat) (f : Die → Die) : (modDie s d f).outbox = s.outbox := rfl
@[simp] theorem modDie_deferred (s : State) (d : Nat) (f : Die → Die) : (modDie s d f).deferred = s.deferred := rfl
@[simp] theorem modDie_agenda (s : State) (d : Nat) (f : Die → Die) : (modDie s d f).agenda = s.agenda := rfl
@[simp] theorem modDie_arg (s : State) (d : Nat) (f : Die → Die) : (modDie s d f).arg = s.arg := rfl
@[simp] theorem modDie_now (s : State) (d : Nat) (f : Die → Die) : (modDie s d f).now = s.now := rfl
@[simp] theorem modDie_dwell (s : State) (d : Nat) (f : Die → Die) : (modDie s d f).dwell = s.dwell := rfl
@[simp] theorem modDie_fresh (s : State) (d : Nat) (f : Die → Die) : (modDie s d f).fresh = s.fresh := rfl
@[simp] theorem modDie_resets (s : State) (d : Nat) (f : Die → Die) : (modDie s d f).resets = s.resets := rfl
@[simp] theorem modDie_fetches (s : State) (d : Nat) (f : Die → Die) : (modDie s d f).fetches = s.fetches := rfl
@[simp] theorem modDie_powered (s : State) (d : Nat) (f : Die → Die) : (modDie s d f).powered = s.powered := rfl
@[simp] theorem modDie_late (s : State) (d : Nat) (f : Die → Die) : (modDie s d f).late = s.late := rfl
@[simp] theorem modDie_stalled (s : State) (d : Nat) (f : Die → Die) : (modDie s d f).stalled = s.stalled := rfl

/-! ### stray -/

@[simp] theorem stray_cur (s : State) (d : Nat) : (stray s d).cur = s.cur := rfl
@[simp] theorem stray_slot (s : State) (d : Nat) : (stray s d).slot = s.slot := rfl
@[simp] theorem stray_others (s : State) (d : Nat) : (stray s d).others = s.others := rfl
@[simp] theorem stray_latch (s : State) (d : Nat) : (stray s d).latch = s.latch := rfl
@[simp] theorem stray_cores (s : State) (d : Nat) : (stray s d).cores = s.cores := rfl
@[simp] theorem stray_mem (s : State) (d : Nat) : (stray s d).mem = s.mem := rfl
@[simp] theorem stray_net (s : State) (d : Nat) : (stray s d).net = s.net := rfl
@[simp] theorem stray_hub (s : State) (d : Nat) : (stray s d).hub = s.hub := rfl
@[simp] theorem stray_bindings (s : State) (d : Nat) : (stray s d).bindings = s.bindings := rfl
@[simp] theorem stray_engines (s : State) (d : Nat) : (stray s d).engines = s.engines := rfl
@[simp] theorem stray_outbox (s : State) (d : Nat) : (stray s d).outbox = s.outbox := rfl
@[simp] theorem stray_deferred (s : State) (d : Nat) : (stray s d).deferred = s.deferred := rfl
@[simp] theorem stray_agenda (s : State) (d : Nat) : (stray s d).agenda = s.agenda := rfl
@[simp] theorem stray_arg (s : State) (d : Nat) : (stray s d).arg = s.arg := rfl
@[simp] theorem stray_now (s : State) (d : Nat) : (stray s d).now = s.now := rfl
@[simp] theorem stray_dwell (s : State) (d : Nat) : (stray s d).dwell = s.dwell := rfl
@[simp] theorem stray_fresh (s : State) (d : Nat) : (stray s d).fresh = s.fresh := rfl
@[simp] theorem stray_resets (s : State) (d : Nat) : (stray s d).resets = s.resets := rfl
@[simp] theorem stray_fetches (s : State) (d : Nat) : (stray s d).fetches = s.fetches := rfl
@[simp] theorem stray_powered (s : State) (d : Nat) : (stray s d).powered = s.powered := rfl
@[simp] theorem stray_late (s : State) (d : Nat) : (stray s d).late = s.late := rfl
@[simp] theorem stray_stalled (s : State) (d : Nat) : (stray s d).stalled = s.stalled := rfl

/-! ### modCap -/

@[simp] theorem modCap_cur (s : State) (n : Nat) (f : Capsule → Capsule) : (modCap s n f).cur = s.cur := by unfold modCap; split <;> rfl
@[simp] theorem modCap_slot (s : State) (n : Nat) (f : Capsule → Capsule) : (modCap s n f).slot = s.slot := by unfold modCap; split <;> rfl
@[simp] theorem modCap_others (s : State) (n : Nat) (f : Capsule → Capsule) : (modCap s n f).others = s.others := by unfold modCap; split <;> rfl
@[simp] theorem modCap_latch (s : State) (n : Nat) (f : Capsule → Capsule) : (modCap s n f).latch = s.latch := by unfold modCap; split <;> rfl
@[simp] theorem modCap_cores (s : State) (n : Nat) (f : Capsule → Capsule) : (modCap s n f).cores = s.cores := by unfold modCap; split <;> rfl
@[simp] theorem modCap_dies (s : State) (n : Nat) (f : Capsule → Capsule) : (modCap s n f).dies = s.dies := by unfold modCap; split <;> rfl
@[simp] theorem modCap_mem (s : State) (n : Nat) (f : Capsule → Capsule) : (modCap s n f).mem = s.mem := by unfold modCap; split <;> rfl
@[simp] theorem modCap_net (s : State) (n : Nat) (f : Capsule → Capsule) : (modCap s n f).net = s.net := by unfold modCap; split <;> rfl
@[simp] theorem modCap_bindings (s : State) (n : Nat) (f : Capsule → Capsule) : (modCap s n f).bindings = s.bindings := by unfold modCap; split <;> rfl
@[simp] theorem modCap_engines (s : State) (n : Nat) (f : Capsule → Capsule) : (modCap s n f).engines = s.engines := by unfold modCap; split <;> rfl
@[simp] theorem modCap_outbox (s : State) (n : Nat) (f : Capsule → Capsule) : (modCap s n f).outbox = s.outbox := by unfold modCap; split <;> rfl
@[simp] theorem modCap_deferred (s : State) (n : Nat) (f : Capsule → Capsule) : (modCap s n f).deferred = s.deferred := by unfold modCap; split <;> rfl
@[simp] theorem modCap_agenda (s : State) (n : Nat) (f : Capsule → Capsule) : (modCap s n f).agenda = s.agenda := by unfold modCap; split <;> rfl
@[simp] theorem modCap_arg (s : State) (n : Nat) (f : Capsule → Capsule) : (modCap s n f).arg = s.arg := by unfold modCap; split <;> rfl
@[simp] theorem modCap_now (s : State) (n : Nat) (f : Capsule → Capsule) : (modCap s n f).now = s.now := by unfold modCap; split <;> rfl
@[simp] theorem modCap_dwell (s : State) (n : Nat) (f : Capsule → Capsule) : (modCap s n f).dwell = s.dwell := by unfold modCap; split <;> rfl
@[simp] theorem modCap_fresh (s : State) (n : Nat) (f : Capsule → Capsule) : (modCap s n f).fresh = s.fresh := by unfold modCap; split <;> rfl
@[simp] theorem modCap_resets (s : State) (n : Nat) (f : Capsule → Capsule) : (modCap s n f).resets = s.resets := by unfold modCap; split <;> rfl
@[simp] theorem modCap_fetches (s : State) (n : Nat) (f : Capsule → Capsule) : (modCap s n f).fetches = s.fetches := by unfold modCap; split <;> rfl
@[simp] theorem modCap_powered (s : State) (n : Nat) (f : Capsule → Capsule) : (modCap s n f).powered = s.powered := by unfold modCap; split <;> rfl
@[simp] theorem modCap_late (s : State) (n : Nat) (f : Capsule → Capsule) : (modCap s n f).late = s.late := by unfold modCap; split <;> rfl
@[simp] theorem modCap_stalled (s : State) (n : Nat) (f : Capsule → Capsule) : (modCap s n f).stalled = s.stalled := by unfold modCap; split <;> rfl

/-! ### modWorld -/

@[simp] theorem modWorld_cur (s : State) (n : Nat) (f : World → World) : (modWorld s n f).cur = s.cur := by unfold modWorld; split <;> rfl
@[simp] theorem modWorld_slot (s : State) (n : Nat) (f : World → World) : (modWorld s n f).slot = s.slot := by unfold modWorld; split <;> rfl
@[simp] theorem modWorld_others (s : State) (n : Nat) (f : World → World) : (modWorld s n f).others = s.others := by unfold modWorld; split <;> rfl
@[simp] theorem modWorld_latch (s : State) (n : Nat) (f : World → World) : (modWorld s n f).latch = s.latch := by unfold modWorld; split <;> rfl
@[simp] theorem modWorld_cores (s : State) (n : Nat) (f : World → World) : (modWorld s n f).cores = s.cores := by unfold modWorld; split <;> rfl
@[simp] theorem modWorld_dies (s : State) (n : Nat) (f : World → World) : (modWorld s n f).dies = s.dies := by unfold modWorld; split <;> rfl
@[simp] theorem modWorld_mem (s : State) (n : Nat) (f : World → World) : (modWorld s n f).mem = s.mem := by unfold modWorld; split <;> rfl
@[simp] theorem modWorld_net (s : State) (n : Nat) (f : World → World) : (modWorld s n f).net = s.net := by unfold modWorld; split <;> rfl
@[simp] theorem modWorld_bindings (s : State) (n : Nat) (f : World → World) : (modWorld s n f).bindings = s.bindings := by unfold modWorld; split <;> rfl
@[simp] theorem modWorld_engines (s : State) (n : Nat) (f : World → World) : (modWorld s n f).engines = s.engines := by unfold modWorld; split <;> rfl
@[simp] theorem modWorld_outbox (s : State) (n : Nat) (f : World → World) : (modWorld s n f).outbox = s.outbox := by unfold modWorld; split <;> rfl
@[simp] theorem modWorld_deferred (s : State) (n : Nat) (f : World → World) : (modWorld s n f).deferred = s.deferred := by unfold modWorld; split <;> rfl
@[simp] theorem modWorld_agenda (s : State) (n : Nat) (f : World → World) : (modWorld s n f).agenda = s.agenda := by unfold modWorld; split <;> rfl
@[simp] theorem modWorld_arg (s : State) (n : Nat) (f : World → World) : (modWorld s n f).arg = s.arg := by unfold modWorld; split <;> rfl
@[simp] theorem modWorld_now (s : State) (n : Nat) (f : World → World) : (modWorld s n f).now = s.now := by unfold modWorld; split <;> rfl
@[simp] theorem modWorld_dwell (s : State) (n : Nat) (f : World → World) : (modWorld s n f).dwell = s.dwell := by unfold modWorld; split <;> rfl
@[simp] theorem modWorld_fresh (s : State) (n : Nat) (f : World → World) : (modWorld s n f).fresh = s.fresh := by unfold modWorld; split <;> rfl
@[simp] theorem modWorld_resets (s : State) (n : Nat) (f : World → World) : (modWorld s n f).resets = s.resets := by unfold modWorld; split <;> rfl
@[simp] theorem modWorld_fetches (s : State) (n : Nat) (f : World → World) : (modWorld s n f).fetches = s.fetches := by unfold modWorld; split <;> rfl
@[simp] theorem modWorld_powered (s : State) (n : Nat) (f : World → World) : (modWorld s n f).powered = s.powered := by unfold modWorld; split <;> rfl
@[simp] theorem modWorld_late (s : State) (n : Nat) (f : World → World) : (modWorld s n f).late = s.late := by unfold modWorld; split <;> rfl
@[simp] theorem modWorld_stalled (s : State) (n : Nat) (f : World → World) : (modWorld s n f).stalled = s.stalled := by unfold modWorld; split <;> rfl

/-! ### bump -/

@[simp] theorem bump_cur (s : State) : (bump s).cur = s.cur := rfl
@[simp] theorem bump_slot (s : State) : (bump s).slot = s.slot := rfl
@[simp] theorem bump_others (s : State) : (bump s).others = s.others := rfl
@[simp] theorem bump_latch (s : State) : (bump s).latch = s.latch := rfl
@[simp] theorem bump_cores (s : State) : (bump s).cores = s.cores := rfl
@[simp] theorem bump_dies (s : State) : (bump s).dies = s.dies := rfl
@[simp] theorem bump_mem (s : State) : (bump s).mem = s.mem := rfl
@[simp] theorem bump_net (s : State) : (bump s).net = s.net := rfl
@[simp] theorem bump_hub (s : State) : (bump s).hub = s.hub := rfl
@[simp] theorem bump_bindings (s : State) : (bump s).bindings = s.bindings := rfl
@[simp] theorem bump_engines (s : State) : (bump s).engines = s.engines := rfl
@[simp] theorem bump_outbox (s : State) : (bump s).outbox = s.outbox := rfl
@[simp] theorem bump_deferred (s : State) : (bump s).deferred = s.deferred := rfl
@[simp] theorem bump_agenda (s : State) : (bump s).agenda = s.agenda := rfl
@[simp] theorem bump_arg (s : State) : (bump s).arg = s.arg := rfl
@[simp] theorem bump_now (s : State) : (bump s).now = s.now := rfl
@[simp] theorem bump_dwell (s : State) : (bump s).dwell = s.dwell := rfl
@[simp] theorem bump_resets (s : State) : (bump s).resets = s.resets := rfl
@[simp] theorem bump_fetches (s : State) : (bump s).fetches = s.fetches := rfl
@[simp] theorem bump_powered (s : State) : (bump s).powered = s.powered := rfl
@[simp] theorem bump_late (s : State) : (bump s).late = s.late := rfl
@[simp] theorem bump_stalled (s : State) : (bump s).stalled = s.stalled := rfl

/-! ### retireTo -/

@[simp] theorem retireTo_cur (n : Word) (jump : Bool) (s : State) : (retireTo n jump s).cur = s.cur := rfl
@[simp] theorem retireTo_others (n : Word) (jump : Bool) (s : State) : (retireTo n jump s).others = s.others := rfl
@[simp] theorem retireTo_latch (n : Word) (jump : Bool) (s : State) : (retireTo n jump s).latch = s.latch := rfl
@[simp] theorem retireTo_cores (n : Word) (jump : Bool) (s : State) : (retireTo n jump s).cores = s.cores := rfl
@[simp] theorem retireTo_dies (n : Word) (jump : Bool) (s : State) : (retireTo n jump s).dies = s.dies := rfl
@[simp] theorem retireTo_mem (n : Word) (jump : Bool) (s : State) : (retireTo n jump s).mem = s.mem := rfl
@[simp] theorem retireTo_net (n : Word) (jump : Bool) (s : State) : (retireTo n jump s).net = s.net := rfl
@[simp] theorem retireTo_hub (n : Word) (jump : Bool) (s : State) : (retireTo n jump s).hub = s.hub := rfl
@[simp] theorem retireTo_bindings (n : Word) (jump : Bool) (s : State) : (retireTo n jump s).bindings = s.bindings := rfl
@[simp] theorem retireTo_engines (n : Word) (jump : Bool) (s : State) : (retireTo n jump s).engines = s.engines := rfl
@[simp] theorem retireTo_outbox (n : Word) (jump : Bool) (s : State) : (retireTo n jump s).outbox = s.outbox := rfl
@[simp] theorem retireTo_deferred (n : Word) (jump : Bool) (s : State) : (retireTo n jump s).deferred = s.deferred := rfl
@[simp] theorem retireTo_agenda (n : Word) (jump : Bool) (s : State) : (retireTo n jump s).agenda = s.agenda := rfl
@[simp] theorem retireTo_arg (n : Word) (jump : Bool) (s : State) : (retireTo n jump s).arg = s.arg := rfl
@[simp] theorem retireTo_now (n : Word) (jump : Bool) (s : State) : (retireTo n jump s).now = s.now := rfl
@[simp] theorem retireTo_dwell (n : Word) (jump : Bool) (s : State) : (retireTo n jump s).dwell = s.dwell := rfl
@[simp] theorem retireTo_fresh (n : Word) (jump : Bool) (s : State) : (retireTo n jump s).fresh = s.fresh := rfl
@[simp] theorem retireTo_resets (n : Word) (jump : Bool) (s : State) : (retireTo n jump s).resets = s.resets := rfl
@[simp] theorem retireTo_fetches (n : Word) (jump : Bool) (s : State) : (retireTo n jump s).fetches = s.fetches := rfl
@[simp] theorem retireTo_powered (n : Word) (jump : Bool) (s : State) : (retireTo n jump s).powered = s.powered := rfl
@[simp] theorem retireTo_late (n : Word) (jump : Bool) (s : State) : (retireTo n jump s).late = s.late := rfl
@[simp] theorem retireTo_stalled (n : Word) (jump : Bool) (s : State) : (retireTo n jump s).stalled = s.stalled := rfl

/-! ### retire -/

@[simp] theorem retire_cur (len : Word) (s : State) : (retire len s).cur = s.cur := rfl
@[simp] theorem retire_others (len : Word) (s : State) : (retire len s).others = s.others := rfl
@[simp] theorem retire_latch (len : Word) (s : State) : (retire len s).latch = s.latch := rfl
@[simp] theorem retire_cores (len : Word) (s : State) : (retire len s).cores = s.cores := rfl
@[simp] theorem retire_dies (len : Word) (s : State) : (retire len s).dies = s.dies := rfl
@[simp] theorem retire_mem (len : Word) (s : State) : (retire len s).mem = s.mem := rfl
@[simp] theorem retire_net (len : Word) (s : State) : (retire len s).net = s.net := rfl
@[simp] theorem retire_hub (len : Word) (s : State) : (retire len s).hub = s.hub := rfl
@[simp] theorem retire_bindings (len : Word) (s : State) : (retire len s).bindings = s.bindings := rfl
@[simp] theorem retire_engines (len : Word) (s : State) : (retire len s).engines = s.engines := rfl
@[simp] theorem retire_outbox (len : Word) (s : State) : (retire len s).outbox = s.outbox := rfl
@[simp] theorem retire_deferred (len : Word) (s : State) : (retire len s).deferred = s.deferred := rfl
@[simp] theorem retire_agenda (len : Word) (s : State) : (retire len s).agenda = s.agenda := rfl
@[simp] theorem retire_arg (len : Word) (s : State) : (retire len s).arg = s.arg := rfl
@[simp] theorem retire_now (len : Word) (s : State) : (retire len s).now = s.now := rfl
@[simp] theorem retire_dwell (len : Word) (s : State) : (retire len s).dwell = s.dwell := rfl
@[simp] theorem retire_fresh (len : Word) (s : State) : (retire len s).fresh = s.fresh := rfl
@[simp] theorem retire_resets (len : Word) (s : State) : (retire len s).resets = s.resets := rfl
@[simp] theorem retire_fetches (len : Word) (s : State) : (retire len s).fetches = s.fetches := rfl
@[simp] theorem retire_powered (len : Word) (s : State) : (retire len s).powered = s.powered := rfl
@[simp] theorem retire_late (len : Word) (s : State) : (retire len s).late = s.late := rfl
@[simp] theorem retire_stalled (len : Word) (s : State) : (retire len s).stalled = s.stalled := rfl

/-! ### reopen -/

@[simp] theorem reopen_cur (s : State) : (reopen s).cur = s.cur := rfl
@[simp] theorem reopen_others (s : State) : (reopen s).others = s.others := rfl
@[simp] theorem reopen_latch (s : State) : (reopen s).latch = s.latch := rfl
@[simp] theorem reopen_cores (s : State) : (reopen s).cores = s.cores := rfl
@[simp] theorem reopen_dies (s : State) : (reopen s).dies = s.dies := rfl
@[simp] theorem reopen_mem (s : State) : (reopen s).mem = s.mem := rfl
@[simp] theorem reopen_net (s : State) : (reopen s).net = s.net := rfl
@[simp] theorem reopen_hub (s : State) : (reopen s).hub = s.hub := rfl
@[simp] theorem reopen_bindings (s : State) : (reopen s).bindings = s.bindings := rfl
@[simp] theorem reopen_engines (s : State) : (reopen s).engines = s.engines := rfl
@[simp] theorem reopen_outbox (s : State) : (reopen s).outbox = s.outbox := rfl
@[simp] theorem reopen_deferred (s : State) : (reopen s).deferred = s.deferred := rfl
@[simp] theorem reopen_agenda (s : State) : (reopen s).agenda = s.agenda := rfl
@[simp] theorem reopen_arg (s : State) : (reopen s).arg = s.arg := rfl
@[simp] theorem reopen_now (s : State) : (reopen s).now = s.now := rfl
@[simp] theorem reopen_dwell (s : State) : (reopen s).dwell = s.dwell := rfl
@[simp] theorem reopen_fresh (s : State) : (reopen s).fresh = s.fresh := rfl
@[simp] theorem reopen_resets (s : State) : (reopen s).resets = s.resets := rfl
@[simp] theorem reopen_fetches (s : State) : (reopen s).fetches = s.fetches := rfl
@[simp] theorem reopen_powered (s : State) : (reopen s).powered = s.powered := rfl
@[simp] theorem reopen_late (s : State) : (reopen s).late = s.late := rfl
@[simp] theorem reopen_stalled (s : State) : (reopen s).stalled = s.stalled := rfl

/-! ### noteFault -/

@[simp] theorem noteFault_cur (s : State) (cap : Option Nat) (f : FaultRec) : (noteFault s cap f).cur = s.cur := by unfold noteFault; cases cap <;> simp
@[simp] theorem noteFault_slot (s : State) (cap : Option Nat) (f : FaultRec) : (noteFault s cap f).slot = s.slot := by unfold noteFault; cases cap <;> simp
@[simp] theorem noteFault_others (s : State) (cap : Option Nat) (f : FaultRec) : (noteFault s cap f).others = s.others := by unfold noteFault; cases cap <;> simp
@[simp] theorem noteFault_latch (s : State) (cap : Option Nat) (f : FaultRec) : (noteFault s cap f).latch = s.latch := by unfold noteFault; cases cap <;> simp
@[simp] theorem noteFault_cores (s : State) (cap : Option Nat) (f : FaultRec) : (noteFault s cap f).cores = s.cores := by unfold noteFault; cases cap <;> simp
@[simp] theorem noteFault_dies (s : State) (cap : Option Nat) (f : FaultRec) : (noteFault s cap f).dies = s.dies := by unfold noteFault; cases cap <;> simp
@[simp] theorem noteFault_mem (s : State) (cap : Option Nat) (f : FaultRec) : (noteFault s cap f).mem = s.mem := by unfold noteFault; cases cap <;> simp
@[simp] theorem noteFault_net (s : State) (cap : Option Nat) (f : FaultRec) : (noteFault s cap f).net = s.net := by unfold noteFault; cases cap <;> simp
@[simp] theorem noteFault_bindings (s : State) (cap : Option Nat) (f : FaultRec) : (noteFault s cap f).bindings = s.bindings := by unfold noteFault; cases cap <;> simp
@[simp] theorem noteFault_engines (s : State) (cap : Option Nat) (f : FaultRec) : (noteFault s cap f).engines = s.engines := by unfold noteFault; cases cap <;> simp
@[simp] theorem noteFault_outbox (s : State) (cap : Option Nat) (f : FaultRec) : (noteFault s cap f).outbox = s.outbox := by unfold noteFault; cases cap <;> simp
@[simp] theorem noteFault_deferred (s : State) (cap : Option Nat) (f : FaultRec) : (noteFault s cap f).deferred = s.deferred := by unfold noteFault; cases cap <;> simp
@[simp] theorem noteFault_agenda (s : State) (cap : Option Nat) (f : FaultRec) : (noteFault s cap f).agenda = s.agenda := by unfold noteFault; cases cap <;> simp
@[simp] theorem noteFault_arg (s : State) (cap : Option Nat) (f : FaultRec) : (noteFault s cap f).arg = s.arg := by unfold noteFault; cases cap <;> simp
@[simp] theorem noteFault_now (s : State) (cap : Option Nat) (f : FaultRec) : (noteFault s cap f).now = s.now := by unfold noteFault; cases cap <;> simp
@[simp] theorem noteFault_dwell (s : State) (cap : Option Nat) (f : FaultRec) : (noteFault s cap f).dwell = s.dwell := by unfold noteFault; cases cap <;> simp
@[simp] theorem noteFault_fresh (s : State) (cap : Option Nat) (f : FaultRec) : (noteFault s cap f).fresh = s.fresh := by unfold noteFault; cases cap <;> simp
@[simp] theorem noteFault_resets (s : State) (cap : Option Nat) (f : FaultRec) : (noteFault s cap f).resets = s.resets := by unfold noteFault; cases cap <;> simp
@[simp] theorem noteFault_fetches (s : State) (cap : Option Nat) (f : FaultRec) : (noteFault s cap f).fetches = s.fetches := by unfold noteFault; cases cap <;> simp
@[simp] theorem noteFault_powered (s : State) (cap : Option Nat) (f : FaultRec) : (noteFault s cap f).powered = s.powered := by unfold noteFault; cases cap <;> simp
@[simp] theorem noteFault_late (s : State) (cap : Option Nat) (f : FaultRec) : (noteFault s cap f).late = s.late := by unfold noteFault; cases cap <;> simp
@[simp] theorem noteFault_stalled (s : State) (cap : Option Nat) (f : FaultRec) : (noteFault s cap f).stalled = s.stalled := by unfold noteFault; cases cap <;> simp

/-! ### modEngine -/

@[simp] theorem modEngine_cur (s : State) (n : Nat) (f : Engine → Engine) : (modEngine s n f).cur = s.cur := rfl
@[simp] theorem modEngine_slot (s : State) (n : Nat) (f : Engine → Engine) : (modEngine s n f).slot = s.slot := rfl
@[simp] theorem modEngine_others (s : State) (n : Nat) (f : Engine → Engine) : (modEngine s n f).others = s.others := rfl
@[simp] theorem modEngine_latch (s : State) (n : Nat) (f : Engine → Engine) : (modEngine s n f).latch = s.latch := rfl
@[simp] theorem modEngine_cores (s : State) (n : Nat) (f : Engine → Engine) : (modEngine s n f).cores = s.cores := rfl
@[simp] theorem modEngine_dies (s : State) (n : Nat) (f : Engine → Engine) : (modEngine s n f).dies = s.dies := rfl
@[simp] theorem modEngine_mem (s : State) (n : Nat) (f : Engine → Engine) : (modEngine s n f).mem = s.mem := rfl
@[simp] theorem modEngine_net (s : State) (n : Nat) (f : Engine → Engine) : (modEngine s n f).net = s.net := rfl
@[simp] theorem modEngine_hub (s : State) (n : Nat) (f : Engine → Engine) : (modEngine s n f).hub = s.hub := rfl
@[simp] theorem modEngine_bindings (s : State) (n : Nat) (f : Engine → Engine) : (modEngine s n f).bindings = s.bindings := rfl
@[simp] theorem modEngine_outbox (s : State) (n : Nat) (f : Engine → Engine) : (modEngine s n f).outbox = s.outbox := rfl
@[simp] theorem modEngine_deferred (s : State) (n : Nat) (f : Engine → Engine) : (modEngine s n f).deferred = s.deferred := rfl
@[simp] theorem modEngine_agenda (s : State) (n : Nat) (f : Engine → Engine) : (modEngine s n f).agenda = s.agenda := rfl
@[simp] theorem modEngine_arg (s : State) (n : Nat) (f : Engine → Engine) : (modEngine s n f).arg = s.arg := rfl
@[simp] theorem modEngine_now (s : State) (n : Nat) (f : Engine → Engine) : (modEngine s n f).now = s.now := rfl
@[simp] theorem modEngine_dwell (s : State) (n : Nat) (f : Engine → Engine) : (modEngine s n f).dwell = s.dwell := rfl
@[simp] theorem modEngine_fresh (s : State) (n : Nat) (f : Engine → Engine) : (modEngine s n f).fresh = s.fresh := rfl
@[simp] theorem modEngine_resets (s : State) (n : Nat) (f : Engine → Engine) : (modEngine s n f).resets = s.resets := rfl
@[simp] theorem modEngine_fetches (s : State) (n : Nat) (f : Engine → Engine) : (modEngine s n f).fetches = s.fetches := rfl
@[simp] theorem modEngine_powered (s : State) (n : Nat) (f : Engine → Engine) : (modEngine s n f).powered = s.powered := rfl
@[simp] theorem modEngine_late (s : State) (n : Nat) (f : Engine → Engine) : (modEngine s n f).late = s.late := rfl
@[simp] theorem modEngine_stalled (s : State) (n : Nat) (f : Engine → Engine) : (modEngine s n f).stalled = s.stalled := rfl

/-! ### sendPacket -/

@[simp] theorem sendPacket_cur (s : State) (c : Cargo) (d : Dest) (k : KeyId) (r : Nat) (h : Option Word) (p : Hop) : (sendPacket s c d k r h p).cur = s.cur := rfl
@[simp] theorem sendPacket_slot (s : State) (c : Cargo) (d : Dest) (k : KeyId) (r : Nat) (h : Option Word) (p : Hop) : (sendPacket s c d k r h p).slot = s.slot := rfl
@[simp] theorem sendPacket_others (s : State) (c : Cargo) (d : Dest) (k : KeyId) (r : Nat) (h : Option Word) (p : Hop) : (sendPacket s c d k r h p).others = s.others := rfl
@[simp] theorem sendPacket_latch (s : State) (c : Cargo) (d : Dest) (k : KeyId) (r : Nat) (h : Option Word) (p : Hop) : (sendPacket s c d k r h p).latch = s.latch := rfl
@[simp] theorem sendPacket_cores (s : State) (c : Cargo) (d : Dest) (k : KeyId) (r : Nat) (h : Option Word) (p : Hop) : (sendPacket s c d k r h p).cores = s.cores := rfl
@[simp] theorem sendPacket_dies (s : State) (c : Cargo) (d : Dest) (k : KeyId) (r : Nat) (h : Option Word) (p : Hop) : (sendPacket s c d k r h p).dies = s.dies := rfl
@[simp] theorem sendPacket_mem (s : State) (c : Cargo) (d : Dest) (k : KeyId) (r : Nat) (h : Option Word) (p : Hop) : (sendPacket s c d k r h p).mem = s.mem := rfl
@[simp] theorem sendPacket_hub (s : State) (c : Cargo) (d : Dest) (k : KeyId) (r : Nat) (h : Option Word) (p : Hop) : (sendPacket s c d k r h p).hub = s.hub := rfl
@[simp] theorem sendPacket_bindings (s : State) (c : Cargo) (d : Dest) (k : KeyId) (r : Nat) (h : Option Word) (p : Hop) : (sendPacket s c d k r h p).bindings = s.bindings := rfl
@[simp] theorem sendPacket_engines (s : State) (c : Cargo) (d : Dest) (k : KeyId) (r : Nat) (h : Option Word) (p : Hop) : (sendPacket s c d k r h p).engines = s.engines := rfl
@[simp] theorem sendPacket_outbox (s : State) (c : Cargo) (d : Dest) (k : KeyId) (r : Nat) (h : Option Word) (p : Hop) : (sendPacket s c d k r h p).outbox = s.outbox := rfl
@[simp] theorem sendPacket_deferred (s : State) (c : Cargo) (d : Dest) (k : KeyId) (r : Nat) (h : Option Word) (p : Hop) : (sendPacket s c d k r h p).deferred = s.deferred := rfl
@[simp] theorem sendPacket_agenda (s : State) (c : Cargo) (d : Dest) (k : KeyId) (r : Nat) (h : Option Word) (p : Hop) : (sendPacket s c d k r h p).agenda = s.agenda := rfl
@[simp] theorem sendPacket_arg (s : State) (c : Cargo) (d : Dest) (k : KeyId) (r : Nat) (h : Option Word) (p : Hop) : (sendPacket s c d k r h p).arg = s.arg := rfl
@[simp] theorem sendPacket_now (s : State) (c : Cargo) (d : Dest) (k : KeyId) (r : Nat) (h : Option Word) (p : Hop) : (sendPacket s c d k r h p).now = s.now := rfl
@[simp] theorem sendPacket_dwell (s : State) (c : Cargo) (d : Dest) (k : KeyId) (r : Nat) (h : Option Word) (p : Hop) : (sendPacket s c d k r h p).dwell = s.dwell := rfl
@[simp] theorem sendPacket_resets (s : State) (c : Cargo) (d : Dest) (k : KeyId) (r : Nat) (h : Option Word) (p : Hop) : (sendPacket s c d k r h p).resets = s.resets := rfl
@[simp] theorem sendPacket_fetches (s : State) (c : Cargo) (d : Dest) (k : KeyId) (r : Nat) (h : Option Word) (p : Hop) : (sendPacket s c d k r h p).fetches = s.fetches := rfl
@[simp] theorem sendPacket_powered (s : State) (c : Cargo) (d : Dest) (k : KeyId) (r : Nat) (h : Option Word) (p : Hop) : (sendPacket s c d k r h p).powered = s.powered := rfl
@[simp] theorem sendPacket_late (s : State) (c : Cargo) (d : Dest) (k : KeyId) (r : Nat) (h : Option Word) (p : Hop) : (sendPacket s c d k r h p).late = s.late := rfl
@[simp] theorem sendPacket_stalled (s : State) (c : Cargo) (d : Dest) (k : KeyId) (r : Nat) (h : Option Word) (p : Hop) : (sendPacket s c d k r h p).stalled = s.stalled := rfl

/-! ### launch -/

@[simp] theorem launch_cur (s : State) (p : Packet) : (launch s p).cur = s.cur := rfl
@[simp] theorem launch_slot (s : State) (p : Packet) : (launch s p).slot = s.slot := rfl
@[simp] theorem launch_others (s : State) (p : Packet) : (launch s p).others = s.others := rfl
@[simp] theorem launch_latch (s : State) (p : Packet) : (launch s p).latch = s.latch := rfl
@[simp] theorem launch_cores (s : State) (p : Packet) : (launch s p).cores = s.cores := rfl
@[simp] theorem launch_dies (s : State) (p : Packet) : (launch s p).dies = s.dies := rfl
@[simp] theorem launch_mem (s : State) (p : Packet) : (launch s p).mem = s.mem := rfl
@[simp] theorem launch_hub (s : State) (p : Packet) : (launch s p).hub = s.hub := rfl
@[simp] theorem launch_bindings (s : State) (p : Packet) : (launch s p).bindings = s.bindings := rfl
@[simp] theorem launch_engines (s : State) (p : Packet) : (launch s p).engines = s.engines := rfl
@[simp] theorem launch_outbox (s : State) (p : Packet) : (launch s p).outbox = s.outbox := rfl
@[simp] theorem launch_deferred (s : State) (p : Packet) : (launch s p).deferred = s.deferred := rfl
@[simp] theorem launch_agenda (s : State) (p : Packet) : (launch s p).agenda = s.agenda := rfl
@[simp] theorem launch_arg (s : State) (p : Packet) : (launch s p).arg = s.arg := rfl
@[simp] theorem launch_now (s : State) (p : Packet) : (launch s p).now = s.now := rfl
@[simp] theorem launch_dwell (s : State) (p : Packet) : (launch s p).dwell = s.dwell := rfl
@[simp] theorem launch_resets (s : State) (p : Packet) : (launch s p).resets = s.resets := rfl
@[simp] theorem launch_fetches (s : State) (p : Packet) : (launch s p).fetches = s.fetches := rfl
@[simp] theorem launch_powered (s : State) (p : Packet) : (launch s p).powered = s.powered := rfl
@[simp] theorem launch_late (s : State) (p : Packet) : (launch s p).late = s.late := rfl
@[simp] theorem launch_stalled (s : State) (p : Packet) : (launch s p).stalled = s.stalled := rfl

/-! ### dropPacket -/

@[simp] theorem dropPacket_cur (s : State) (id : Nat) : (dropPacket s id).cur = s.cur := rfl
@[simp] theorem dropPacket_slot (s : State) (id : Nat) : (dropPacket s id).slot = s.slot := rfl
@[simp] theorem dropPacket_others (s : State) (id : Nat) : (dropPacket s id).others = s.others := rfl
@[simp] theorem dropPacket_latch (s : State) (id : Nat) : (dropPacket s id).latch = s.latch := rfl
@[simp] theorem dropPacket_cores (s : State) (id : Nat) : (dropPacket s id).cores = s.cores := rfl
@[simp] theorem dropPacket_dies (s : State) (id : Nat) : (dropPacket s id).dies = s.dies := rfl
@[simp] theorem dropPacket_mem (s : State) (id : Nat) : (dropPacket s id).mem = s.mem := rfl
@[simp] theorem dropPacket_hub (s : State) (id : Nat) : (dropPacket s id).hub = s.hub := rfl
@[simp] theorem dropPacket_bindings (s : State) (id : Nat) : (dropPacket s id).bindings = s.bindings := rfl
@[simp] theorem dropPacket_engines (s : State) (id : Nat) : (dropPacket s id).engines = s.engines := rfl
@[simp] theorem dropPacket_outbox (s : State) (id : Nat) : (dropPacket s id).outbox = s.outbox := rfl
@[simp] theorem dropPacket_deferred (s : State) (id : Nat) : (dropPacket s id).deferred = s.deferred := rfl
@[simp] theorem dropPacket_agenda (s : State) (id : Nat) : (dropPacket s id).agenda = s.agenda := rfl
@[simp] theorem dropPacket_arg (s : State) (id : Nat) : (dropPacket s id).arg = s.arg := rfl
@[simp] theorem dropPacket_now (s : State) (id : Nat) : (dropPacket s id).now = s.now := rfl
@[simp] theorem dropPacket_dwell (s : State) (id : Nat) : (dropPacket s id).dwell = s.dwell := rfl
@[simp] theorem dropPacket_fresh (s : State) (id : Nat) : (dropPacket s id).fresh = s.fresh := rfl
@[simp] theorem dropPacket_resets (s : State) (id : Nat) : (dropPacket s id).resets = s.resets := rfl
@[simp] theorem dropPacket_fetches (s : State) (id : Nat) : (dropPacket s id).fetches = s.fetches := rfl
@[simp] theorem dropPacket_powered (s : State) (id : Nat) : (dropPacket s id).powered = s.powered := rfl
@[simp] theorem dropPacket_late (s : State) (id : Nat) : (dropPacket s id).late = s.late := rfl
@[simp] theorem dropPacket_stalled (s : State) (id : Nat) : (dropPacket s id).stalled = s.stalled := rfl

/-! ### putPacket -/

@[simp] theorem putPacket_cur (s : State) (id : Nat) (p : Packet) : (putPacket s id p).cur = s.cur := rfl
@[simp] theorem putPacket_slot (s : State) (id : Nat) (p : Packet) : (putPacket s id p).slot = s.slot := rfl
@[simp] theorem putPacket_others (s : State) (id : Nat) (p : Packet) : (putPacket s id p).others = s.others := rfl
@[simp] theorem putPacket_latch (s : State) (id : Nat) (p : Packet) : (putPacket s id p).latch = s.latch := rfl
@[simp] theorem putPacket_cores (s : State) (id : Nat) (p : Packet) : (putPacket s id p).cores = s.cores := rfl
@[simp] theorem putPacket_dies (s : State) (id : Nat) (p : Packet) : (putPacket s id p).dies = s.dies := rfl
@[simp] theorem putPacket_mem (s : State) (id : Nat) (p : Packet) : (putPacket s id p).mem = s.mem := rfl
@[simp] theorem putPacket_hub (s : State) (id : Nat) (p : Packet) : (putPacket s id p).hub = s.hub := rfl
@[simp] theorem putPacket_bindings (s : State) (id : Nat) (p : Packet) : (putPacket s id p).bindings = s.bindings := rfl
@[simp] theorem putPacket_engines (s : State) (id : Nat) (p : Packet) : (putPacket s id p).engines = s.engines := rfl
@[simp] theorem putPacket_outbox (s : State) (id : Nat) (p : Packet) : (putPacket s id p).outbox = s.outbox := rfl
@[simp] theorem putPacket_deferred (s : State) (id : Nat) (p : Packet) : (putPacket s id p).deferred = s.deferred := rfl
@[simp] theorem putPacket_agenda (s : State) (id : Nat) (p : Packet) : (putPacket s id p).agenda = s.agenda := rfl
@[simp] theorem putPacket_arg (s : State) (id : Nat) (p : Packet) : (putPacket s id p).arg = s.arg := rfl
@[simp] theorem putPacket_now (s : State) (id : Nat) (p : Packet) : (putPacket s id p).now = s.now := rfl
@[simp] theorem putPacket_dwell (s : State) (id : Nat) (p : Packet) : (putPacket s id p).dwell = s.dwell := rfl
@[simp] theorem putPacket_fresh (s : State) (id : Nat) (p : Packet) : (putPacket s id p).fresh = s.fresh := rfl
@[simp] theorem putPacket_resets (s : State) (id : Nat) (p : Packet) : (putPacket s id p).resets = s.resets := rfl
@[simp] theorem putPacket_fetches (s : State) (id : Nat) (p : Packet) : (putPacket s id p).fetches = s.fetches := rfl
@[simp] theorem putPacket_powered (s : State) (id : Nat) (p : Packet) : (putPacket s id p).powered = s.powered := rfl
@[simp] theorem putPacket_late (s : State) (id : Nat) (p : Packet) : (putPacket s id p).late = s.late := rfl
@[simp] theorem putPacket_stalled (s : State) (id : Nat) (p : Packet) : (putPacket s id p).stalled = s.stalled := rfl

/-! ### answer -/

@[simp] theorem answer_cur (s : State) (p : Packet) (bs : List Byte) (bad : Bool) : (answer s p bs bad).cur = s.cur := rfl
@[simp] theorem answer_slot (s : State) (p : Packet) (bs : List Byte) (bad : Bool) : (answer s p bs bad).slot = s.slot := rfl
@[simp] theorem answer_others (s : State) (p : Packet) (bs : List Byte) (bad : Bool) : (answer s p bs bad).others = s.others := rfl
@[simp] theorem answer_latch (s : State) (p : Packet) (bs : List Byte) (bad : Bool) : (answer s p bs bad).latch = s.latch := rfl
@[simp] theorem answer_cores (s : State) (p : Packet) (bs : List Byte) (bad : Bool) : (answer s p bs bad).cores = s.cores := rfl
@[simp] theorem answer_dies (s : State) (p : Packet) (bs : List Byte) (bad : Bool) : (answer s p bs bad).dies = s.dies := rfl
@[simp] theorem answer_mem (s : State) (p : Packet) (bs : List Byte) (bad : Bool) : (answer s p bs bad).mem = s.mem := rfl
@[simp] theorem answer_hub (s : State) (p : Packet) (bs : List Byte) (bad : Bool) : (answer s p bs bad).hub = s.hub := rfl
@[simp] theorem answer_bindings (s : State) (p : Packet) (bs : List Byte) (bad : Bool) : (answer s p bs bad).bindings = s.bindings := rfl
@[simp] theorem answer_engines (s : State) (p : Packet) (bs : List Byte) (bad : Bool) : (answer s p bs bad).engines = s.engines := rfl
@[simp] theorem answer_outbox (s : State) (p : Packet) (bs : List Byte) (bad : Bool) : (answer s p bs bad).outbox = s.outbox := rfl
@[simp] theorem answer_deferred (s : State) (p : Packet) (bs : List Byte) (bad : Bool) : (answer s p bs bad).deferred = s.deferred := rfl
@[simp] theorem answer_agenda (s : State) (p : Packet) (bs : List Byte) (bad : Bool) : (answer s p bs bad).agenda = s.agenda := rfl
@[simp] theorem answer_arg (s : State) (p : Packet) (bs : List Byte) (bad : Bool) : (answer s p bs bad).arg = s.arg := rfl
@[simp] theorem answer_now (s : State) (p : Packet) (bs : List Byte) (bad : Bool) : (answer s p bs bad).now = s.now := rfl
@[simp] theorem answer_dwell (s : State) (p : Packet) (bs : List Byte) (bad : Bool) : (answer s p bs bad).dwell = s.dwell := rfl
@[simp] theorem answer_resets (s : State) (p : Packet) (bs : List Byte) (bad : Bool) : (answer s p bs bad).resets = s.resets := rfl
@[simp] theorem answer_fetches (s : State) (p : Packet) (bs : List Byte) (bad : Bool) : (answer s p bs bad).fetches = s.fetches := rfl
@[simp] theorem answer_powered (s : State) (p : Packet) (bs : List Byte) (bad : Bool) : (answer s p bs bad).powered = s.powered := rfl
@[simp] theorem answer_late (s : State) (p : Packet) (bs : List Byte) (bad : Bool) : (answer s p bs bad).late = s.late := rfl
@[simp] theorem answer_stalled (s : State) (p : Packet) (bs : List Byte) (bad : Bool) : (answer s p bs bad).stalled = s.stalled := rfl

/-! ### noteComplete -/

@[simp] theorem noteComplete_cur (s : State) (id : Nat) (p : Packet) : (noteComplete s id p).cur = s.cur := by unfold noteComplete; split <;> [rfl; (split <;> simp)]
@[simp] theorem noteComplete_latch (s : State) (id : Nat) (p : Packet) : (noteComplete s id p).latch = s.latch := by unfold noteComplete; split <;> [rfl; (split <;> simp)]
@[simp] theorem noteComplete_cores (s : State) (id : Nat) (p : Packet) : (noteComplete s id p).cores = s.cores := by unfold noteComplete; split <;> [rfl; (split <;> simp)]
@[simp] theorem noteComplete_dies (s : State) (id : Nat) (p : Packet) : (noteComplete s id p).dies = s.dies := by unfold noteComplete; split <;> [rfl; (split <;> simp)]
@[simp] theorem noteComplete_mem (s : State) (id : Nat) (p : Packet) : (noteComplete s id p).mem = s.mem := by unfold noteComplete; split <;> [rfl; (split <;> simp)]
@[simp] theorem noteComplete_net (s : State) (id : Nat) (p : Packet) : (noteComplete s id p).net = s.net := by unfold noteComplete; split <;> [rfl; (split <;> simp)]
@[simp] theorem noteComplete_hub (s : State) (id : Nat) (p : Packet) : (noteComplete s id p).hub = s.hub := by unfold noteComplete; split <;> [rfl; (split <;> simp)]
@[simp] theorem noteComplete_bindings (s : State) (id : Nat) (p : Packet) : (noteComplete s id p).bindings = s.bindings := by unfold noteComplete; split <;> [rfl; (split <;> simp)]
@[simp] theorem noteComplete_engines (s : State) (id : Nat) (p : Packet) : (noteComplete s id p).engines = s.engines := by unfold noteComplete; split <;> [rfl; (split <;> simp)]
@[simp] theorem noteComplete_outbox (s : State) (id : Nat) (p : Packet) : (noteComplete s id p).outbox = s.outbox := by unfold noteComplete; split <;> [rfl; (split <;> simp)]
@[simp] theorem noteComplete_deferred (s : State) (id : Nat) (p : Packet) : (noteComplete s id p).deferred = s.deferred := by unfold noteComplete; split <;> [rfl; (split <;> simp)]
@[simp] theorem noteComplete_agenda (s : State) (id : Nat) (p : Packet) : (noteComplete s id p).agenda = s.agenda := by unfold noteComplete; split <;> [rfl; (split <;> simp)]
@[simp] theorem noteComplete_arg (s : State) (id : Nat) (p : Packet) : (noteComplete s id p).arg = s.arg := by unfold noteComplete; split <;> [rfl; (split <;> simp)]
@[simp] theorem noteComplete_now (s : State) (id : Nat) (p : Packet) : (noteComplete s id p).now = s.now := by unfold noteComplete; split <;> [rfl; (split <;> simp)]
@[simp] theorem noteComplete_dwell (s : State) (id : Nat) (p : Packet) : (noteComplete s id p).dwell = s.dwell := by unfold noteComplete; split <;> [rfl; (split <;> simp)]
@[simp] theorem noteComplete_fresh (s : State) (id : Nat) (p : Packet) : (noteComplete s id p).fresh = s.fresh := by unfold noteComplete; split <;> [rfl; (split <;> simp)]
@[simp] theorem noteComplete_resets (s : State) (id : Nat) (p : Packet) : (noteComplete s id p).resets = s.resets := by unfold noteComplete; split <;> [rfl; (split <;> simp)]
@[simp] theorem noteComplete_fetches (s : State) (id : Nat) (p : Packet) : (noteComplete s id p).fetches = s.fetches := by unfold noteComplete; split <;> [rfl; (split <;> simp)]
@[simp] theorem noteComplete_powered (s : State) (id : Nat) (p : Packet) : (noteComplete s id p).powered = s.powered := by unfold noteComplete; split <;> [rfl; (split <;> simp)]
@[simp] theorem noteComplete_late (s : State) (id : Nat) (p : Packet) : (noteComplete s id p).late = s.late := by unfold noteComplete; split <;> [rfl; (split <;> simp)]
@[simp] theorem noteComplete_stalled (s : State) (id : Nat) (p : Packet) : (noteComplete s id p).stalled = s.stalled := by unfold noteComplete; split <;> [rfl; (split <;> simp)]

/-! ### noteTier -/

@[simp] theorem noteTier_cur (s : State) (id : Nat) (p : Packet) : (noteTier s id p).cur = s.cur := by unfold noteTier; simp
@[simp] theorem noteTier_latch (s : State) (id : Nat) (p : Packet) : (noteTier s id p).latch = s.latch := by unfold noteTier; simp
@[simp] theorem noteTier_cores (s : State) (id : Nat) (p : Packet) : (noteTier s id p).cores = s.cores := by unfold noteTier; simp
@[simp] theorem noteTier_dies (s : State) (id : Nat) (p : Packet) : (noteTier s id p).dies = s.dies := by unfold noteTier; simp
@[simp] theorem noteTier_mem (s : State) (id : Nat) (p : Packet) : (noteTier s id p).mem = s.mem := by unfold noteTier; simp
@[simp] theorem noteTier_net (s : State) (id : Nat) (p : Packet) : (noteTier s id p).net = s.net := by unfold noteTier; simp
@[simp] theorem noteTier_hub (s : State) (id : Nat) (p : Packet) : (noteTier s id p).hub = s.hub := by unfold noteTier; simp
@[simp] theorem noteTier_bindings (s : State) (id : Nat) (p : Packet) : (noteTier s id p).bindings = s.bindings := by unfold noteTier; simp
@[simp] theorem noteTier_engines (s : State) (id : Nat) (p : Packet) : (noteTier s id p).engines = s.engines := by unfold noteTier; simp
@[simp] theorem noteTier_outbox (s : State) (id : Nat) (p : Packet) : (noteTier s id p).outbox = s.outbox := by unfold noteTier; simp
@[simp] theorem noteTier_deferred (s : State) (id : Nat) (p : Packet) : (noteTier s id p).deferred = s.deferred := by unfold noteTier; simp
@[simp] theorem noteTier_agenda (s : State) (id : Nat) (p : Packet) : (noteTier s id p).agenda = s.agenda := by unfold noteTier; simp
@[simp] theorem noteTier_arg (s : State) (id : Nat) (p : Packet) : (noteTier s id p).arg = s.arg := by unfold noteTier; simp
@[simp] theorem noteTier_now (s : State) (id : Nat) (p : Packet) : (noteTier s id p).now = s.now := by unfold noteTier; simp
@[simp] theorem noteTier_dwell (s : State) (id : Nat) (p : Packet) : (noteTier s id p).dwell = s.dwell := by unfold noteTier; simp
@[simp] theorem noteTier_fresh (s : State) (id : Nat) (p : Packet) : (noteTier s id p).fresh = s.fresh := by unfold noteTier; simp
@[simp] theorem noteTier_resets (s : State) (id : Nat) (p : Packet) : (noteTier s id p).resets = s.resets := by unfold noteTier; simp
@[simp] theorem noteTier_fetches (s : State) (id : Nat) (p : Packet) : (noteTier s id p).fetches = s.fetches := by unfold noteTier; simp
@[simp] theorem noteTier_powered (s : State) (id : Nat) (p : Packet) : (noteTier s id p).powered = s.powered := by unfold noteTier; simp
@[simp] theorem noteTier_late (s : State) (id : Nat) (p : Packet) : (noteTier s id p).late = s.late := by unfold noteTier; simp
@[simp] theorem noteTier_stalled (s : State) (id : Nat) (p : Packet) : (noteTier s id p).stalled = s.stalled := by unfold noteTier; simp

/-! ### noteDeparture -/

@[simp] theorem noteDeparture_cur (s : State) (id : Nat) (p : Packet) : (noteDeparture s id p).cur = s.cur := by simp only [noteDeparture]; split <;> [rfl; (split <;> simp)]
@[simp] theorem noteDeparture_latch (s : State) (id : Nat) (p : Packet) : (noteDeparture s id p).latch = s.latch := by simp only [noteDeparture]; split <;> [rfl; (split <;> simp)]
@[simp] theorem noteDeparture_cores (s : State) (id : Nat) (p : Packet) : (noteDeparture s id p).cores = s.cores := by simp only [noteDeparture]; split <;> [rfl; (split <;> simp)]
@[simp] theorem noteDeparture_dies (s : State) (id : Nat) (p : Packet) : (noteDeparture s id p).dies = s.dies := by simp only [noteDeparture]; split <;> [rfl; (split <;> simp)]
@[simp] theorem noteDeparture_mem (s : State) (id : Nat) (p : Packet) : (noteDeparture s id p).mem = s.mem := by simp only [noteDeparture]; split <;> [rfl; (split <;> simp)]
@[simp] theorem noteDeparture_net (s : State) (id : Nat) (p : Packet) : (noteDeparture s id p).net = s.net := by simp only [noteDeparture]; split <;> [rfl; (split <;> simp)]
@[simp] theorem noteDeparture_hub (s : State) (id : Nat) (p : Packet) : (noteDeparture s id p).hub = s.hub := by simp only [noteDeparture]; split <;> [rfl; (split <;> simp)]
@[simp] theorem noteDeparture_bindings (s : State) (id : Nat) (p : Packet) : (noteDeparture s id p).bindings = s.bindings := by simp only [noteDeparture]; split <;> [rfl; (split <;> simp)]
@[simp] theorem noteDeparture_engines (s : State) (id : Nat) (p : Packet) : (noteDeparture s id p).engines = s.engines := by simp only [noteDeparture]; split <;> [rfl; (split <;> simp)]
@[simp] theorem noteDeparture_outbox (s : State) (id : Nat) (p : Packet) : (noteDeparture s id p).outbox = s.outbox := by simp only [noteDeparture]; split <;> [rfl; (split <;> simp)]
@[simp] theorem noteDeparture_deferred (s : State) (id : Nat) (p : Packet) : (noteDeparture s id p).deferred = s.deferred := by simp only [noteDeparture]; split <;> [rfl; (split <;> simp)]
@[simp] theorem noteDeparture_agenda (s : State) (id : Nat) (p : Packet) : (noteDeparture s id p).agenda = s.agenda := by simp only [noteDeparture]; split <;> [rfl; (split <;> simp)]
@[simp] theorem noteDeparture_arg (s : State) (id : Nat) (p : Packet) : (noteDeparture s id p).arg = s.arg := by simp only [noteDeparture]; split <;> [rfl; (split <;> simp)]
@[simp] theorem noteDeparture_now (s : State) (id : Nat) (p : Packet) : (noteDeparture s id p).now = s.now := by simp only [noteDeparture]; split <;> [rfl; (split <;> simp)]
@[simp] theorem noteDeparture_dwell (s : State) (id : Nat) (p : Packet) : (noteDeparture s id p).dwell = s.dwell := by simp only [noteDeparture]; split <;> [rfl; (split <;> simp)]
@[simp] theorem noteDeparture_fresh (s : State) (id : Nat) (p : Packet) : (noteDeparture s id p).fresh = s.fresh := by simp only [noteDeparture]; split <;> [rfl; (split <;> simp)]
@[simp] theorem noteDeparture_resets (s : State) (id : Nat) (p : Packet) : (noteDeparture s id p).resets = s.resets := by simp only [noteDeparture]; split <;> [rfl; (split <;> simp)]
@[simp] theorem noteDeparture_fetches (s : State) (id : Nat) (p : Packet) : (noteDeparture s id p).fetches = s.fetches := by simp only [noteDeparture]; split <;> [rfl; (split <;> simp)]
@[simp] theorem noteDeparture_powered (s : State) (id : Nat) (p : Packet) : (noteDeparture s id p).powered = s.powered := by simp only [noteDeparture]; split <;> [rfl; (split <;> simp)]
@[simp] theorem noteDeparture_late (s : State) (id : Nat) (p : Packet) : (noteDeparture s id p).late = s.late := by simp only [noteDeparture]; split <;> [rfl; (split <;> simp)]
@[simp] theorem noteDeparture_stalled (s : State) (id : Nat) (p : Packet) : (noteDeparture s id p).stalled = s.stalled := by simp only [noteDeparture]; split <;> [rfl; (split <;> simp)]

/-! ### noteRequest -/

@[simp] theorem noteRequest_cur (s : State) (p : Packet) : (noteRequest s p).cur = s.cur := by unfold noteRequest; split <;> [rfl; (split <;> simp [modCopy])]
@[simp] theorem noteRequest_latch (s : State) (p : Packet) : (noteRequest s p).latch = s.latch := by unfold noteRequest; split <;> [rfl; (split <;> simp [modCopy])]
@[simp] theorem noteRequest_dies (s : State) (p : Packet) : (noteRequest s p).dies = s.dies := by unfold noteRequest; split <;> [rfl; (split <;> simp [modCopy])]
@[simp] theorem noteRequest_mem (s : State) (p : Packet) : (noteRequest s p).mem = s.mem := by unfold noteRequest; split <;> [rfl; (split <;> simp [modCopy])]
@[simp] theorem noteRequest_net (s : State) (p : Packet) : (noteRequest s p).net = s.net := by unfold noteRequest; split <;> [rfl; (split <;> simp [modCopy])]
@[simp] theorem noteRequest_hub (s : State) (p : Packet) : (noteRequest s p).hub = s.hub := by unfold noteRequest; split <;> [rfl; (split <;> simp [modCopy])]
@[simp] theorem noteRequest_bindings (s : State) (p : Packet) : (noteRequest s p).bindings = s.bindings := by unfold noteRequest; split <;> [rfl; (split <;> simp [modCopy])]
@[simp] theorem noteRequest_engines (s : State) (p : Packet) : (noteRequest s p).engines = s.engines := by unfold noteRequest; split <;> [rfl; (split <;> simp [modCopy])]
@[simp] theorem noteRequest_outbox (s : State) (p : Packet) : (noteRequest s p).outbox = s.outbox := by unfold noteRequest; split <;> [rfl; (split <;> simp [modCopy])]
@[simp] theorem noteRequest_deferred (s : State) (p : Packet) : (noteRequest s p).deferred = s.deferred := by unfold noteRequest; split <;> [rfl; (split <;> simp [modCopy])]
@[simp] theorem noteRequest_agenda (s : State) (p : Packet) : (noteRequest s p).agenda = s.agenda := by unfold noteRequest; split <;> [rfl; (split <;> simp [modCopy])]
@[simp] theorem noteRequest_arg (s : State) (p : Packet) : (noteRequest s p).arg = s.arg := by unfold noteRequest; split <;> [rfl; (split <;> simp [modCopy])]
@[simp] theorem noteRequest_now (s : State) (p : Packet) : (noteRequest s p).now = s.now := by unfold noteRequest; split <;> [rfl; (split <;> simp [modCopy])]
@[simp] theorem noteRequest_dwell (s : State) (p : Packet) : (noteRequest s p).dwell = s.dwell := by unfold noteRequest; split <;> [rfl; (split <;> simp [modCopy])]
@[simp] theorem noteRequest_fresh (s : State) (p : Packet) : (noteRequest s p).fresh = s.fresh := by unfold noteRequest; split <;> [rfl; (split <;> simp [modCopy])]
@[simp] theorem noteRequest_resets (s : State) (p : Packet) : (noteRequest s p).resets = s.resets := by unfold noteRequest; split <;> [rfl; (split <;> simp [modCopy])]
@[simp] theorem noteRequest_fetches (s : State) (p : Packet) : (noteRequest s p).fetches = s.fetches := by unfold noteRequest; split <;> [rfl; (split <;> simp [modCopy])]
@[simp] theorem noteRequest_powered (s : State) (p : Packet) : (noteRequest s p).powered = s.powered := by unfold noteRequest; split <;> [rfl; (split <;> simp [modCopy])]
@[simp] theorem noteRequest_late (s : State) (p : Packet) : (noteRequest s p).late = s.late := by unfold noteRequest; split <;> [rfl; (split <;> simp [modCopy])]
@[simp] theorem noteRequest_stalled (s : State) (p : Packet) : (noteRequest s p).stalled = s.stalled := by unfold noteRequest; split <;> [rfl; (split <;> simp [modCopy])]

/-! ### sendCount -/

@[simp] theorem sendCount_cur (s : State) (p : Packet) : (sendCount s p).cur = s.cur := by unfold sendCount; split <;> rfl
@[simp] theorem sendCount_slot (s : State) (p : Packet) : (sendCount s p).slot = s.slot := by unfold sendCount; split <;> rfl
@[simp] theorem sendCount_others (s : State) (p : Packet) : (sendCount s p).others = s.others := by unfold sendCount; split <;> rfl
@[simp] theorem sendCount_latch (s : State) (p : Packet) : (sendCount s p).latch = s.latch := by unfold sendCount; split <;> rfl
@[simp] theorem sendCount_cores (s : State) (p : Packet) : (sendCount s p).cores = s.cores := by unfold sendCount; split <;> rfl
@[simp] theorem sendCount_dies (s : State) (p : Packet) : (sendCount s p).dies = s.dies := by unfold sendCount; split <;> rfl
@[simp] theorem sendCount_mem (s : State) (p : Packet) : (sendCount s p).mem = s.mem := by unfold sendCount; split <;> rfl
@[simp] theorem sendCount_hub (s : State) (p : Packet) : (sendCount s p).hub = s.hub := by unfold sendCount; split <;> rfl
@[simp] theorem sendCount_bindings (s : State) (p : Packet) : (sendCount s p).bindings = s.bindings := by unfold sendCount; split <;> rfl
@[simp] theorem sendCount_engines (s : State) (p : Packet) : (sendCount s p).engines = s.engines := by unfold sendCount; split <;> rfl
@[simp] theorem sendCount_outbox (s : State) (p : Packet) : (sendCount s p).outbox = s.outbox := by unfold sendCount; split <;> rfl
@[simp] theorem sendCount_deferred (s : State) (p : Packet) : (sendCount s p).deferred = s.deferred := by unfold sendCount; split <;> rfl
@[simp] theorem sendCount_agenda (s : State) (p : Packet) : (sendCount s p).agenda = s.agenda := by unfold sendCount; split <;> rfl
@[simp] theorem sendCount_arg (s : State) (p : Packet) : (sendCount s p).arg = s.arg := by unfold sendCount; split <;> rfl
@[simp] theorem sendCount_now (s : State) (p : Packet) : (sendCount s p).now = s.now := by unfold sendCount; split <;> rfl
@[simp] theorem sendCount_dwell (s : State) (p : Packet) : (sendCount s p).dwell = s.dwell := by unfold sendCount; split <;> rfl
@[simp] theorem sendCount_resets (s : State) (p : Packet) : (sendCount s p).resets = s.resets := by unfold sendCount; split <;> rfl
@[simp] theorem sendCount_fetches (s : State) (p : Packet) : (sendCount s p).fetches = s.fetches := by unfold sendCount; split <;> rfl
@[simp] theorem sendCount_powered (s : State) (p : Packet) : (sendCount s p).powered = s.powered := by unfold sendCount; split <;> rfl
@[simp] theorem sendCount_late (s : State) (p : Packet) : (sendCount s p).late = s.late := by unfold sendCount; split <;> rfl
@[simp] theorem sendCount_stalled (s : State) (p : Packet) : (sendCount s p).stalled = s.stalled := by unfold sendCount; split <;> rfl

/-! ### depart -/

@[simp] theorem depart_cur (s : State) (id : Nat) (p : Packet) : (depart s id p).cur = s.cur := by unfold depart; split <;> simp
@[simp] theorem depart_latch (s : State) (id : Nat) (p : Packet) : (depart s id p).latch = s.latch := by unfold depart; split <;> simp
@[simp] theorem depart_cores (s : State) (id : Nat) (p : Packet) : (depart s id p).cores = s.cores := by unfold depart; split <;> simp
@[simp] theorem depart_dies (s : State) (id : Nat) (p : Packet) : (depart s id p).dies = s.dies := by unfold depart; split <;> simp
@[simp] theorem depart_mem (s : State) (id : Nat) (p : Packet) : (depart s id p).mem = s.mem := by unfold depart; split <;> simp
@[simp] theorem depart_hub (s : State) (id : Nat) (p : Packet) : (depart s id p).hub = s.hub := by unfold depart; split <;> simp
@[simp] theorem depart_bindings (s : State) (id : Nat) (p : Packet) : (depart s id p).bindings = s.bindings := by unfold depart; split <;> simp
@[simp] theorem depart_engines (s : State) (id : Nat) (p : Packet) : (depart s id p).engines = s.engines := by unfold depart; split <;> simp
@[simp] theorem depart_outbox (s : State) (id : Nat) (p : Packet) : (depart s id p).outbox = s.outbox := by unfold depart; split <;> simp
@[simp] theorem depart_deferred (s : State) (id : Nat) (p : Packet) : (depart s id p).deferred = s.deferred := by unfold depart; split <;> simp
@[simp] theorem depart_agenda (s : State) (id : Nat) (p : Packet) : (depart s id p).agenda = s.agenda := by unfold depart; split <;> simp
@[simp] theorem depart_arg (s : State) (id : Nat) (p : Packet) : (depart s id p).arg = s.arg := by unfold depart; split <;> simp
@[simp] theorem depart_now (s : State) (id : Nat) (p : Packet) : (depart s id p).now = s.now := by unfold depart; split <;> simp
@[simp] theorem depart_dwell (s : State) (id : Nat) (p : Packet) : (depart s id p).dwell = s.dwell := by unfold depart; split <;> simp
@[simp] theorem depart_resets (s : State) (id : Nat) (p : Packet) : (depart s id p).resets = s.resets := by unfold depart; split <;> simp
@[simp] theorem depart_fetches (s : State) (id : Nat) (p : Packet) : (depart s id p).fetches = s.fetches := by unfold depart; split <;> simp
@[simp] theorem depart_powered (s : State) (id : Nat) (p : Packet) : (depart s id p).powered = s.powered := by unfold depart; split <;> simp
@[simp] theorem depart_late (s : State) (id : Nat) (p : Packet) : (depart s id p).late = s.late := by unfold depart; split <;> simp
@[simp] theorem depart_stalled (s : State) (id : Nat) (p : Packet) : (depart s id p).stalled = s.stalled := by unfold depart; split <;> simp

/-! ### deflect -/

@[simp] theorem deflect_cur (s : State) (id : Nat) (port : Option Nat) (p : Packet) : (deflect s id port p).cur = s.cur := by simp only [deflect]; split <;> [simp; (simp only [putPacket_cur]; split <;> simp)]
@[simp] theorem deflect_latch (s : State) (id : Nat) (port : Option Nat) (p : Packet) : (deflect s id port p).latch = s.latch := by simp only [deflect]; split <;> [simp; (simp only [putPacket_latch]; split <;> simp)]
@[simp] theorem deflect_cores (s : State) (id : Nat) (port : Option Nat) (p : Packet) : (deflect s id port p).cores = s.cores := by simp only [deflect]; split <;> [simp; (simp only [putPacket_cores]; split <;> simp)]
@[simp] theorem deflect_dies (s : State) (id : Nat) (port : Option Nat) (p : Packet) : (deflect s id port p).dies = s.dies := by simp only [deflect]; split <;> [simp; (simp only [putPacket_dies]; split <;> simp)]
@[simp] theorem deflect_mem (s : State) (id : Nat) (port : Option Nat) (p : Packet) : (deflect s id port p).mem = s.mem := by simp only [deflect]; split <;> [simp; (simp only [putPacket_mem]; split <;> simp)]
@[simp] theorem deflect_hub (s : State) (id : Nat) (port : Option Nat) (p : Packet) : (deflect s id port p).hub = s.hub := by simp only [deflect]; split <;> [simp; (simp only [putPacket_hub]; split <;> simp)]
@[simp] theorem deflect_bindings (s : State) (id : Nat) (port : Option Nat) (p : Packet) : (deflect s id port p).bindings = s.bindings := by simp only [deflect]; split <;> [simp; (simp only [putPacket_bindings]; split <;> simp)]
@[simp] theorem deflect_engines (s : State) (id : Nat) (port : Option Nat) (p : Packet) : (deflect s id port p).engines = s.engines := by simp only [deflect]; split <;> [simp; (simp only [putPacket_engines]; split <;> simp)]
@[simp] theorem deflect_outbox (s : State) (id : Nat) (port : Option Nat) (p : Packet) : (deflect s id port p).outbox = s.outbox := by simp only [deflect]; split <;> [simp; (simp only [putPacket_outbox]; split <;> simp)]
@[simp] theorem deflect_deferred (s : State) (id : Nat) (port : Option Nat) (p : Packet) : (deflect s id port p).deferred = s.deferred := by simp only [deflect]; split <;> [simp; (simp only [putPacket_deferred]; split <;> simp)]
@[simp] theorem deflect_agenda (s : State) (id : Nat) (port : Option Nat) (p : Packet) : (deflect s id port p).agenda = s.agenda := by simp only [deflect]; split <;> [simp; (simp only [putPacket_agenda]; split <;> simp)]
@[simp] theorem deflect_arg (s : State) (id : Nat) (port : Option Nat) (p : Packet) : (deflect s id port p).arg = s.arg := by simp only [deflect]; split <;> [simp; (simp only [putPacket_arg]; split <;> simp)]
@[simp] theorem deflect_now (s : State) (id : Nat) (port : Option Nat) (p : Packet) : (deflect s id port p).now = s.now := by simp only [deflect]; split <;> [simp; (simp only [putPacket_now]; split <;> simp)]
@[simp] theorem deflect_dwell (s : State) (id : Nat) (port : Option Nat) (p : Packet) : (deflect s id port p).dwell = s.dwell := by simp only [deflect]; split <;> [simp; (simp only [putPacket_dwell]; split <;> simp)]
@[simp] theorem deflect_resets (s : State) (id : Nat) (port : Option Nat) (p : Packet) : (deflect s id port p).resets = s.resets := by simp only [deflect]; split <;> [simp; (simp only [putPacket_resets]; split <;> simp)]
@[simp] theorem deflect_fetches (s : State) (id : Nat) (port : Option Nat) (p : Packet) : (deflect s id port p).fetches = s.fetches := by simp only [deflect]; split <;> [simp; (simp only [putPacket_fetches]; split <;> simp)]
@[simp] theorem deflect_powered (s : State) (id : Nat) (port : Option Nat) (p : Packet) : (deflect s id port p).powered = s.powered := by simp only [deflect]; split <;> [simp; (simp only [putPacket_powered]; split <;> simp)]
@[simp] theorem deflect_late (s : State) (id : Nat) (port : Option Nat) (p : Packet) : (deflect s id port p).late = s.late := by simp only [deflect]; split <;> [simp; (simp only [putPacket_late]; split <;> simp)]
@[simp] theorem deflect_stalled (s : State) (id : Nat) (port : Option Nat) (p : Packet) : (deflect s id port p).stalled = s.stalled := by simp only [deflect]; split <;> [simp; (simp only [putPacket_stalled]; split <;> simp)]

/-! ### bounce -/

@[simp] theorem bounce_cur (s : State) (id : Nat) (p : Packet) : (bounce s id p).cur = s.cur := rfl
@[simp] theorem bounce_slot (s : State) (id : Nat) (p : Packet) : (bounce s id p).slot = s.slot := rfl
@[simp] theorem bounce_others (s : State) (id : Nat) (p : Packet) : (bounce s id p).others = s.others := rfl
@[simp] theorem bounce_latch (s : State) (id : Nat) (p : Packet) : (bounce s id p).latch = s.latch := rfl
@[simp] theorem bounce_cores (s : State) (id : Nat) (p : Packet) : (bounce s id p).cores = s.cores := rfl
@[simp] theorem bounce_dies (s : State) (id : Nat) (p : Packet) : (bounce s id p).dies = s.dies := rfl
@[simp] theorem bounce_mem (s : State) (id : Nat) (p : Packet) : (bounce s id p).mem = s.mem := rfl
@[simp] theorem bounce_hub (s : State) (id : Nat) (p : Packet) : (bounce s id p).hub = s.hub := rfl
@[simp] theorem bounce_bindings (s : State) (id : Nat) (p : Packet) : (bounce s id p).bindings = s.bindings := rfl
@[simp] theorem bounce_engines (s : State) (id : Nat) (p : Packet) : (bounce s id p).engines = s.engines := rfl
@[simp] theorem bounce_outbox (s : State) (id : Nat) (p : Packet) : (bounce s id p).outbox = s.outbox := rfl
@[simp] theorem bounce_deferred (s : State) (id : Nat) (p : Packet) : (bounce s id p).deferred = s.deferred := rfl
@[simp] theorem bounce_agenda (s : State) (id : Nat) (p : Packet) : (bounce s id p).agenda = s.agenda := rfl
@[simp] theorem bounce_arg (s : State) (id : Nat) (p : Packet) : (bounce s id p).arg = s.arg := rfl
@[simp] theorem bounce_now (s : State) (id : Nat) (p : Packet) : (bounce s id p).now = s.now := rfl
@[simp] theorem bounce_dwell (s : State) (id : Nat) (p : Packet) : (bounce s id p).dwell = s.dwell := rfl
@[simp] theorem bounce_fresh (s : State) (id : Nat) (p : Packet) : (bounce s id p).fresh = s.fresh := rfl
@[simp] theorem bounce_resets (s : State) (id : Nat) (p : Packet) : (bounce s id p).resets = s.resets := rfl
@[simp] theorem bounce_fetches (s : State) (id : Nat) (p : Packet) : (bounce s id p).fetches = s.fetches := rfl
@[simp] theorem bounce_powered (s : State) (id : Nat) (p : Packet) : (bounce s id p).powered = s.powered := rfl
@[simp] theorem bounce_late (s : State) (id : Nat) (p : Packet) : (bounce s id p).late = s.late := rfl
@[simp] theorem bounce_stalled (s : State) (id : Nat) (p : Packet) : (bounce s id p).stalled = s.stalled := rfl

/-! ### settleDeficits -/

@[simp] theorem settleDeficits_cur (s : State) : (settleDeficits s).cur = s.cur := rfl
@[simp] theorem settleDeficits_slot (s : State) : (settleDeficits s).slot = s.slot := rfl
@[simp] theorem settleDeficits_others (s : State) : (settleDeficits s).others = s.others := rfl
@[simp] theorem settleDeficits_latch (s : State) : (settleDeficits s).latch = s.latch := rfl
@[simp] theorem settleDeficits_cores (s : State) : (settleDeficits s).cores = s.cores := rfl
@[simp] theorem settleDeficits_dies (s : State) : (settleDeficits s).dies = s.dies := rfl
@[simp] theorem settleDeficits_mem (s : State) : (settleDeficits s).mem = s.mem := rfl
@[simp] theorem settleDeficits_net (s : State) : (settleDeficits s).net = s.net := rfl
@[simp] theorem settleDeficits_bindings (s : State) : (settleDeficits s).bindings = s.bindings := rfl
@[simp] theorem settleDeficits_engines (s : State) : (settleDeficits s).engines = s.engines := rfl
@[simp] theorem settleDeficits_outbox (s : State) : (settleDeficits s).outbox = s.outbox := rfl
@[simp] theorem settleDeficits_deferred (s : State) : (settleDeficits s).deferred = s.deferred := rfl
@[simp] theorem settleDeficits_agenda (s : State) : (settleDeficits s).agenda = s.agenda := rfl
@[simp] theorem settleDeficits_arg (s : State) : (settleDeficits s).arg = s.arg := rfl
@[simp] theorem settleDeficits_now (s : State) : (settleDeficits s).now = s.now := rfl
@[simp] theorem settleDeficits_dwell (s : State) : (settleDeficits s).dwell = s.dwell := rfl
@[simp] theorem settleDeficits_fresh (s : State) : (settleDeficits s).fresh = s.fresh := rfl
@[simp] theorem settleDeficits_resets (s : State) : (settleDeficits s).resets = s.resets := rfl
@[simp] theorem settleDeficits_fetches (s : State) : (settleDeficits s).fetches = s.fetches := rfl
@[simp] theorem settleDeficits_powered (s : State) : (settleDeficits s).powered = s.powered := rfl
@[simp] theorem settleDeficits_late (s : State) : (settleDeficits s).late = s.late := rfl
@[simp] theorem settleDeficits_stalled (s : State) : (settleDeficits s).stalled = s.stalled := rfl

/-! ### chargeSlot -/

@[simp] theorem chargeSlot_cur (s : State) (i : SlotId) : (chargeSlot s i).cur = s.cur := by simp only [chargeSlot]; split <;> simp
@[simp] theorem chargeSlot_latch (s : State) (i : SlotId) : (chargeSlot s i).latch = s.latch := by simp only [chargeSlot]; split <;> simp
@[simp] theorem chargeSlot_cores (s : State) (i : SlotId) : (chargeSlot s i).cores = s.cores := by simp only [chargeSlot]; split <;> simp
@[simp] theorem chargeSlot_dies (s : State) (i : SlotId) : (chargeSlot s i).dies = s.dies := by simp only [chargeSlot]; split <;> simp
@[simp] theorem chargeSlot_mem (s : State) (i : SlotId) : (chargeSlot s i).mem = s.mem := by simp only [chargeSlot]; split <;> simp
@[simp] theorem chargeSlot_net (s : State) (i : SlotId) : (chargeSlot s i).net = s.net := by simp only [chargeSlot]; split <;> simp
@[simp] theorem chargeSlot_bindings (s : State) (i : SlotId) : (chargeSlot s i).bindings = s.bindings := by simp only [chargeSlot]; split <;> simp
@[simp] theorem chargeSlot_engines (s : State) (i : SlotId) : (chargeSlot s i).engines = s.engines := by simp only [chargeSlot]; split <;> simp
@[simp] theorem chargeSlot_outbox (s : State) (i : SlotId) : (chargeSlot s i).outbox = s.outbox := by simp only [chargeSlot]; split <;> simp
@[simp] theorem chargeSlot_deferred (s : State) (i : SlotId) : (chargeSlot s i).deferred = s.deferred := by simp only [chargeSlot]; split <;> simp
@[simp] theorem chargeSlot_agenda (s : State) (i : SlotId) : (chargeSlot s i).agenda = s.agenda := by simp only [chargeSlot]; split <;> simp
@[simp] theorem chargeSlot_arg (s : State) (i : SlotId) : (chargeSlot s i).arg = s.arg := by simp only [chargeSlot]; split <;> simp
@[simp] theorem chargeSlot_now (s : State) (i : SlotId) : (chargeSlot s i).now = s.now := by simp only [chargeSlot]; split <;> simp
@[simp] theorem chargeSlot_dwell (s : State) (i : SlotId) : (chargeSlot s i).dwell = s.dwell := by simp only [chargeSlot]; split <;> simp
@[simp] theorem chargeSlot_fresh (s : State) (i : SlotId) : (chargeSlot s i).fresh = s.fresh := by simp only [chargeSlot]; split <;> simp
@[simp] theorem chargeSlot_resets (s : State) (i : SlotId) : (chargeSlot s i).resets = s.resets := by simp only [chargeSlot]; split <;> simp
@[simp] theorem chargeSlot_fetches (s : State) (i : SlotId) : (chargeSlot s i).fetches = s.fetches := by simp only [chargeSlot]; split <;> simp
@[simp] theorem chargeSlot_powered (s : State) (i : SlotId) : (chargeSlot s i).powered = s.powered := by simp only [chargeSlot]; split <;> simp
@[simp] theorem chargeSlot_late (s : State) (i : SlotId) : (chargeSlot s i).late = s.late := by simp only [chargeSlot]; split <;> simp
@[simp] theorem chargeSlot_stalled (s : State) (i : SlotId) : (chargeSlot s i).stalled = s.stalled := by simp only [chargeSlot]; split <;> simp

/-! ### send -/

@[simp] theorem send_cur (s : State) (x : Sent) : (send s x).cur = s.cur := rfl
@[simp] theorem send_slot (s : State) (x : Sent) : (send s x).slot = s.slot := rfl
@[simp] theorem send_others (s : State) (x : Sent) : (send s x).others = s.others := rfl
@[simp] theorem send_latch (s : State) (x : Sent) : (send s x).latch = s.latch := rfl
@[simp] theorem send_cores (s : State) (x : Sent) : (send s x).cores = s.cores := rfl
@[simp] theorem send_dies (s : State) (x : Sent) : (send s x).dies = s.dies := rfl
@[simp] theorem send_mem (s : State) (x : Sent) : (send s x).mem = s.mem := rfl
@[simp] theorem send_net (s : State) (x : Sent) : (send s x).net = s.net := rfl
@[simp] theorem send_hub (s : State) (x : Sent) : (send s x).hub = s.hub := rfl
@[simp] theorem send_bindings (s : State) (x : Sent) : (send s x).bindings = s.bindings := rfl
@[simp] theorem send_engines (s : State) (x : Sent) : (send s x).engines = s.engines := rfl
@[simp] theorem send_deferred (s : State) (x : Sent) : (send s x).deferred = s.deferred := rfl
@[simp] theorem send_agenda (s : State) (x : Sent) : (send s x).agenda = s.agenda := rfl
@[simp] theorem send_arg (s : State) (x : Sent) : (send s x).arg = s.arg := rfl
@[simp] theorem send_now (s : State) (x : Sent) : (send s x).now = s.now := rfl
@[simp] theorem send_dwell (s : State) (x : Sent) : (send s x).dwell = s.dwell := rfl
@[simp] theorem send_fresh (s : State) (x : Sent) : (send s x).fresh = s.fresh := rfl
@[simp] theorem send_resets (s : State) (x : Sent) : (send s x).resets = s.resets := rfl
@[simp] theorem send_fetches (s : State) (x : Sent) : (send s x).fetches = s.fetches := rfl
@[simp] theorem send_powered (s : State) (x : Sent) : (send s x).powered = s.powered := rfl
@[simp] theorem send_late (s : State) (x : Sent) : (send s x).late = s.late := rfl
@[simp] theorem send_stalled (s : State) (x : Sent) : (send s x).stalled = s.stalled := rfl

/-! ### setLink -/

@[simp] theorem setLink_cur (s : State) (n : Nat) (l : Link) : (setLink s n l).cur = s.cur := rfl
@[simp] theorem setLink_slot (s : State) (n : Nat) (l : Link) : (setLink s n l).slot = s.slot := rfl
@[simp] theorem setLink_others (s : State) (n : Nat) (l : Link) : (setLink s n l).others = s.others := rfl
@[simp] theorem setLink_latch (s : State) (n : Nat) (l : Link) : (setLink s n l).latch = s.latch := rfl
@[simp] theorem setLink_cores (s : State) (n : Nat) (l : Link) : (setLink s n l).cores = s.cores := rfl
@[simp] theorem setLink_dies (s : State) (n : Nat) (l : Link) : (setLink s n l).dies = s.dies := rfl
@[simp] theorem setLink_mem (s : State) (n : Nat) (l : Link) : (setLink s n l).mem = s.mem := rfl
@[simp] theorem setLink_net (s : State) (n : Nat) (l : Link) : (setLink s n l).net = s.net := rfl
@[simp] theorem setLink_bindings (s : State) (n : Nat) (l : Link) : (setLink s n l).bindings = s.bindings := rfl
@[simp] theorem setLink_engines (s : State) (n : Nat) (l : Link) : (setLink s n l).engines = s.engines := rfl
@[simp] theorem setLink_outbox (s : State) (n : Nat) (l : Link) : (setLink s n l).outbox = s.outbox := rfl
@[simp] theorem setLink_deferred (s : State) (n : Nat) (l : Link) : (setLink s n l).deferred = s.deferred := rfl
@[simp] theorem setLink_agenda (s : State) (n : Nat) (l : Link) : (setLink s n l).agenda = s.agenda := rfl
@[simp] theorem setLink_arg (s : State) (n : Nat) (l : Link) : (setLink s n l).arg = s.arg := rfl
@[simp] theorem setLink_now (s : State) (n : Nat) (l : Link) : (setLink s n l).now = s.now := rfl
@[simp] theorem setLink_dwell (s : State) (n : Nat) (l : Link) : (setLink s n l).dwell = s.dwell := rfl
@[simp] theorem setLink_fresh (s : State) (n : Nat) (l : Link) : (setLink s n l).fresh = s.fresh := rfl
@[simp] theorem setLink_resets (s : State) (n : Nat) (l : Link) : (setLink s n l).resets = s.resets := rfl
@[simp] theorem setLink_fetches (s : State) (n : Nat) (l : Link) : (setLink s n l).fetches = s.fetches := rfl
@[simp] theorem setLink_powered (s : State) (n : Nat) (l : Link) : (setLink s n l).powered = s.powered := rfl
@[simp] theorem setLink_late (s : State) (n : Nat) (l : Link) : (setLink s n l).late = s.late := rfl
@[simp] theorem setLink_stalled (s : State) (n : Nat) (l : Link) : (setLink s n l).stalled = s.stalled := rfl

/-! ### setPort -/

@[simp] theorem setPort_cur (s : State) (p : Nat) (f : Port → Port) : (setPort s p f).cur = s.cur := rfl
@[simp] theorem setPort_slot (s : State) (p : Nat) (f : Port → Port) : (setPort s p f).slot = s.slot := rfl
@[simp] theorem setPort_others (s : State) (p : Nat) (f : Port → Port) : (setPort s p f).others = s.others := rfl
@[simp] theorem setPort_latch (s : State) (p : Nat) (f : Port → Port) : (setPort s p f).latch = s.latch := rfl
@[simp] theorem setPort_cores (s : State) (p : Nat) (f : Port → Port) : (setPort s p f).cores = s.cores := rfl
@[simp] theorem setPort_dies (s : State) (p : Nat) (f : Port → Port) : (setPort s p f).dies = s.dies := rfl
@[simp] theorem setPort_mem (s : State) (p : Nat) (f : Port → Port) : (setPort s p f).mem = s.mem := rfl
@[simp] theorem setPort_net (s : State) (p : Nat) (f : Port → Port) : (setPort s p f).net = s.net := rfl
@[simp] theorem setPort_bindings (s : State) (p : Nat) (f : Port → Port) : (setPort s p f).bindings = s.bindings := rfl
@[simp] theorem setPort_engines (s : State) (p : Nat) (f : Port → Port) : (setPort s p f).engines = s.engines := rfl
@[simp] theorem setPort_outbox (s : State) (p : Nat) (f : Port → Port) : (setPort s p f).outbox = s.outbox := rfl
@[simp] theorem setPort_deferred (s : State) (p : Nat) (f : Port → Port) : (setPort s p f).deferred = s.deferred := rfl
@[simp] theorem setPort_agenda (s : State) (p : Nat) (f : Port → Port) : (setPort s p f).agenda = s.agenda := rfl
@[simp] theorem setPort_arg (s : State) (p : Nat) (f : Port → Port) : (setPort s p f).arg = s.arg := rfl
@[simp] theorem setPort_now (s : State) (p : Nat) (f : Port → Port) : (setPort s p f).now = s.now := rfl
@[simp] theorem setPort_dwell (s : State) (p : Nat) (f : Port → Port) : (setPort s p f).dwell = s.dwell := rfl
@[simp] theorem setPort_fresh (s : State) (p : Nat) (f : Port → Port) : (setPort s p f).fresh = s.fresh := rfl
@[simp] theorem setPort_resets (s : State) (p : Nat) (f : Port → Port) : (setPort s p f).resets = s.resets := rfl
@[simp] theorem setPort_fetches (s : State) (p : Nat) (f : Port → Port) : (setPort s p f).fetches = s.fetches := rfl
@[simp] theorem setPort_powered (s : State) (p : Nat) (f : Port → Port) : (setPort s p f).powered = s.powered := rfl
@[simp] theorem setPort_late (s : State) (p : Nat) (f : Port → Port) : (setPort s p f).late = s.late := rfl
@[simp] theorem setPort_stalled (s : State) (p : Nat) (f : Port → Port) : (setPort s p f).stalled = s.stalled := rfl

/-! ### setCxl -/

@[simp] theorem setCxl_cur (s : State) (p : Nat) (f : CxlPort → CxlPort) : (setCxl s p f).cur = s.cur := rfl
@[simp] theorem setCxl_slot (s : State) (p : Nat) (f : CxlPort → CxlPort) : (setCxl s p f).slot = s.slot := rfl
@[simp] theorem setCxl_others (s : State) (p : Nat) (f : CxlPort → CxlPort) : (setCxl s p f).others = s.others := rfl
@[simp] theorem setCxl_latch (s : State) (p : Nat) (f : CxlPort → CxlPort) : (setCxl s p f).latch = s.latch := rfl
@[simp] theorem setCxl_cores (s : State) (p : Nat) (f : CxlPort → CxlPort) : (setCxl s p f).cores = s.cores := rfl
@[simp] theorem setCxl_dies (s : State) (p : Nat) (f : CxlPort → CxlPort) : (setCxl s p f).dies = s.dies := rfl
@[simp] theorem setCxl_mem (s : State) (p : Nat) (f : CxlPort → CxlPort) : (setCxl s p f).mem = s.mem := rfl
@[simp] theorem setCxl_net (s : State) (p : Nat) (f : CxlPort → CxlPort) : (setCxl s p f).net = s.net := rfl
@[simp] theorem setCxl_bindings (s : State) (p : Nat) (f : CxlPort → CxlPort) : (setCxl s p f).bindings = s.bindings := rfl
@[simp] theorem setCxl_engines (s : State) (p : Nat) (f : CxlPort → CxlPort) : (setCxl s p f).engines = s.engines := rfl
@[simp] theorem setCxl_outbox (s : State) (p : Nat) (f : CxlPort → CxlPort) : (setCxl s p f).outbox = s.outbox := rfl
@[simp] theorem setCxl_deferred (s : State) (p : Nat) (f : CxlPort → CxlPort) : (setCxl s p f).deferred = s.deferred := rfl
@[simp] theorem setCxl_agenda (s : State) (p : Nat) (f : CxlPort → CxlPort) : (setCxl s p f).agenda = s.agenda := rfl
@[simp] theorem setCxl_arg (s : State) (p : Nat) (f : CxlPort → CxlPort) : (setCxl s p f).arg = s.arg := rfl
@[simp] theorem setCxl_now (s : State) (p : Nat) (f : CxlPort → CxlPort) : (setCxl s p f).now = s.now := rfl
@[simp] theorem setCxl_dwell (s : State) (p : Nat) (f : CxlPort → CxlPort) : (setCxl s p f).dwell = s.dwell := rfl
@[simp] theorem setCxl_fresh (s : State) (p : Nat) (f : CxlPort → CxlPort) : (setCxl s p f).fresh = s.fresh := rfl
@[simp] theorem setCxl_resets (s : State) (p : Nat) (f : CxlPort → CxlPort) : (setCxl s p f).resets = s.resets := rfl
@[simp] theorem setCxl_fetches (s : State) (p : Nat) (f : CxlPort → CxlPort) : (setCxl s p f).fetches = s.fetches := rfl
@[simp] theorem setCxl_powered (s : State) (p : Nat) (f : CxlPort → CxlPort) : (setCxl s p f).powered = s.powered := rfl
@[simp] theorem setCxl_late (s : State) (p : Nat) (f : CxlPort → CxlPort) : (setCxl s p f).late = s.late := rfl
@[simp] theorem setCxl_stalled (s : State) (p : Nat) (f : CxlPort → CxlPort) : (setCxl s p f).stalled = s.stalled := rfl

/-! ### setClock -/

@[simp] theorem setClock_cur (s : State) (d : Nat) (f : Die → Die) : (setClock s d f).cur = s.cur := rfl
@[simp] theorem setClock_slot (s : State) (d : Nat) (f : Die → Die) : (setClock s d f).slot = s.slot := rfl
@[simp] theorem setClock_others (s : State) (d : Nat) (f : Die → Die) : (setClock s d f).others = s.others := rfl
@[simp] theorem setClock_latch (s : State) (d : Nat) (f : Die → Die) : (setClock s d f).latch = s.latch := rfl
@[simp] theorem setClock_cores (s : State) (d : Nat) (f : Die → Die) : (setClock s d f).cores = s.cores := rfl
@[simp] theorem setClock_mem (s : State) (d : Nat) (f : Die → Die) : (setClock s d f).mem = s.mem := rfl
@[simp] theorem setClock_net (s : State) (d : Nat) (f : Die → Die) : (setClock s d f).net = s.net := rfl
@[simp] theorem setClock_hub (s : State) (d : Nat) (f : Die → Die) : (setClock s d f).hub = s.hub := rfl
@[simp] theorem setClock_bindings (s : State) (d : Nat) (f : Die → Die) : (setClock s d f).bindings = s.bindings := rfl
@[simp] theorem setClock_engines (s : State) (d : Nat) (f : Die → Die) : (setClock s d f).engines = s.engines := rfl
@[simp] theorem setClock_outbox (s : State) (d : Nat) (f : Die → Die) : (setClock s d f).outbox = s.outbox := rfl
@[simp] theorem setClock_deferred (s : State) (d : Nat) (f : Die → Die) : (setClock s d f).deferred = s.deferred := rfl
@[simp] theorem setClock_agenda (s : State) (d : Nat) (f : Die → Die) : (setClock s d f).agenda = s.agenda := rfl
@[simp] theorem setClock_arg (s : State) (d : Nat) (f : Die → Die) : (setClock s d f).arg = s.arg := rfl
@[simp] theorem setClock_now (s : State) (d : Nat) (f : Die → Die) : (setClock s d f).now = s.now := rfl
@[simp] theorem setClock_dwell (s : State) (d : Nat) (f : Die → Die) : (setClock s d f).dwell = s.dwell := rfl
@[simp] theorem setClock_fresh (s : State) (d : Nat) (f : Die → Die) : (setClock s d f).fresh = s.fresh := rfl
@[simp] theorem setClock_resets (s : State) (d : Nat) (f : Die → Die) : (setClock s d f).resets = s.resets := rfl
@[simp] theorem setClock_fetches (s : State) (d : Nat) (f : Die → Die) : (setClock s d f).fetches = s.fetches := rfl
@[simp] theorem setClock_powered (s : State) (d : Nat) (f : Die → Die) : (setClock s d f).powered = s.powered := rfl
@[simp] theorem setClock_late (s : State) (d : Nat) (f : Die → Die) : (setClock s d f).late = s.late := rfl
@[simp] theorem setClock_stalled (s : State) (d : Nat) (f : Die → Die) : (setClock s d f).stalled = s.stalled := rfl

/-! ### Reading what was written -/

@[simp] theorem onSlot_slot (s : State) (f : Slot → Slot) : (onSlot s f).slot = f s.slot := rfl

@[simp] theorem getSlot_cur (s : State) : getSlot s s.cur = s.slot := by simp [getSlot]

@[simp] theorem getSlot_setSlot_same (s : State) (i : SlotId) (l : Slot) : getSlot (setSlot s i l) i = l := by
  by_cases h : i = s.cur <;> simp [setSlot, getSlot, h]

/-- A task or service slot has a number of its own. -/
theorem slotNo_inj {i j : SlotId} (hi : i.slot < 5) (hj : j.slot < 5) (h : slotNo i = slotNo j) : i = j := by
  obtain ⟨ci, si⟩ := i
  obtain ⟨cj, sj⟩ := j
  simp only [slotNo] at h hi hj
  have hc : ci = cj := BitVec.eq_of_toNat_eq (by omega)
  subst hc
  have hs : si = sj := by omega
  rw [hs]

theorem getSlot_setSlot_other (s : State) {i j : SlotId} (l : Slot) (hi : i.slot < 5) (hj : j.slot < 5) (h : j ≠ i) :
    getSlot (setSlot s i l) j = getSlot s j := by
  unfold setSlot getSlot
  by_cases hc : i = s.cur
  · subst hc
    simp [h]
  · simp only [if_neg hc]
    split
    · rfl
    · exact sget_sset_other _ _ _ fun e => h (slotNo_inj hj hi e)

@[simp] theorem getSlot_modSlot_same (s : State) (i : SlotId) (f : Slot → Slot) : getSlot (modSlot s i f) i = f (getSlot s i) := by
  simp [modSlot]

@[simp] theorem focus_slot (s : State) (i : SlotId) : (focus s i).slot = getSlot s i := by
  unfold focus
  split <;> rename_i h <;> simp [h]

@[simp] theorem focus_cur (s : State) (i : SlotId) : (focus s i).cur = i := by
  unfold focus
  split <;> rename_i h <;> simp [h]

@[simp] theorem coreOf_modCore_same (s : State) (c : CoreId) (f : Core → Core) : coreOf (modCore s c f) c = f (coreOf s c) := by
  simp [coreOf, modCore, setCore]

theorem coreOf_modCore_other (s : State) {c d : CoreId} (f : Core → Core) (h : d ≠ c) : coreOf (modCore s c f) d = coreOf s d := by
  simp only [coreOf, modCore, setCore]
  exact sget_sset_other _ _ _ fun e => h (BitVec.eq_of_toNat_eq e)

@[simp] theorem dieAt_modDie_same (s : State) (d : Nat) (f : Die → Die) : dieAt (modDie s d f) d = f (dieAt s d) := by
  simp [dieAt, modDie]

theorem dieAt_modDie_other (s : State) {d e : Nat} (f : Die → Die) (h : e ≠ d) : dieAt (modDie s d f) e = dieAt s e := by
  simp only [dieAt, modDie]
  exact sget_sset_other _ _ _ h

@[simp] theorem engineAt_modEngine_same (s : State) (n : Nat) (f : Engine → Engine) : engineAt (modEngine s n f) n = f (engineAt s n) := by
  simp [engineAt, modEngine]

theorem capAt_modCap_same (s : State) (n : Nat) (f : Capsule → Capsule) : capAt (modCap s n f) n = (capAt s n).map f := by
  unfold modCap
  split <;> rename_i h
  · simp only [capAt, sfind_sput_same] at *
    simp [h]
  · simp [h]

theorem worldAt_modWorld_same (s : State) (n : Nat) (f : World → World) : worldAt (modWorld s n f) n = (worldAt s n).map f := by
  unfold modWorld
  split <;> rename_i h
  · simp only [worldAt, sfind_sput_same] at *
    simp [h]
  · simp [h]

@[simp] theorem launch_net (s : State) (p : Packet) : sfind (launch s p).net s.fresh =
    some { p with due := some (if p.hop = .combining then s.now + Config.visible else lifeEnd s p) } := by simp [launch, launchBy]

@[simp] theorem launch_fresh (s : State) (p : Packet) : (launch s p).fresh = s.fresh + 1 := rfl

@[simp] theorem dropPacket_net (s : State) (id : Nat) : sfind (dropPacket s id).net id = none := by simp [dropPacket]

/-! ### Shared ends -/

/-- Retirement answers a next state. -/
@[simp] theorem done_next (len : Word) (s : State) : done len s = .next (retire len s) := rfl

@[simp] theorem doneBoundary_next (len : Word) (s : State) : doneBoundary len s = .next (reopen (retire len s)) := rfl

@[simp] theorem trap_next (c : Cause) (v : Word) (s : State) : trap c v s = .next (takeTrap c v s) := rfl

@[simp] theorem stall_next (s : State) : stall s = .next { s with stalled := true } := rfl

theorem closeRegion_hold (l : Slot) : (closeRegion l).hold = l.hold := by unfold closeRegion; split <;> rfl

/-- Reading a register ends the instruction here, or hands its value on. -/
theorem withX_cases (n : BitVec 5) (s : State) (k : Word → Out) :
    withX n s k = .next { s with stalled := true } ∨ (∃ ea, withX n s k = .next (takeTrap .poison ea s)) ∨ withX n s k = k (xval s.slot n) := by
  unfold withX xval
  split
  · exact .inr (.inr rfl)
  · split
    · exact .inl rfl
    · split
      · exact .inr (.inl ⟨_, rfl⟩)
      · exact .inr (.inr rfl)

/-- Closing the region waits, or goes on with the region closed, the hold area empty and the verdict in. -/
theorem closeThen_cases (s : State) (k : State → Out) :
    (∃ t, closeThen s k = .next t ∧ t.mem = s.mem ∧ t.stalled = true) ∨
      (closeThen s k = k (onSlot s closeRegion) ∧ s.slot.hold = [] ∧ verdictPending s = false) := by
  by_cases v : verdictPending s = true
  · exact .inl ⟨{ s with stalled := true }, by simp [closeThen, v, stall], rfl, rfl⟩
  · by_cases h : s.slot.hold = []
    · exact .inr ⟨by simp [closeThen, v, h, closeRegion_hold], h, by simpa using v⟩
    · exact .inl ⟨{ onSlot s closeRegion with stalled := true }, by simp [closeThen, v, h, closeRegion_hold, stall], rfl, rfl⟩

end Sys2Proof.Laws
end

