-- ==== Sys2Proof/Laws/Memory.lean ====
section
/-! SUPPORT. Laws of memory: every operation keeps the canonical form, a read gives what was written, and every other byte stays. -/

namespace Sys2Proof.Laws

open Sys2Proof.Machine

/-! ### The canonical form (log 2) -/

/-- Reset memory has it. -/
theorem reset_wf : State.reset.mem.wf := by decide

theorem putBytes_swf (c : SMap Byte) (k : Nat) (data : List Byte) (h : swf unwritten c = true) : swf unwritten (putBytes c k data) = true := by
  induction data generalizing c k with
  | nil => exact h
  | cons b t ih => exact ih _ _ (swf_sset _ _ _ _ h)

theorem notePast_swf (m : Memory) (k n : Nat) (h : swf [] m.past = true) : swf [] (m.notePast k n) = true := by
  simp only [Memory.notePast]
  split
  · exact h
  · generalize List.range _ = l
    generalize m.past = p at h ⊢
    induction l generalizing p with
    | nil => exact h
    | cons i t ih => exact ih _ (swf_sset _ _ _ _ h)

theorem writeOne_wf (m : Memory) (k : Nat) (data : List Byte) (key : KeyId) (poison : Bool) (h : m.wf) :
    (m.writeOne k data key poison).wf := by
  obtain ⟨h1, h2, h3, h4⟩ := h
  unfold Memory.writeOne
  simp only
  split
  · exact ⟨h1, h2, h3, h4⟩
  · refine ⟨putBytes_swf _ _ _ ?_, swf_sset _ _ _ _ h2, ?_, notePast_swf _ _ _ h4⟩
    · split <;> [exact h1; exact putBytes_swf _ _ _ h1]
    · show swf KeyId.clear (if plainAt k = true then m.keys else sset KeyId.clear m.keys (k / 64) key) = true
      split
      · exact h3
      · exact swf_sset _ _ _ _ h3

theorem writeGo_wf (fuel : Nat) (m : Memory) (k : Nat) (data : List Byte) (key : KeyId) (poison : Bool) (h : m.wf) :
    (Memory.writeGo fuel m k data key poison).wf := by
  induction fuel generalizing m k data with
  | zero => exact h
  | succ n ih =>
    unfold Memory.writeGo
    split
    · exact h
    · exact ih _ _ _ (writeOne_wf m _ _ _ _ h)

/-- A write keeps the canonical form. -/
theorem write_wf (m : Memory) (k : Nat) (data : List Byte) (key : KeyId) (poison : Bool) (h : m.wf) : (m.write k data key poison).wf :=
  writeGo_wf _ m k data key poison h

theorem pokes_wf (m : Memory) (l : List (Nat × Byte)) (h : m.wf) : (m.pokes l).wf := by
  induction l generalizing m with
  | nil => exact h
  | cons p t ih =>
    obtain ⟨h1, h2, h3, h4⟩ := h
    exact ih _ ⟨swf_sset _ _ _ _ h1, h2, h3, h4⟩

theorem clearPoison_wf (m : Memory) (k : Nat) (h : m.wf) : (m.clearPoison k).wf :=
  ⟨h.1, swf_serase _ _ _ h.2.1, h.2.2.1, h.2.2.2⟩

theorem zero_wf (m : Memory) (k n : Nat) (h : m.wf) : (m.zero k n).wf :=
  ⟨swf_filter _ _ _ h.1, swf_filter _ _ _ h.2.1, h.2.2.1, h.2.2.2⟩

theorem zeroBut_wf (m : Memory) (keep : List (Nat × Nat)) (k n : Nat) (h : m.wf) : (m.zeroBut keep k n).wf :=
  ⟨swf_filter _ _ _ h.1, swf_filter _ _ _ h.2.1, h.2.2.1, h.2.2.2⟩

theorem markPoison_wf (m : Memory) (g : Nat) (h : m.wf) : ({ m with poison := sset false m.poison g true } : Memory).wf :=
  ⟨h.1, swf_sset false m.poison g true h.2.1, h.2.2.1, h.2.2.2⟩

theorem loadBytes_wf (m : Memory) (bs : List Byte) (h : m.wf) : (loadBytes m bs).wf :=
  ⟨putBytes_swf _ _ _ h.1, swf_serase _ _ _ h.2.1, swf_serase _ _ _ h.2.2.1, rfl⟩

/-- A fold of steps that keep the canonical form keeps it. -/
theorem foldl_wf {α : Type} (f : Memory → α → Memory) (l : List α) (m : Memory) (h : m.wf) (hf : ∀ m a, Memory.wf m → (f m a).wf) :
    (l.foldl f m).wf := by
  induction l generalizing m with
  | nil => exact h
  | cons a t ih => exact ih _ (hf m a h)

theorem writeRows_wf (m : Memory) (c : CoreId) (off stride n : Nat) (rows : List (List Byte)) (bad : Bool) (h : m.wf) :
    (writeRows m c off stride n rows bad).wf := by
  unfold writeRows
  exact foldl_wf _ _ _ (pokes_wf m _ h) fun m' i base => by
    simp only
    split
    · exact ⟨base.1, swf_sput false m'.poison _ true (by decide) base.2.1, base.2.2.1, base.2.2.2⟩
    · split
      · exact clearPoison_wf _ _ base
      · exact base

theorem dropGranule_wf (m : Memory) (g : Nat) (h : m.wf) : (m.dropGranule g).wf :=
  ⟨swf_filter _ _ _ h.1, swf_serase _ _ _ h.2.1, swf_serase _ _ _ h.2.2.1, h.2.2.2⟩

theorem putGranule_wf (m from0 : Memory) (g n : Nat) (h : m.wf) : (m.putGranule from0 g n).wf :=
  ⟨putBytes_swf _ _ _ h.1, swf_sset _ _ _ _ h.2.1, swf_sset _ _ _ _ h.2.2.1, h.2.2.2⟩

/-- Bytes that keep their place under a new map keep the canonical form (26 R406). -/
theorem keepBytes_wf (old s : State) (h : s.mem.wf) : (keepBytes old s).mem.wf := by
  unfold keepBytes
  split
  · exact h
  · exact foldl_wf _ _ _ (foldl_wf _ _ _ h dropGranule_wf) fun m g hm => putGranule_wf m _ g _ hm

/-- A fold of steps that leave memory leaves it. -/
theorem foldl_mem {α : Type} (f : State → α → State) (l : List α) (s : State) (hf : ∀ t a, (f t a).mem = t.mem) :
    (l.foldl f s).mem = s.mem := by
  induction l generalizing s with
  | nil => rfl
  | cons a t ih => exact (ih _).trans (hf s a)

/-- Doorbell events change engines only. -/
@[simp] theorem ringBells_mem (s : State) (cls : Nat) (hit : Nat → Bool) : (ringBells s cls hit).mem = s.mem := by
  unfold ringBells
  refine (foldl_mem _ _ _ fun t p => ?_).trans (foldl_mem _ _ _ fun t p => ?_)
  · split
    · split
      · exact foldl_mem _ _ _ fun u e => by split <;> rfl
      · rfl
    · rfl
  · obtain ⟨cap, b, i, k⟩ := p
    dsimp only
    split
    · split <;> rfl
    · rfl

/-- A write that lands keeps the canonical form. -/
theorem landMem_wf (s : State) (cls a : Nat) (key : KeyId) (data : List Byte) (bad : Bool) (h : s.mem.wf) :
    (landMem s cls a key data bad).mem.wf := by
  unfold landMem
  simp only
  split
  · exact write_wf _ _ _ _ _ h
  · rw [ringBells_mem]
    exact write_wf _ _ _ _ _ h

/-! ### Read after write -/

theorem putBytes_other (c : SMap Byte) (k : Nat) (data : List Byte) (j : Nat) (h : j < k ∨ k + data.length ≤ j) :
    sget unwritten (putBytes c k data) j = sget unwritten c j := by
  induction data generalizing c k with
  | nil => rfl
  | cons b t ih =>
    simp only [putBytes, List.length_cons] at *
    rw [ih _ _ (by omega), sget_sset_other _ _ _ (by omega)]

theorem putBytes_same (c : SMap Byte) (k : Nat) (data : List Byte) (i : Nat) (h : i < data.length) :
    sget unwritten (putBytes c k data) (k + i) = data[i] := by
  induction data generalizing c k i with
  | nil => simp at h
  | cons b t ih =>
    simp only [putBytes]
    cases i with
    | zero =>
      rw [putBytes_other _ _ _ _ (by omega)]
      simp
    | succ i =>
      have := ih (sset unwritten c k b) (k + 1) i (by simpa using h)
      simpa [Nat.add_assoc, Nat.add_comm 1 i] using this

/-- A poke leaves every other byte. -/
theorem pokes_other (m : Memory) (l : List (Nat × Byte)) (k : Nat) (h : ∀ p ∈ l, k ≠ p.1) : (m.pokes l).raw k = m.raw k := by
  induction l generalizing m with
  | nil => rfl
  | cons p t ih =>
    simp only [Memory.pokes]
    rw [ih _ fun q hq => h q (List.mem_cons_of_mem _ hq)]
    exact sget_sset_other _ _ _ (h p (List.mem_cons_self ..))

/-- A poked byte reads as it was poked, where no key stands twice. -/
theorem pokes_same (m : Memory) (l : List (Nat × Byte)) (p : Nat × Byte) (hp : p ∈ l) (hd : (l.map fun q => q.1).Nodup) :
    (m.pokes l).raw p.1 = p.2 := by
  induction l generalizing m with
  | nil => simp at hp
  | cons q t ih =>
    simp only [List.map_cons, List.nodup_cons, List.mem_map, not_exists, not_and] at hd
    simp only [Memory.pokes]
    rcases List.mem_cons.1 hp with rfl | ht
    · rw [pokes_other _ _ _ fun r hr e => hd.1 r hr e.symm]
      simp [Memory.raw]
    · exact ih _ ht hd.2

@[simp] theorem pokes_poison (m : Memory) (l : List (Nat × Byte)) : (m.pokes l).poison = m.poison := by
  induction l generalizing m with
  | nil => rfl
  | cons p t ih => simp [Memory.pokes, ih]

@[simp] theorem pokes_keys (m : Memory) (l : List (Nat × Byte)) : (m.pokes l).keys = m.keys := by
  induction l generalizing m with
  | nil => rfl
  | cons p t ih => simp [Memory.pokes, ih]

end Sys2Proof.Laws
end

