-- ==== Sys2Proof/Laws/PerInstr.lean ====
section
/-! SUPPORT. Laws that are stated for each instruction: the length of what the encoder writes (03 R50). -/

theorem Sys2Proof.Laws.ASize_code_le (c : Sys2Proof.ASize) : c.code ≤ 2 := by cases c <;> decide

theorem Sys2Proof.Laws.CFmt_code_le (c : Sys2Proof.CFmt) : c.code ≤ 7 := by cases c <;> decide

theorem Sys2Proof.Laws.FSize_code_le (c : Sys2Proof.FSize) : c.code ≤ 3 := by cases c <;> decide

theorem Sys2Proof.Laws.FType_code_le (c : Sys2Proof.FType) : c.code ≤ 3 := by cases c <;> decide

theorem Sys2Proof.Laws.IType_code_le (c : Sys2Proof.IType) : c.code ≤ 3 := by cases c <;> decide

theorem Sys2Proof.Laws.MType_code_le (c : Sys2Proof.MType) : c.code ≤ 2 := by cases c <;> decide

theorem Sys2Proof.Laws.Pair_code_le (c : Sys2Proof.Pair) : c.code ≤ 12 := by cases c <;> decide

theorem Sys2Proof.Laws.Rnd_code_le (c : Sys2Proof.Rnd) : c.code ≤ 3 := by cases c <;> decide

theorem Sys2Proof.Laws.Scope_code_le (c : Sys2Proof.Scope) : c.code ≤ 3 := by cases c <;> decide

theorem Sys2Proof.Laws.Size_code_le (c : Sys2Proof.Size) : c.code ≤ 3 := by cases c <;> decide

/-- The encoder writes two bytes, and then bit 0 of the parcel is 0, or four, and then bit 0 of the first parcel is 1 (03 R50). -/
def Sys2Proof.Laws.EncodedLength.Statement (i : Sys2Proof.Instr) : Prop :=
  ∀ n w, Sys2Proof.encode i = some (n, w) → (n = 2 ∧ w % 2 = 0 ∧ w < 2 ^ 16) ∨ (n = 4 ∧ w % 2 = 1 ∧ w < 2 ^ 32)

namespace Sys2Proof.Laws.EncodedLength

/-- From the one pair that the encoder gives. -/
theorem of_pair {i : Instr} {n w : Nat} (e : encode i = some (n, w)) (h : (n = 2 ∧ w % 2 = 0 ∧ w < 2 ^ 16) ∨ (n = 4 ∧ w % 2 = 1 ∧ w < 2 ^ 32)) :
    Statement i := by
  intro n' w' e'
  rw [e] at e'
  cases e'
  exact h

theorem add (d : BitVec 5) (a : BitVec 5) (b : BitVec 5) : Statement (.add d a b) := of_pair rfl (by omega)
theorem sub (d : BitVec 5) (a : BitVec 5) (b : BitVec 5) : Statement (.sub d a b) := of_pair rfl (by omega)
theorem and (d : BitVec 5) (a : BitVec 5) (b : BitVec 5) : Statement (.and d a b) := of_pair rfl (by omega)
theorem or (d : BitVec 5) (a : BitVec 5) (b : BitVec 5) : Statement (.or d a b) := of_pair rfl (by omega)
theorem xor (d : BitVec 5) (a : BitVec 5) (b : BitVec 5) : Statement (.xor d a b) := of_pair rfl (by omega)
theorem andn (d : BitVec 5) (a : BitVec 5) (b : BitVec 5) : Statement (.andn d a b) := of_pair rfl (by omega)
theorem orn (d : BitVec 5) (a : BitVec 5) (b : BitVec 5) : Statement (.orn d a b) := of_pair rfl (by omega)
theorem xnor (d : BitVec 5) (a : BitVec 5) (b : BitVec 5) : Statement (.xnor d a b) := of_pair rfl (by omega)
theorem sll (d : BitVec 5) (a : BitVec 5) (b : BitVec 5) : Statement (.sll d a b) := of_pair rfl (by omega)
theorem srl (d : BitVec 5) (a : BitVec 5) (b : BitVec 5) : Statement (.srl d a b) := of_pair rfl (by omega)
theorem sra (d : BitVec 5) (a : BitVec 5) (b : BitVec 5) : Statement (.sra d a b) := of_pair rfl (by omega)
theorem rol (d : BitVec 5) (a : BitVec 5) (b : BitVec 5) : Statement (.rol d a b) := of_pair rfl (by omega)
theorem ror (d : BitVec 5) (a : BitVec 5) (b : BitVec 5) : Statement (.ror d a b) := of_pair rfl (by omega)
theorem slt (d : BitVec 5) (a : BitVec 5) (b : BitVec 5) : Statement (.slt d a b) := of_pair rfl (by omega)
theorem sltu (d : BitVec 5) (a : BitVec 5) (b : BitVec 5) : Statement (.sltu d a b) := of_pair rfl (by omega)
theorem seq (d : BitVec 5) (a : BitVec 5) (b : BitVec 5) : Statement (.seq d a b) := of_pair rfl (by omega)
theorem min (d : BitVec 5) (a : BitVec 5) (b : BitVec 5) : Statement (.min d a b) := of_pair rfl (by omega)
theorem max (d : BitVec 5) (a : BitVec 5) (b : BitVec 5) : Statement (.max d a b) := of_pair rfl (by omega)
theorem minu (d : BitVec 5) (a : BitVec 5) (b : BitVec 5) : Statement (.minu d a b) := of_pair rfl (by omega)
theorem maxu (d : BitVec 5) (a : BitVec 5) (b : BitVec 5) : Statement (.maxu d a b) := of_pair rfl (by omega)
theorem csel (d : BitVec 5) (a : BitVec 5) (b : BitVec 5) (c : BitVec 5) : Statement (.csel d a b c) := of_pair rfl (by omega)
theorem mul (d : BitVec 5) (a : BitVec 5) (b : BitVec 5) : Statement (.mul d a b) := of_pair rfl (by omega)
theorem mulh (d : BitVec 5) (a : BitVec 5) (b : BitVec 5) : Statement (.mulh d a b) := of_pair rfl (by omega)
theorem mulhu (d : BitVec 5) (a : BitVec 5) (b : BitVec 5) : Statement (.mulhu d a b) := of_pair rfl (by omega)
theorem div (d : BitVec 5) (a : BitVec 5) (b : BitVec 5) : Statement (.div d a b) := of_pair rfl (by omega)
theorem divu (d : BitVec 5) (a : BitVec 5) (b : BitVec 5) : Statement (.divu d a b) := of_pair rfl (by omega)
theorem rem (d : BitVec 5) (a : BitVec 5) (b : BitVec 5) : Statement (.rem d a b) := of_pair rfl (by omega)
theorem remu (d : BitVec 5) (a : BitVec 5) (b : BitVec 5) : Statement (.remu d a b) := of_pair rfl (by omega)
theorem clz (d : BitVec 5) (a : BitVec 5) : Statement (.clz d a) := of_pair rfl (by omega)
theorem ctz (d : BitVec 5) (a : BitVec 5) : Statement (.ctz d a) := of_pair rfl (by omega)
theorem popc (d : BitVec 5) (a : BitVec 5) : Statement (.popc d a) := of_pair rfl (by omega)
theorem sextB (d : BitVec 5) (a : BitVec 5) : Statement (.sextB d a) := of_pair rfl (by omega)
theorem sextH (d : BitVec 5) (a : BitVec 5) : Statement (.sextH d a) := of_pair rfl (by omega)
theorem sextW (d : BitVec 5) (a : BitVec 5) : Statement (.sextW d a) := of_pair rfl (by omega)
theorem zextW (d : BitVec 5) (a : BitVec 5) : Statement (.zextW d a) := of_pair rfl (by omega)
theorem brev (d : BitVec 5) (a : BitVec 5) : Statement (.brev d a) := of_pair rfl (by omega)
theorem abs (d : BitVec 5) (a : BitVec 5) : Statement (.abs d a) := of_pair rfl (by omega)
theorem addsl (d : BitVec 5) (a : BitVec 5) (b : BitVec 5) (n : BitVec 5) : Statement (.addsl d a b n) := of_pair rfl (by omega)
theorem addi (d : BitVec 5) (a : BitVec 5) (imm : BitVec 15) : Statement (.addi d a imm) := of_pair rfl (by omega)
theorem andi (d : BitVec 5) (a : BitVec 5) (imm : BitVec 15) : Statement (.andi d a imm) := of_pair rfl (by omega)
theorem ori (d : BitVec 5) (a : BitVec 5) (imm : BitVec 15) : Statement (.ori d a imm) := of_pair rfl (by omega)
theorem xori (d : BitVec 5) (a : BitVec 5) (imm : BitVec 15) : Statement (.xori d a imm) := of_pair rfl (by omega)
theorem slti (d : BitVec 5) (a : BitVec 5) (imm : BitVec 15) : Statement (.slti d a imm) := of_pair rfl (by omega)
theorem sltiu (d : BitVec 5) (a : BitVec 5) (imm : BitVec 15) : Statement (.sltiu d a imm) := of_pair rfl (by omega)
theorem slli (d : BitVec 5) (a : BitVec 5) (n : BitVec 6) : Statement (.slli d a n) := of_pair rfl (by omega)
theorem srli (d : BitVec 5) (a : BitVec 5) (n : BitVec 6) : Statement (.srli d a n) := of_pair rfl (by omega)
theorem srai (d : BitVec 5) (a : BitVec 5) (n : BitVec 6) : Statement (.srai d a n) := of_pair rfl (by omega)
theorem roli (d : BitVec 5) (a : BitVec 5) (n : BitVec 6) : Statement (.roli d a n) := of_pair rfl (by omega)
theorem rori (d : BitVec 5) (a : BitVec 5) (n : BitVec 6) : Statement (.rori d a n) := of_pair rfl (by omega)
theorem lih (d : BitVec 5) (imm : BitVec 20) : Statement (.lih d imm) := of_pair rfl (by omega)
theorem lia (d : BitVec 5) (imm : BitVec 20) : Statement (.lia d imm) := of_pair rfl (by omega)
theorem bEq (a : BitVec 5) (b : BitVec 5) (off : BitVec 12) : Statement (.bEq a b off) := of_pair rfl (by omega)
theorem bNe (a : BitVec 5) (b : BitVec 5) (off : BitVec 12) : Statement (.bNe a b off) := of_pair rfl (by omega)
theorem bLt (a : BitVec 5) (b : BitVec 5) (off : BitVec 12) : Statement (.bLt a b off) := of_pair rfl (by omega)
theorem bGe (a : BitVec 5) (b : BitVec 5) (off : BitVec 12) : Statement (.bGe a b off) := of_pair rfl (by omega)
theorem bLtu (a : BitVec 5) (b : BitVec 5) (off : BitVec 12) : Statement (.bLtu a b off) := of_pair rfl (by omega)
theorem bGeu (a : BitVec 5) (b : BitVec 5) (off : BitVec 12) : Statement (.bGeu a b off) := of_pair rfl (by omega)
theorem j (off : BitVec 25) : Statement (.j off) := of_pair rfl (by omega)
theorem call (off : BitVec 20) (k : BitVec 5) : Statement (.call off k) := of_pair rfl (by omega)
theorem jr (a : BitVec 5) : Statement (.jr a) := of_pair rfl (by omega)
theorem callr (a : BitVec 5) (k : BitVec 5) : Statement (.callr a k) := of_pair rfl (by omega)
theorem loop (a : BitVec 5) (len : BitVec 11) : Statement (.loop a len) := of_pair rfl (by omega)
theorem loopi (count : BitVec 12) (len : BitVec 11) : Statement (.loopi count len) := of_pair rfl (by omega)
theorem ld (d : BitVec 5) (a : BitVec 5) (imm : BitVec 13) (sz : Size) : Statement (.ld d a imm sz) := of_pair rfl (by have := Size_code_le sz; omega)
theorem st (d : BitVec 5) (a : BitVec 5) (imm : BitVec 13) (sz : Size) : Statement (.st d a imm sz) := of_pair rfl (by have := Size_code_le sz; omega)
theorem fld (d : BitVec 5) (a : BitVec 5) (imm : BitVec 13) (sz : FSize) : Statement (.fld d a imm sz) := of_pair rfl (by have := FSize_code_le sz; omega)
theorem fst (d : BitVec 5) (a : BitVec 5) (imm : BitVec 13) (sz : FSize) : Statement (.fst d a imm sz) := of_pair rfl (by have := FSize_code_le sz; omega)
theorem fadd (d : BitVec 5) (a : BitVec 5) (b : BitVec 5) (ty : FType) (rnd : Rnd) : Statement (.fadd d a b ty rnd) := of_pair rfl (by have := FType_code_le ty; have := Rnd_code_le rnd; omega)
theorem fsub (d : BitVec 5) (a : BitVec 5) (b : BitVec 5) (ty : FType) (rnd : Rnd) : Statement (.fsub d a b ty rnd) := of_pair rfl (by have := FType_code_le ty; have := Rnd_code_le rnd; omega)
theorem fmul (d : BitVec 5) (a : BitVec 5) (b : BitVec 5) (ty : FType) (rnd : Rnd) : Statement (.fmul d a b ty rnd) := of_pair rfl (by have := FType_code_le ty; have := Rnd_code_le rnd; omega)
theorem fdiv (d : BitVec 5) (a : BitVec 5) (b : BitVec 5) (ty : FType) (rnd : Rnd) : Statement (.fdiv d a b ty rnd) := of_pair rfl (by have := FType_code_le ty; have := Rnd_code_le rnd; omega)
theorem fsqrt (d : BitVec 5) (a : BitVec 5) (ty : FType) (rnd : Rnd) : Statement (.fsqrt d a ty rnd) := of_pair rfl (by have := FType_code_le ty; have := Rnd_code_le rnd; omega)
theorem fmin (d : BitVec 5) (a : BitVec 5) (b : BitVec 5) (ty : FType) : Statement (.fmin d a b ty) := of_pair rfl (by have := FType_code_le ty; omega)
theorem fmax (d : BitVec 5) (a : BitVec 5) (b : BitVec 5) (ty : FType) : Statement (.fmax d a b ty) := of_pair rfl (by have := FType_code_le ty; omega)
theorem fsgnj (d : BitVec 5) (a : BitVec 5) (b : BitVec 5) (ty : FType) : Statement (.fsgnj d a b ty) := of_pair rfl (by have := FType_code_le ty; omega)
theorem fsgnjn (d : BitVec 5) (a : BitVec 5) (b : BitVec 5) (ty : FType) : Statement (.fsgnjn d a b ty) := of_pair rfl (by have := FType_code_le ty; omega)
theorem fsgnjx (d : BitVec 5) (a : BitVec 5) (b : BitVec 5) (ty : FType) : Statement (.fsgnjx d a b ty) := of_pair rfl (by have := FType_code_le ty; omega)
theorem feq (d : BitVec 5) (a : BitVec 5) (b : BitVec 5) (ty : FType) : Statement (.feq d a b ty) := of_pair rfl (by have := FType_code_le ty; omega)
theorem flt (d : BitVec 5) (a : BitVec 5) (b : BitVec 5) (ty : FType) : Statement (.flt d a b ty) := of_pair rfl (by have := FType_code_le ty; omega)
theorem fle (d : BitVec 5) (a : BitVec 5) (b : BitVec 5) (ty : FType) : Statement (.fle d a b ty) := of_pair rfl (by have := FType_code_le ty; omega)
theorem fclass (d : BitVec 5) (a : BitVec 5) (ty : FType) : Statement (.fclass d a ty) := of_pair rfl (by have := FType_code_le ty; omega)
theorem fcvt (d : BitVec 5) (a : BitVec 5) (src : FType) (ty : FType) (rnd : Rnd) : Statement (.fcvt d a src ty rnd) := of_pair rfl (by have := FType_code_le src; have := FType_code_le ty; have := Rnd_code_le rnd; omega)
theorem fcvtI (d : BitVec 5) (a : BitVec 5) (ty : FType) (rnd : Rnd) : Statement (.fcvtI d a ty rnd) := of_pair rfl (by have := FType_code_le ty; have := Rnd_code_le rnd; omega)
theorem fcvtFromI (d : BitVec 5) (a : BitVec 5) (ty : FType) (rnd : Rnd) : Statement (.fcvtFromI d a ty rnd) := of_pair rfl (by have := FType_code_le ty; have := Rnd_code_le rnd; omega)
theorem fmvX (d : BitVec 5) (a : BitVec 5) (ty : FType) : Statement (.fmvX d a ty) := of_pair rfl (by have := FType_code_le ty; omega)
theorem fmvF (d : BitVec 5) (a : BitVec 5) (ty : FType) : Statement (.fmvF d a ty) := of_pair rfl (by have := FType_code_le ty; omega)
theorem fmadd (d : BitVec 5) (a : BitVec 5) (b : BitVec 5) (c : BitVec 5) (ty : FType) (rnd : Rnd) : Statement (.fmadd d a b c ty rnd) := of_pair rfl (by have := FType_code_le ty; have := Rnd_code_le rnd; omega)
theorem fmsub (d : BitVec 5) (a : BitVec 5) (b : BitVec 5) (c : BitVec 5) (ty : FType) (rnd : Rnd) : Statement (.fmsub d a b c ty rnd) := of_pair rfl (by have := FType_code_le ty; have := Rnd_code_le rnd; omega)
theorem fnmadd (d : BitVec 5) (a : BitVec 5) (b : BitVec 5) (c : BitVec 5) (ty : FType) (rnd : Rnd) : Statement (.fnmadd d a b c ty rnd) := of_pair rfl (by have := FType_code_le ty; have := Rnd_code_le rnd; omega)
theorem fnmsub (d : BitVec 5) (a : BitVec 5) (b : BitVec 5) (c : BitVec 5) (ty : FType) (rnd : Rnd) : Statement (.fnmsub d a b c ty rnd) := of_pair rfl (by have := FType_code_le ty; have := Rnd_code_le rnd; omega)
theorem fgetx (d : BitVec 5) (a : BitVec 5) (b : BitVec 5) : Statement (.fgetx d a b) := of_pair rfl (by omega)
theorem fputx (d : BitVec 5) (a : BitVec 5) (b : BitVec 5) : Statement (.fputx d a b) := of_pair rfl (by omega)
theorem xgetx (d : BitVec 5) (a : BitVec 5) (b : BitVec 5) : Statement (.xgetx d a b) := of_pair rfl (by omega)
theorem xputx (d : BitVec 5) (a : BitVec 5) (b : BitVec 5) : Statement (.xputx d a b) := of_pair rfl (by omega)
theorem gets (d : BitVec 5) (n : BitVec 12) : Statement (.gets d n) := of_pair rfl (by omega)
theorem puts (a : BitVec 5) (n : BitVec 12) : Statement (.puts a n) := of_pair rfl (by omega)
theorem trap (imm : BitVec 15) : Statement (.trap imm) := of_pair rfl (by omega)
theorem brk (imm : BitVec 15) : Statement (.brk imm) := of_pair rfl (by omega)
theorem texit (imm : BitVec 15) : Statement (.texit imm) := of_pair rfl (by omega)
theorem sev (a : BitVec 5) : Statement (.sev a) := of_pair rfl (by omega)
theorem popev (d : BitVec 5) : Statement (.popev d) := of_pair rfl (by omega)
theorem region (msk : BitVec 11) : Statement (.region msk) := of_pair rfl (by omega)
theorem gang (n : BitVec 15) : Statement (.gang n) := of_pair rfl (by omega)
theorem fence (scope : Scope) : Statement (.fence scope) := of_pair rfl (by have := Scope_code_le scope; omega)
theorem probe (d : BitVec 5) (a : BitVec 5) : Statement (.probe d a) := of_pair rfl (by omega)
theorem send (a : BitVec 5) (b : BitVec 5) : Statement (.send a b) := of_pair rfl (by omega)
theorem recv (d : BitVec 5) : Statement (.recv d) := of_pair rfl (by omega)
theorem grp (grp : BitVec 5) : Statement (.grp grp) := of_pair rfl (by omega)
theorem rel (a : BitVec 5) (b : BitVec 5) : Statement (.rel a b) := of_pair rfl (by omega)
theorem grpq (d : BitVec 5) (grp : BitVec 5) : Statement (.grpq d grp) := of_pair rfl (by omega)
theorem ldG (d : BitVec 5) (a : BitVec 5) (imm : BitVec 9) (sz : Size) : Statement (.ldG d a imm sz) := of_pair rfl (by have := Size_code_le sz; omega)
theorem ldAcq (d : BitVec 5) (a : BitVec 5) (imm : BitVec 9) (sz : Size) (scope : Scope) : Statement (.ldAcq d a imm sz scope) := of_pair rfl (by have := Size_code_le sz; have := Scope_code_le scope; omega)
theorem stG (d : BitVec 5) (a : BitVec 5) (imm : BitVec 9) (sz : Size) : Statement (.stG d a imm sz) := of_pair rfl (by have := Size_code_le sz; omega)
theorem stRel (d : BitVec 5) (a : BitVec 5) (imm : BitVec 9) (sz : Size) (scope : Scope) : Statement (.stRel d a imm sz scope) := of_pair rfl (by have := Size_code_le sz; have := Scope_code_le scope; omega)
theorem atomAdd (d : BitVec 5) (a : BitVec 5) (b : BitVec 5) (ar : Bool) (sz : ASize) (scope : Scope) : Statement (.atomAdd d a b ar sz scope) := of_pair rfl (by have := ASize_code_le sz; have := Scope_code_le scope; have := Bool.toNat_le ar; omega)
theorem atomAnd (d : BitVec 5) (a : BitVec 5) (b : BitVec 5) (ar : Bool) (sz : ASize) (scope : Scope) : Statement (.atomAnd d a b ar sz scope) := of_pair rfl (by have := ASize_code_le sz; have := Scope_code_le scope; have := Bool.toNat_le ar; omega)
theorem atomOr (d : BitVec 5) (a : BitVec 5) (b : BitVec 5) (ar : Bool) (sz : ASize) (scope : Scope) : Statement (.atomOr d a b ar sz scope) := of_pair rfl (by have := ASize_code_le sz; have := Scope_code_le scope; have := Bool.toNat_le ar; omega)
theorem atomXor (d : BitVec 5) (a : BitVec 5) (b : BitVec 5) (ar : Bool) (sz : ASize) (scope : Scope) : Statement (.atomXor d a b ar sz scope) := of_pair rfl (by have := ASize_code_le sz; have := Scope_code_le scope; have := Bool.toNat_le ar; omega)
theorem atomMin (d : BitVec 5) (a : BitVec 5) (b : BitVec 5) (ar : Bool) (sz : ASize) (scope : Scope) : Statement (.atomMin d a b ar sz scope) := of_pair rfl (by have := ASize_code_le sz; have := Scope_code_le scope; have := Bool.toNat_le ar; omega)
theorem atomMax (d : BitVec 5) (a : BitVec 5) (b : BitVec 5) (ar : Bool) (sz : ASize) (scope : Scope) : Statement (.atomMax d a b ar sz scope) := of_pair rfl (by have := ASize_code_le sz; have := Scope_code_le scope; have := Bool.toNat_le ar; omega)
theorem atomMinu (d : BitVec 5) (a : BitVec 5) (b : BitVec 5) (ar : Bool) (sz : ASize) (scope : Scope) : Statement (.atomMinu d a b ar sz scope) := of_pair rfl (by have := ASize_code_le sz; have := Scope_code_le scope; have := Bool.toNat_le ar; omega)
theorem atomMaxu (d : BitVec 5) (a : BitVec 5) (b : BitVec 5) (ar : Bool) (sz : ASize) (scope : Scope) : Statement (.atomMaxu d a b ar sz scope) := of_pair rfl (by have := ASize_code_le sz; have := Scope_code_le scope; have := Bool.toNat_le ar; omega)
theorem atomSwap (d : BitVec 5) (a : BitVec 5) (b : BitVec 5) (ar : Bool) (sz : ASize) (scope : Scope) : Statement (.atomSwap d a b ar sz scope) := of_pair rfl (by have := ASize_code_le sz; have := Scope_code_le scope; have := Bool.toNat_le ar; omega)
theorem atomCas (d : BitVec 5) (a : BitVec 5) (b : BitVec 5) (ar : Bool) (sz : ASize) (scope : Scope) : Statement (.atomCas d a b ar sz scope) := of_pair rfl (by have := ASize_code_le sz; have := Scope_code_le scope; have := Bool.toNat_le ar; omega)
theorem atomFaddS (d : BitVec 5) (a : BitVec 5) (b : BitVec 5) (ar : Bool) (scope : Scope) : Statement (.atomFaddS d a b ar scope) := of_pair rfl (by have := Scope_code_le scope; have := Bool.toNat_le ar; omega)
theorem atomFminS (d : BitVec 5) (a : BitVec 5) (b : BitVec 5) (ar : Bool) (scope : Scope) : Statement (.atomFminS d a b ar scope) := of_pair rfl (by have := Scope_code_le scope; have := Bool.toNat_le ar; omega)
theorem atomFmaxS (d : BitVec 5) (a : BitVec 5) (b : BitVec 5) (ar : Bool) (scope : Scope) : Statement (.atomFmaxS d a b ar scope) := of_pair rfl (by have := Scope_code_le scope; have := Bool.toNat_le ar; omega)
theorem wait (ld : BitVec 4) (st : BitVec 4) (cp : BitVec 4) (mx : BitVec 4) : Statement (.wait ld st cp mx) := of_pair rfl (by omega)
theorem vadd (d : BitVec 5) (a : BitVec 5) (b : BitVec 5) (ty : IType) (mask : BitVec 3) : Statement (.vadd d a b ty mask) := of_pair rfl (by have := IType_code_le ty; omega)
theorem vsub (d : BitVec 5) (a : BitVec 5) (b : BitVec 5) (ty : IType) (mask : BitVec 3) : Statement (.vsub d a b ty mask) := of_pair rfl (by have := IType_code_le ty; omega)
theorem vmul (d : BitVec 5) (a : BitVec 5) (b : BitVec 5) (ty : IType) (mask : BitVec 3) : Statement (.vmul d a b ty mask) := of_pair rfl (by have := IType_code_le ty; omega)
theorem vmulh (d : BitVec 5) (a : BitVec 5) (b : BitVec 5) (ty : IType) (mask : BitVec 3) : Statement (.vmulh d a b ty mask) := of_pair rfl (by have := IType_code_le ty; omega)
theorem vmulhu (d : BitVec 5) (a : BitVec 5) (b : BitVec 5) (ty : IType) (mask : BitVec 3) : Statement (.vmulhu d a b ty mask) := of_pair rfl (by have := IType_code_le ty; omega)
theorem vmin (d : BitVec 5) (a : BitVec 5) (b : BitVec 5) (ty : IType) (mask : BitVec 3) : Statement (.vmin d a b ty mask) := of_pair rfl (by have := IType_code_le ty; omega)
theorem vmax (d : BitVec 5) (a : BitVec 5) (b : BitVec 5) (ty : IType) (mask : BitVec 3) : Statement (.vmax d a b ty mask) := of_pair rfl (by have := IType_code_le ty; omega)
theorem vminu (d : BitVec 5) (a : BitVec 5) (b : BitVec 5) (ty : IType) (mask : BitVec 3) : Statement (.vminu d a b ty mask) := of_pair rfl (by have := IType_code_le ty; omega)
theorem vmaxu (d : BitVec 5) (a : BitVec 5) (b : BitVec 5) (ty : IType) (mask : BitVec 3) : Statement (.vmaxu d a b ty mask) := of_pair rfl (by have := IType_code_le ty; omega)
theorem vand (d : BitVec 5) (a : BitVec 5) (b : BitVec 5) (ty : IType) (mask : BitVec 3) : Statement (.vand d a b ty mask) := of_pair rfl (by have := IType_code_le ty; omega)
theorem vor (d : BitVec 5) (a : BitVec 5) (b : BitVec 5) (ty : IType) (mask : BitVec 3) : Statement (.vor d a b ty mask) := of_pair rfl (by have := IType_code_le ty; omega)
theorem vxor (d : BitVec 5) (a : BitVec 5) (b : BitVec 5) (ty : IType) (mask : BitVec 3) : Statement (.vxor d a b ty mask) := of_pair rfl (by have := IType_code_le ty; omega)
theorem vsll (d : BitVec 5) (a : BitVec 5) (b : BitVec 5) (ty : IType) (mask : BitVec 3) : Statement (.vsll d a b ty mask) := of_pair rfl (by have := IType_code_le ty; omega)
theorem vsrl (d : BitVec 5) (a : BitVec 5) (b : BitVec 5) (ty : IType) (mask : BitVec 3) : Statement (.vsrl d a b ty mask) := of_pair rfl (by have := IType_code_le ty; omega)
theorem vsra (d : BitVec 5) (a : BitVec 5) (b : BitVec 5) (ty : IType) (mask : BitVec 3) : Statement (.vsra d a b ty mask) := of_pair rfl (by have := IType_code_le ty; omega)
theorem vadds (d : BitVec 5) (a : BitVec 5) (b : BitVec 5) (ty : IType) (mask : BitVec 3) : Statement (.vadds d a b ty mask) := of_pair rfl (by have := IType_code_le ty; omega)
theorem vsubs (d : BitVec 5) (a : BitVec 5) (b : BitVec 5) (ty : IType) (mask : BitVec 3) : Statement (.vsubs d a b ty mask) := of_pair rfl (by have := IType_code_le ty; omega)
theorem vabs (d : BitVec 5) (a : BitVec 5) (ty : IType) (mask : BitVec 3) : Statement (.vabs d a ty mask) := of_pair rfl (by have := IType_code_le ty; omega)
theorem vneg (d : BitVec 5) (a : BitVec 5) (ty : IType) (mask : BitVec 3) : Statement (.vneg d a ty mask) := of_pair rfl (by have := IType_code_le ty; omega)
theorem vdup (d : BitVec 5) (a : BitVec 5) (ty : IType) (mask : BitVec 3) : Statement (.vdup d a ty mask) := of_pair rfl (by have := IType_code_le ty; omega)
theorem vfadd (d : BitVec 5) (a : BitVec 5) (b : BitVec 5) (ty : FType) (mask : BitVec 3) : Statement (.vfadd d a b ty mask) := of_pair rfl (by have := FType_code_le ty; omega)
theorem vfsub (d : BitVec 5) (a : BitVec 5) (b : BitVec 5) (ty : FType) (mask : BitVec 3) : Statement (.vfsub d a b ty mask) := of_pair rfl (by have := FType_code_le ty; omega)
theorem vfmul (d : BitVec 5) (a : BitVec 5) (b : BitVec 5) (ty : FType) (mask : BitVec 3) : Statement (.vfmul d a b ty mask) := of_pair rfl (by have := FType_code_le ty; omega)
theorem vfdiv (d : BitVec 5) (a : BitVec 5) (b : BitVec 5) (ty : FType) (mask : BitVec 3) : Statement (.vfdiv d a b ty mask) := of_pair rfl (by have := FType_code_le ty; omega)
theorem vfsqrt (d : BitVec 5) (a : BitVec 5) (ty : FType) (mask : BitVec 3) : Statement (.vfsqrt d a ty mask) := of_pair rfl (by have := FType_code_le ty; omega)
theorem vfmin (d : BitVec 5) (a : BitVec 5) (b : BitVec 5) (ty : FType) (mask : BitVec 3) : Statement (.vfmin d a b ty mask) := of_pair rfl (by have := FType_code_le ty; omega)
theorem vfmax (d : BitVec 5) (a : BitVec 5) (b : BitVec 5) (ty : FType) (mask : BitVec 3) : Statement (.vfmax d a b ty mask) := of_pair rfl (by have := FType_code_le ty; omega)
theorem vfabs (d : BitVec 5) (a : BitVec 5) (ty : FType) (mask : BitVec 3) : Statement (.vfabs d a ty mask) := of_pair rfl (by have := FType_code_le ty; omega)
theorem vfneg (d : BitVec 5) (a : BitVec 5) (ty : FType) (mask : BitVec 3) : Statement (.vfneg d a ty mask) := of_pair rfl (by have := FType_code_le ty; omega)
theorem vfdup (d : BitVec 5) (a : BitVec 5) (ty : FType) (mask : BitVec 3) : Statement (.vfdup d a ty mask) := of_pair rfl (by have := FType_code_le ty; omega)
theorem vfmadd (d : BitVec 5) (a : BitVec 5) (b : BitVec 5) (ty : FType) (mask : BitVec 3) : Statement (.vfmadd d a b ty mask) := of_pair rfl (by have := FType_code_le ty; omega)
theorem vfmsub (d : BitVec 5) (a : BitVec 5) (b : BitVec 5) (ty : FType) (mask : BitVec 3) : Statement (.vfmsub d a b ty mask) := of_pair rfl (by have := FType_code_le ty; omega)
theorem vfnmadd (d : BitVec 5) (a : BitVec 5) (b : BitVec 5) (ty : FType) (mask : BitVec 3) : Statement (.vfnmadd d a b ty mask) := of_pair rfl (by have := FType_code_le ty; omega)
theorem vfnmsub (d : BitVec 5) (a : BitVec 5) (b : BitVec 5) (ty : FType) (mask : BitVec 3) : Statement (.vfnmsub d a b ty mask) := of_pair rfl (by have := FType_code_le ty; omega)
theorem vceq (d : BitVec 3) (a : BitVec 5) (b : BitVec 5) (ty : IType) (mask : BitVec 3) : Statement (.vceq d a b ty mask) := of_pair rfl (by have := IType_code_le ty; omega)
theorem vcne (d : BitVec 3) (a : BitVec 5) (b : BitVec 5) (ty : IType) (mask : BitVec 3) : Statement (.vcne d a b ty mask) := of_pair rfl (by have := IType_code_le ty; omega)
theorem vclt (d : BitVec 3) (a : BitVec 5) (b : BitVec 5) (ty : IType) (mask : BitVec 3) : Statement (.vclt d a b ty mask) := of_pair rfl (by have := IType_code_le ty; omega)
theorem vcle (d : BitVec 3) (a : BitVec 5) (b : BitVec 5) (ty : IType) (mask : BitVec 3) : Statement (.vcle d a b ty mask) := of_pair rfl (by have := IType_code_le ty; omega)
theorem vcltu (d : BitVec 3) (a : BitVec 5) (b : BitVec 5) (ty : IType) (mask : BitVec 3) : Statement (.vcltu d a b ty mask) := of_pair rfl (by have := IType_code_le ty; omega)
theorem vcleu (d : BitVec 3) (a : BitVec 5) (b : BitVec 5) (ty : IType) (mask : BitVec 3) : Statement (.vcleu d a b ty mask) := of_pair rfl (by have := IType_code_le ty; omega)
theorem vfceq (d : BitVec 3) (a : BitVec 5) (b : BitVec 5) (ty : FType) (mask : BitVec 3) : Statement (.vfceq d a b ty mask) := of_pair rfl (by have := FType_code_le ty; omega)
theorem vfclt (d : BitVec 3) (a : BitVec 5) (b : BitVec 5) (ty : FType) (mask : BitVec 3) : Statement (.vfclt d a b ty mask) := of_pair rfl (by have := FType_code_le ty; omega)
theorem vfcle (d : BitVec 3) (a : BitVec 5) (b : BitVec 5) (ty : FType) (mask : BitVec 3) : Statement (.vfcle d a b ty mask) := of_pair rfl (by have := FType_code_le ty; omega)
theorem vsel (d : BitVec 5) (a : BitVec 5) (b : BitVec 5) (ty : IType) (mask : BitVec 3) : Statement (.vsel d a b ty mask) := of_pair rfl (by have := IType_code_le ty; omega)
theorem vperm (d : BitVec 5) (a : BitVec 5) (b : BitVec 5) (ty : IType) (mask : BitVec 3) : Statement (.vperm d a b ty mask) := of_pair rfl (by have := IType_code_le ty; omega)
theorem vslup (d : BitVec 5) (a : BitVec 5) (b : BitVec 5) (ty : IType) (mask : BitVec 3) : Statement (.vslup d a b ty mask) := of_pair rfl (by have := IType_code_le ty; omega)
theorem vsldn (d : BitVec 5) (a : BitVec 5) (b : BitVec 5) (ty : IType) (mask : BitVec 3) : Statement (.vsldn d a b ty mask) := of_pair rfl (by have := IType_code_le ty; omega)
theorem vrsum (d : BitVec 5) (a : BitVec 5) (ty : IType) (mask : BitVec 3) : Statement (.vrsum d a ty mask) := of_pair rfl (by have := IType_code_le ty; omega)
theorem vrmin (d : BitVec 5) (a : BitVec 5) (ty : IType) (mask : BitVec 3) : Statement (.vrmin d a ty mask) := of_pair rfl (by have := IType_code_le ty; omega)
theorem vrmax (d : BitVec 5) (a : BitVec 5) (ty : IType) (mask : BitVec 3) : Statement (.vrmax d a ty mask) := of_pair rfl (by have := IType_code_le ty; omega)
theorem vfrsum (d : BitVec 5) (a : BitVec 5) (ty : FType) (mask : BitVec 3) : Statement (.vfrsum d a ty mask) := of_pair rfl (by have := FType_code_le ty; omega)
theorem vfrmin (d : BitVec 5) (a : BitVec 5) (ty : FType) (mask : BitVec 3) : Statement (.vfrmin d a ty mask) := of_pair rfl (by have := FType_code_le ty; omega)
theorem vfrmax (d : BitVec 5) (a : BitVec 5) (ty : FType) (mask : BitVec 3) : Statement (.vfrmax d a ty mask) := of_pair rfl (by have := FType_code_le ty; omega)
theorem vext (d : BitVec 5) (a : BitVec 5) (b : BitVec 5) (ty : IType) : Statement (.vext d a b ty) := of_pair rfl (by have := IType_code_le ty; omega)
theorem vins (d : BitVec 5) (a : BitVec 5) (b : BitVec 5) (ty : IType) : Statement (.vins d a b ty) := of_pair rfl (by have := IType_code_le ty; omega)
theorem vcvt (d : BitVec 5) (a : BitVec 5) (src : CFmt) (dst : CFmt) (rnd : Rnd) (mask : BitVec 3) : Statement (.vcvt d a src dst rnd mask) := of_pair rfl (by have := CFmt_code_le src; have := CFmt_code_le dst; have := Rnd_code_le rnd; omega)
theorem mand (d : BitVec 3) (a : BitVec 3) (b : BitVec 3) : Statement (.mand d a b) := of_pair rfl (by omega)
theorem mor (d : BitVec 3) (a : BitVec 3) (b : BitVec 3) : Statement (.mor d a b) := of_pair rfl (by omega)
theorem mxor (d : BitVec 3) (a : BitVec 3) (b : BitVec 3) : Statement (.mxor d a b) := of_pair rfl (by omega)
theorem mandn (d : BitVec 3) (a : BitVec 3) (b : BitVec 3) : Statement (.mandn d a b) := of_pair rfl (by omega)
theorem mnot (d : BitVec 3) (a : BitVec 3) : Statement (.mnot d a) := of_pair rfl (by omega)
theorem mpopc (d : BitVec 5) (a : BitVec 3) : Statement (.mpopc d a) := of_pair rfl (by omega)
theorem mfirst (d : BitVec 5) (a : BitVec 3) : Statement (.mfirst d a) := of_pair rfl (by omega)
theorem mfromx (d : BitVec 3) (a : BitVec 5) : Statement (.mfromx d a) := of_pair rfl (by omega)
theorem mtox (d : BitVec 5) (a : BitVec 3) : Statement (.mtox d a) := of_pair rfl (by omega)
theorem vld (d : BitVec 5) (a : BitVec 5) (off : BitVec 7) (mask : BitVec 3) : Statement (.vld d a off mask) := of_pair rfl (by omega)
theorem vst (d : BitVec 5) (a : BitVec 5) (off : BitVec 7) (mask : BitVec 3) : Statement (.vst d a off mask) := of_pair rfl (by omega)
theorem vgather (d : BitVec 5) (a : BitVec 5) (b : BitVec 5) (ty : IType) (mask : BitVec 3) : Statement (.vgather d a b ty mask) := of_pair rfl (by have := IType_code_le ty; omega)
theorem vscatter (d : BitVec 5) (a : BitVec 5) (b : BitVec 5) (ty : IType) (mask : BitVec 3) : Statement (.vscatter d a b ty mask) := of_pair rfl (by have := IType_code_le ty; omega)
theorem mmaLo (a : BitVec 5) (b : BitVec 5) (f : BitVec 5) (n : BitVec 5) (pair : Pair) : Statement (.mmaLo a b f n pair) := of_pair rfl (by have := Pair_code_le pair; omega)
theorem mmaHi (a : BitVec 5) (b : BitVec 5) (f : BitVec 5) (n : BitVec 5) (pair : Pair) : Statement (.mmaHi a b f n pair) := of_pair rfl (by have := Pair_code_le pair; omega)
theorem mclr (n : BitVec 6) : Statement (.mclr n) := of_pair rfl (by omega)
theorem mld (n : BitVec 6) (a : BitVec 5) (ty : MType) : Statement (.mld n a ty) := of_pair rfl (by have := MType_code_le ty; omega)
theorem mst (n : BitVec 6) (a : BitVec 5) (ty : MType) (rnd : Rnd) : Statement (.mst n a ty rnd) := of_pair rfl (by have := MType_code_le ty; have := Rnd_code_le rnd; omega)
theorem mcfg (a : BitVec 5) (n : BitVec 5) : Statement (.mcfg a n) := of_pair rfl (by omega)
theorem vpackM8 (d : BitVec 5) (a : BitVec 5) (b : BitVec 5) (rnd : Rnd) : Statement (.vpackM8 d a b rnd) := of_pair rfl (by have := Rnd_code_le rnd; omega)
theorem vpackE43 (d : BitVec 5) (a : BitVec 5) (b : BitVec 5) (rnd : Rnd) : Statement (.vpackE43 d a b rnd) := of_pair rfl (by have := Rnd_code_le rnd; omega)
theorem vpackE52 (d : BitVec 5) (a : BitVec 5) (b : BitVec 5) (rnd : Rnd) : Statement (.vpackE52 d a b rnd) := of_pair rfl (by have := Rnd_code_le rnd; omega)
theorem vpackE23 (d : BitVec 5) (a : BitVec 5) (b : BitVec 5) (rnd : Rnd) : Statement (.vpackE23 d a b rnd) := of_pair rfl (by have := Rnd_code_le rnd; omega)
theorem vpackE32 (d : BitVec 5) (a : BitVec 5) (b : BitVec 5) (rnd : Rnd) : Statement (.vpackE32 d a b rnd) := of_pair rfl (by have := Rnd_code_le rnd; omega)
theorem vpackE21 (d : BitVec 5) (a : BitVec 5) (b : BitVec 5) (rnd : Rnd) : Statement (.vpackE21 d a b rnd) := of_pair rfl (by have := Rnd_code_le rnd; omega)
theorem vpackI8 (d : BitVec 5) (a : BitVec 5) (b : BitVec 5) (rnd : Rnd) : Statement (.vpackI8 d a b rnd) := of_pair rfl (by have := Rnd_code_le rnd; omega)
theorem cp (a : BitVec 5) (b : BitVec 5) (ch : BitVec 4) : Statement (.cp a b ch) := of_pair rfl (by omega)
theorem cpMc (a : BitVec 5) (b : BitVec 5) (ch : BitVec 4) : Statement (.cpMc a b ch) := of_pair rfl (by omega)
theorem cpDec (a : BitVec 5) (b : BitVec 5) (ch : BitVec 4) : Statement (.cpDec a b ch) := of_pair rfl (by omega)
theorem subscr (a : BitVec 5) (b : BitVec 5) (ch : BitVec 4) : Statement (.subscr a b ch) := of_pair rfl (by omega)
theorem srel (a : BitVec 5) (ch : BitVec 4) : Statement (.srel a ch) := of_pair rfl (by omega)
theorem chinit (a : BitVec 5) (b : BitVec 5) (ch : BitVec 4) : Statement (.chinit a b ch) := of_pair rfl (by omega)
theorem chq (d : BitVec 5) (ch : BitVec 4) : Statement (.chq d ch) := of_pair rfl (by omega)
theorem cpcfg (a : BitVec 5) (n : BitVec 5) : Statement (.cpcfg a n) := of_pair rfl (by omega)
theorem waitc (ch : BitVec 4) : Statement (.waitc ch) := of_pair rfl (by omega)
theorem addCX0 (d : BitVec 5) (s : BitVec 5) : Statement (.addCX0 d s) := of_pair rfl (by omega)
theorem addC (d : BitVec 5) (s : BitVec 5) : Statement (.addC d s) := of_pair rfl (by omega)
theorem subC (d : BitVec 5) (s : BitVec 5) : Statement (.subC d s) := of_pair rfl (by omega)
theorem andC (d : BitVec 5) (s : BitVec 5) : Statement (.andC d s) := of_pair rfl (by omega)
theorem orC (d : BitVec 5) (s : BitVec 5) : Statement (.orC d s) := of_pair rfl (by omega)
theorem xorC (d : BitVec 5) (s : BitVec 5) : Statement (.xorC d s) := of_pair rfl (by omega)
theorem addiC (d : BitVec 5) (imm : BitVec 5) : Statement (.addiC d imm) := of_pair rfl (by omega)
theorem addiCX0 (d : BitVec 5) (imm : BitVec 5) : Statement (.addiCX0 d imm) := of_pair rfl (by omega)
theorem slliC (d : BitVec 5) (n : BitVec 5) : Statement (.slliC d n) := of_pair rfl (by omega)
theorem srliC (d : BitVec 5) (n : BitVec 5) : Statement (.srliC d n) := of_pair rfl (by omega)
theorem sraiC (d : BitVec 5) (n : BitVec 5) : Statement (.sraiC d n) := of_pair rfl (by omega)
theorem ldDC (d : BitVec 5) (s : BitVec 5) : Statement (.ldDC d s) := of_pair rfl (by omega)
theorem stDC (d : BitVec 5) (s : BitVec 5) : Statement (.stDC d s) := of_pair rfl (by omega)
theorem ldWC (d : BitVec 5) (s : BitVec 5) : Statement (.ldWC d s) := of_pair rfl (by omega)
theorem stWC (d : BitVec 5) (s : BitVec 5) : Statement (.stWC d s) := of_pair rfl (by omega)
theorem jrC (s : BitVec 5) : Statement (.jrC s) := of_pair rfl (by omega)
theorem faddSC (d : BitVec 5) (s : BitVec 5) : Statement (.faddSC d s) := of_pair rfl (by omega)
theorem fmulSC (d : BitVec 5) (s : BitVec 5) : Statement (.fmulSC d s) := of_pair rfl (by omega)
theorem illegalInstruction (word : BitVec 32) : Statement (.illegalInstruction word) := nofun
theorem fetchFault (rights : Bool) (addr : Word) : Statement (.fetchFault rights addr) := nofun
theorem ret : Statement (.ret) := of_pair rfl (by decide)
theorem nop : Statement (.nop) := of_pair rfl (by decide)
theorem tret : Statement (.tret) := of_pair rfl (by decide)
theorem wfe : Statement (.wfe) := of_pair rfl (by decide)
theorem commit : Statement (.commit) := of_pair rfl (by decide)
theorem abort : Statement (.abort) := of_pair rfl (by decide)
theorem split : Statement (.split) := of_pair rfl (by decide)
theorem nopC : Statement (.nopC) := of_pair rfl (by decide)
theorem retC : Statement (.retC) := of_pair rfl (by decide)
theorem texitC : Statement (.texitC) := of_pair rfl (by decide)
theorem wfeC : Statement (.wfeC) := of_pair rfl (by decide)
theorem deviceReset : Statement (.deviceReset) := nofun
theorem doorbell : Statement (.doorbell) := nofun
theorem ringReset : Statement (.ringReset) := nofun
theorem capsuleAcceptance : Statement (.capsuleAcceptance) := nofun
theorem codeVerdict : Statement (.codeVerdict) := nofun
theorem placeGroup : Statement (.placeGroup) := nofun
theorem priorityAging : Statement (.priorityAging) := nofun
theorem deficitCharge : Statement (.deficitCharge) := nofun
theorem cohortReservation : Statement (.cohortReservation) := nofun
theorem parkCapsule : Statement (.parkCapsule) := nofun
theorem parkCaptureEnd : Statement (.parkCaptureEnd) := nofun
theorem resumeCapsule : Statement (.resumeCapsule) := nofun
theorem capsuleCompletion : Statement (.capsuleCompletion) := nofun
theorem capsuleFault : Statement (.capsuleFault) := nofun
theorem messageArrival : Statement (.messageArrival) := nofun
theorem overflowActivation : Statement (.overflowActivation) := nofun
theorem sevArrival : Statement (.sevArrival) := nofun
theorem remoteAccessArrival : Statement (.remoteAccessArrival) := nofun
theorem accessResponse : Statement (.accessResponse) := nofun
theorem responseTimeout : Statement (.responseTimeout) := nofun
theorem atsTranslationComplete : Statement (.atsTranslationComplete) := nofun
theorem atsInvalidation : Statement (.atsInvalidation) := nofun
theorem hostMemoryAccess : Statement (.hostMemoryAccess) := nofun
theorem heldWriteDepart : Statement (.heldWriteDepart) := nofun
theorem relFlagDepart : Statement (.relFlagDepart) := nofun
theorem engineCommandStart : Statement (.engineCommandStart) := nofun
theorem engineCommandRetire : Statement (.engineCommandRetire) := nofun
theorem copyCommandAccept : Statement (.copyCommandAccept) := nofun
theorem copyPieceServe : Statement (.copyPieceServe) := nofun
theorem decCopy : Statement (.decCopy) := nofun
theorem channelCount : Statement (.channelCount) := nofun
theorem copyPieceLost : Statement (.copyPieceLost) := nofun
theorem subscriptionStart : Statement (.subscriptionStart) := nofun
theorem switchForward : Statement (.switchForward) := nofun
theorem linkFlitReceive : Statement (.linkFlitReceive) := nofun
theorem flitReplay : Statement (.flitReplay) := nofun
theorem linkDown : Statement (.linkDown) := nofun
theorem laneLoss : Statement (.laneLoss) := nofun
theorem portPacketReceive : Statement (.portPacketReceive) := nofun
theorem countedPacketArrival : Statement (.countedPacketArrival) := nofun
theorem arrivalTimeout : Statement (.arrivalTimeout) := nofun
theorem arrivalOrphan : Statement (.arrivalOrphan) := nofun
theorem rosterInstall : Statement (.rosterInstall) := nofun
theorem fmkeyWrite : Statement (.fmkeyWrite) := nofun
theorem cellarDoorbell : Statement (.cellarDoorbell) := nofun
theorem cellarStep : Statement (.cellarStep) := nofun
theorem cellarPacketDepart : Statement (.cellarPacketDepart) := nofun
theorem clip : Statement (.clip) := nofun
theorem promote : Statement (.promote) := nofun
theorem rootSign : Statement (.rootSign) := nofun
theorem egressTokenTick : Statement (.egressTokenTick) := nofun
theorem hostReadWithheld : Statement (.hostReadWithheld) := nofun
theorem jconsumedWrite : Statement (.jconsumedWrite) := nofun
theorem firmwareUpdate : Statement (.firmwareUpdate) := nofun
theorem firmwareRestart : Statement (.firmwareRestart) := nofun
theorem cxlPortConfig : Statement (.cxlPortConfig) := nofun
theorem registerWrite : Statement (.registerWrite) := nofun
theorem debugRead : Statement (.debugRead) := nofun
theorem powerLimitControl : Statement (.powerLimitControl) := nofun
theorem thermalThrottle : Statement (.thermalThrottle) := nofun
theorem thermalShutdown : Statement (.thermalShutdown) := nofun
theorem tdispStateChange : Statement (.tdispStateChange) := nofun
theorem expanderFailure : Statement (.expanderFailure) := nofun
theorem storeBufferPerform : Statement (.storeBufferPerform) := nofun
theorem releaseConditionMet : Statement (.releaseConditionMet) := nofun
theorem softError : Statement (.softError) := nofun
theorem linkRetrainComplete : Statement (.linkRetrainComplete) := nofun
theorem cxlLinkState : Statement (.cxlLinkState) := nofun
theorem hostAtomicop : Statement (.hostAtomicop) := nofun
theorem ideKeyProgramming : Statement (.ideKeyProgramming) := nofun
theorem thermalThrottleEnd : Statement (.thermalThrottleEnd) := nofun

end Sys2Proof.Laws.EncodedLength
end

