-- ==== Sys2Proof/Laws/Registers.lean ====
section
/-! SUPPORT. Laws of register writes and of retirement: what each changes, and what it leaves (01 R11, R12; 04 R87; 20 R315). -/

namespace Sys2Proof.Laws

open Sys2Proof.Machine Sys2Proof.Safety

/-! ### The checkpoint takes old values; nothing else of the slot changes -/

theorem saveX_eq (l : Slot) (k : Nat) :
    saveX l k = { l with region := { l.region with saved := { l.region.saved with x := (saveX l k).region.saved.x } } } := by
  unfold saveX; split <;> [split; skip] <;> rfl

theorem saveF_eq (l : Slot) (n : Nat) :
    saveF l n = { l with region := { l.region with saved := { l.region.saved with f := (saveF l n).region.saved.f } } } := by
  unfold saveF; split <;> rfl

theorem saveV_eq (l : Slot) (n : Nat) :
    saveV l n = { l with region := { l.region with saved := { l.region.saved with v := (saveV l n).region.saved.v } } } := by
  unfold saveV; split <;> rfl

theorem saveM_eq (l : Slot) (n : Nat) :
    saveM l n = { l with region := { l.region with saved := { l.region.saved with m := (saveM l n).region.saved.m } } } := by
  unfold saveM; split <;> rfl

/-! ### Register writes -/

theorem putX_eq (l : Slot) (k : Nat) (v : Word) (mark : Option Word) :
    putX l k v mark = { l with
      x := sset 0 l.x k v
      xPoison := match mark with | some ea => sput l.xPoison k ea | none => serase l.xPoison k
      pending := supersede (saveX l k) k
      region := { l.region with saved := (saveX l k).region.saved } } := by
  have h : putX l k v mark = { saveX l k with
      x := sset 0 (saveX l k).x k v
      xPoison := match mark with | some ea => sput (saveX l k).xPoison k ea | none => serase (saveX l k).xPoison k
      pending := supersede (saveX l k) k } := rfl
  rw [h, saveX_eq]

/-- Data on its way after one write. -/
theorem overtaken_one (l : Slot) (k : Nat) : overtaken l [k] = supersede (saveX l k) k := by
  simp only [overtaken, List.foldr_cons, List.foldr_nil]
  rw [saveX_eq]

@[simp] theorem overtaken_nil (l : Slot) : overtaken l [] = l.pending := rfl

theorem setF_eq (l : Slot) (n : BitVec 5) (v : Word) :
    setF l n v = { l with f := sset 0 l.f n.toNat v, region := { l.region with saved := (saveF l n.toNat).region.saved } } := by
  unfold setF; rw [saveF_eq]

theorem setV_eq (l : Slot) (n : BitVec 5) (v : Vec) :
    setV l n v = { l with v := sset 0 l.v n.toNat v, region := { l.region with saved := (saveV l n.toNat).region.saved } } := by
  unfold setV; rw [saveV_eq]

theorem setM_eq (l : Slot) (n : BitVec 3) (v : Word) (h : n ≠ 0) :
    setM l n v = { l with m := sset 0 l.m n.toNat v, region := { l.region with saved := (saveM l n.toNat).region.saved } } := by
  unfold setM; rw [if_neg h, saveM_eq]

theorem setX_zero (l : Slot) (v : Word) : setX l 0 v = l := by simp [setX]

theorem setX_eq (l : Slot) (n : BitVec 5) (v : Word) (h : n ≠ 0) : setX l n v = putX l (xKey l n) v none := by
  unfold setX; rw [if_neg h]

/-- Where a register is kept depends on the window base alone. -/
theorem xKey_wbase {l l' : Slot} (h : l'.wbase = l.wbase) (n : BitVec 5) : xKey l' n = xKey l n := by simp [xKey, h]

/-- Different registers are kept apart. -/
theorem xKey_ne (l : Slot) {a b : BitVec 5} (h : a ≠ b) : xKey l a ≠ xKey l b := by
  have : a.toNat ≠ b.toNat := fun e => h (BitVec.eq_of_toNat_eq e)
  unfold xKey
  split <;> split <;> omega

/-- Reading after a write to the same register, and to another one (01 R11). -/
theorem xval_setX (l : Slot) (n k : BitVec 5) (v : Word) :
    xval (setX l n v) k = if k = 0 then 0 else if k = n then v else xval l k := by
  by_cases hk : k = 0
  · unfold xval; rw [if_pos hk, if_pos hk]
  · rw [if_neg hk]
    by_cases hn : n = 0
    · have e : k ≠ n := fun e => hk (e.trans hn)
      rw [if_neg e, hn, setX_zero]
    · have r : xval (setX l n v) k = sget 0 (sset 0 l.x (xKey l n) v) (xKey l k) := by
        rw [setX_eq l n v hn, putX_eq]; unfold xval; rw [if_neg hk]; rfl
      rw [r]
      by_cases e : k = n
      · rw [if_pos e, e, sget_sset_same]
      · rw [if_neg e, sget_sset_other 0 l.x v (xKey_ne l e)]; unfold xval; rw [if_neg hk]

/-! ### Retirement -/

@[simp] theorem loopNext_out (l : Slot) (n : Word) (jump : Bool) (h : l.outer = none) : loopNext l n jump = (none, none, n) := by
  unfold loopNext; rw [h]

theorem loopNext_congr {l l' : Slot} (n : Word) (jump : Bool) (ho : l'.outer = l.outer) (hi : l'.inner = l.inner) (hp : l'.pc = l.pc) :
    loopNext l' n jump = loopNext l n jump := by unfold loopNext; rw [ho, hi, hp]

/-- A retirement changes the slot's pc, loops, retired count and what waits for this instruction, and nothing else. -/
theorem retireTo_eq (n : Word) (jump : Bool) (s : State) :
    retireTo n jump s = { s with slot := { s.slot with
      outer := (loopNext s.slot n jump).1, inner := (loopNext s.slot n jump).2.1, pc := (loopNext s.slot n jump).2.2
      retired := s.slot.retired + 1, condMet := none, wantRel := none, half := none, closing := false } } := rfl

theorem retireTo_goes (n : Word) (jump : Bool) (s : State) : GoesTo s (retireTo n jump s) n jump := ⟨rfl, rfl⟩

theorem retireTo_control (n : Word) (jump : Bool) (s : State) : Control s (retireTo n jump s) := rfl

/-- An instruction that only retires completes and changes nothing else. -/
theorem done_control (len : Word) (s : State) : ∃ t, done len s = .next t ∧ Retires s t len ∧ Control s t :=
  ⟨_, rfl, ⟨rfl, rfl⟩, rfl⟩

/-- A write of xd that retires completes with that result and changes nothing else. -/
theorem done_setX (s : State) (len : Word) (d : BitVec 5) (v : Word) :
    XResult s len d v 0 (done len (onSlot s fun l => setX l d v)) := by
  by_cases h : d = 0
  · subst h
    refine ⟨_, rfl, ?_, ?_, fun c => absurd rfl c⟩
    · simp only [setX_zero]; exact ⟨rfl, rfl⟩
    · simp only [setX_zero]
      exact ⟨rfl, fun _ _ => ⟨rfl, rfl⟩, fun _ _ => rfl, fun _ _ => rfl, fun _ _ => rfl, rfl, by simp [retire, retireTo, onSlot]⟩
  · refine ⟨_, rfl, ?_, ?_, ?_⟩
    · rw [show (fun l : Slot => setX l d v) = fun l => putX l (xKey l d) v none from funext fun l => setX_eq l d v h]
      simp only [putX_eq]; exact ⟨rfl, rfl⟩
    · have e : xDst s d = [xKey s.slot d] := by unfold xDst; rw [if_neg h]
      rw [e, show (fun l : Slot => setX l d v) = fun l => putX l (xKey l d) v none from funext fun l => setX_eq l d v h]
      simp only [putX_eq]
      refine ⟨rfl, fun k hk => ⟨?_, ?_⟩, fun _ _ => rfl, fun _ _ => rfl, fun _ _ => rfl, (overtaken_one _ _).symm,
        by simp [retire, retireTo, onSlot]⟩
      · exact sget_sset_other 0 s.slot.x v (by simpa using hk)
      · exact sfind_serase_other s.slot.xPoison (by simpa using hk)
    · intro _
      rw [show (fun l : Slot => setX l d v) = fun l => putX l (xKey l d) v none from funext fun l => setX_eq l d v h]
      simp only [putX_eq]
      refine ⟨?_, ?_⟩
      · simp only [xval, h, if_false]; exact sget_sset_same 0 s.slot.x _ v
      · exact sfind_serase_same s.slot.xPoison _

/-- The same with draws taken. -/
theorem takeDraws_eq (rnd : Rnd) (n : Nat) (l : Slot) :
    takeDraws rnd n l = { l with draws := l.draws + BitVec.ofNat 64 (if rnd = .rsr then n else 0) } := by
  unfold takeDraws; split <;> simp

theorem done_setF (s : State) (len : Word) (d : BitVec 5) (v : Word) (rnd : Rnd) (n : Nat) :
    FResult s len d v (if rnd = .rsr then n else 0) (done len (onSlot s fun l => takeDraws rnd n (setF l d v))) := by
  refine ⟨_, rfl, ?_, ?_, ?_⟩ <;> simp only [takeDraws_eq, setF_eq]
  · exact ⟨rfl, rfl⟩
  · refine ⟨rfl, fun _ _ => ⟨rfl, rfl⟩, fun k hk => ?_, fun _ _ => rfl, fun _ _ => rfl, rfl, rfl⟩
    exact sget_sset_other 0 s.slot.f v (by simpa using hk)
  · exact sget_sset_same 0 s.slot.f _ v

theorem done_setV (s : State) (len : Word) (d : BitVec 5) (v : Vec) (rnd : Rnd) (n : Nat) :
    VResult s len d v (if rnd = .rsr then n else 0) (done len (onSlot s fun l => takeDraws rnd n (setV l d v))) := by
  refine ⟨_, rfl, ?_, ?_, ?_⟩ <;> simp only [takeDraws_eq, setV_eq]
  · exact ⟨rfl, rfl⟩
  · refine ⟨rfl, fun _ _ => ⟨rfl, rfl⟩, fun _ _ => rfl, fun k hk => ?_, fun _ _ => rfl, rfl, rfl⟩
    exact sget_sset_other 0 s.slot.v v (by simpa using hk)
  · exact sget_sset_same 0 s.slot.v _ v

theorem done_setM (s : State) (len : Word) (d : BitVec 3) (v : Word) :
    MResult s len d v 0 (done len (onSlot s fun l => setM l d v)) := by
  by_cases h : d = 0
  · subst h
    refine ⟨_, rfl, ?_, ?_, ?_⟩ <;> simp only [setM, if_true]
    · exact ⟨rfl, rfl⟩
    · exact ⟨rfl, fun _ _ => ⟨rfl, rfl⟩, fun _ _ => rfl, fun _ _ => rfl, fun _ _ => rfl, rfl, by simp [retire, retireTo, onSlot]⟩
    · simp [mval]
  · refine ⟨_, rfl, ?_, ?_, ?_⟩ <;> simp only [setM_eq _ d v h]
    · exact ⟨rfl, rfl⟩
    · simp only [h, if_false]
      refine ⟨rfl, fun _ _ => ⟨rfl, rfl⟩, fun _ _ => rfl, fun _ _ => rfl, fun k hk => ?_, rfl, by simp [retire, retireTo, onSlot]⟩
      exact sget_sset_other 0 s.slot.m v (by simpa using hk)
    · simp only [mval, h, if_false]; exact sget_sset_same 0 s.slot.m _ v

/-! ### Reading x registers -/

/-- A readable register is read. -/
theorem withX_ready (s : State) (n : BitVec 5) (k : Word → Out) (h : XReady s n) : withX n s k = k (xval s.slot n) := by
  unfold withX xval
  rcases h with h | ⟨a, p⟩
  · simp [h]
  · by_cases z : n = 0
    · simp [z]
    · simp only [z, if_false, a, p]; rfl

/-- A marked register traps POISON with the effective address that its mark holds (10 R209). -/
theorem withX_poison (s : State) (n : BitVec 5) (k : Word → Out) (ea : Word) (z : n ≠ 0) (a : awaited s.slot (xKey s.slot n) = false)
    (p : sfind s.slot.xPoison (xKey s.slot n) = some ea) : withX n s k = trap .poison ea s := by
  unfold withX; rw [if_neg z]; simp [a, p]

/-- The value that decides control is read. -/
theorem withLeaderX_ready (s : State) (n : BitVec 5) (k : Word → Out) (h : LeadReady s n) : withLeaderX n s k = k (leadX s n) := by
  unfold withLeaderX leadX
  by_cases g : s.slot.gangPos = 0
  · simp only [g, if_true]; exact withX_ready s n k (h.resolve_left (fun c => c g))
  · simp [g]

/-- A region that can close closes at once. -/
theorem closeThen_ready (s : State) (k : State → Out) (h : CanClose s) : closeThen s k = k (closed s) := by
  unfold closeThen closed; simp [h.1, h.2, closeRegion_hold]

/-- Closing the region changes what discards would undo, and nothing else of the slot (20 R317, R323). -/
theorem closeRegion_eq (l : Slot) :
    closeRegion l = { l with region := (closeRegion l).region, regionNo := (closeRegion l).regionNo, shadow := (closeRegion l).shadow
                             pending := (closeRegion l).pending, closing := true } := by
  unfold closeRegion
  split <;> rename_i h
  · rw [← h]
  · rfl

/-- All x registers that an instruction reads are at hand. -/
theorem withReady_ready (s : State) (ns : List (BitVec 5)) (k : Out) (h : ∀ n ∈ ns, XReady s n) : withReady ns s k = k := by
  unfold withReady
  rw [if_neg]
  simp only [List.any_eq_true, not_exists, not_and]
  intro n hn c
  rcases h n hn with z | ⟨a, _⟩
  · simp [z] at c
  · simp [a] at c

theorem withLeaderReady_ready (s : State) (ns : List (BitVec 5)) (k : Out) (h : ∀ n ∈ ns, LeadReady s n) :
    withLeaderReady ns s k = k := by
  unfold withLeaderReady
  split <;> rename_i g
  · exact withReady_ready s ns k fun n hn => (h n hn).resolve_left fun c => c g
  · rfl

/-- A local access that passes its checks goes on at its pool offset. -/
theorem withLocal_ready (s : State) (ea : Word) (n : Nat) (store : Bool) (off : Nat) (k : Nat → Out)
    (h : LocalOk s ea n store off) : withLocal s ea n store k = k off := by
  obtain ⟨a, g, b, c, d, e, f⟩ := h
  have g' : (!store && noEntries s 1) = false := by rcases g with g | g <;> simp [g]
  unfold withLocal withPool
  simp [a, b, c, d, e, f, g']

end Sys2Proof.Laws
end

