-- ==== Sys2Proof/Tests/Slice0.lean ====
section
/-! SUPPORT. Tests: words of the spec and what they decode to, ill-formed instructions that the checks refuse, states and operands that
meet the hypotheses of each statement, and single steps with results worked out from the spec. -/

namespace Sys2Proof.Tests

open Sys2Proof.Machine Sys2Proof.Safety

/-- The decoder reads the word as the instruction, and the encoder gives the word back. -/
def decodesAs (x : Nat × Nat × Instr) : Bool := decodeTableWord x.1 x.2.1 == some x.2.2 && encode x.2.2 == some (x.1 / 8, x.2.1)

/-! ### What the checks refuse -/

/-- An ill-formed term for each check of `Instr.wellFormed`. -/
theorem test_illFormed : [Instr.call 0 25, .callr 1 25, .fcvt 1 2 .s .s .rne, .vcvt 1 2 .h .h .rne 0, .vcvt 1 2 .ib .iw .rtz 0, .mst 0 1 .s .rtz,
    .region 0x380, .gang 3, .grp 17, .rel 1 17, .grpq 1 16].all (fun i => i.wellFormed == false) = true := by decide

/-- Atomics: a scope without .ar, the size .q, odd registers of a .q `cas`. -/
theorem test_illFormed_atomics : [Instr.atomAdd 1 2 3 false .d .pkg, .atomAdd 1 2 3 true .q .pkg, .atomAnd 1 2 3 true .q .die, .atomOr 1 2 3 true .q .die,
    .atomXor 1 2 3 true .q .die, .atomMin 1 2 3 true .q .die, .atomMax 1 2 3 true .q .die, .atomMinu 1 2 3 true .q .die, .atomMaxu 1 2 3 true .q .die,
    .atomSwap 1 2 3 true .q .die, .atomCas 9 2 4 true .q .die, .atomCas 8 2 5 true .q .die, .atomFaddS 1 2 3 false .sys, .atomFminS 1 2 3 false .dom,
    .atomFmaxS 1 2 3 false .pkg].all (fun i => i.wellFormed == false) = true := by decide

/-- The words of ill-formed instructions do not decode. -/
theorem test_illFormed_words : decodeTableWord 32 (0x25 + 25 * 128) = none ∧ decodeTableWord 32 0x5800304B = none := by decide

/-- Words and parcels that the spec's examples name as no instruction (03 R68, 18, 20 R321, 21 R344). -/
theorem test_notInstructions : [(32, 0x00000001), (32, 0xFFFFFFFF), (16, 0x0000), (32, 0x4400006B), (32, 0x0022004F), (32, 0x40804B),
    (32, 0x4078004B), (32, 0x48001 * 4096 + 0x4B), (32, 0x000000CB), (16, 0x0810), (16, 0xF800)].all
      (fun p => decodeTableWord p.1 p.2 == none) = true := by decide

/-- The only instruction without effect, in its two encodings (03 R68). -/
theorem test_nops : decodeTableWord 32 0x0000004B = some .nop ∧ decodeTableWord 16 0x0800 = some .nopC := by decide

/-! ### The spec's words and what they stand for -/

/-- Alu: words put together from the fields of 03 Tables 3-2 to 3-13, with what they stand for. -/
def wordsAlu1 : List (Nat × Nat × Instr) :=
   [(32, 0x003E2083, .add 1 2 31),
    (32, 0x083C3103, .sub 2 3 30),
    (32, 0x103A4183, .and 3 4 29),
    (32, 0x18385203, .or 4 5 28),
    (32, 0x20366283, .xor 5 6 27),
    (32, 0x28347303, .andn 6 7 26),
    (32, 0x30328383, .orn 7 8 25),
    (32, 0x38309403, .xnor 8 9 24),
    (32, 0x402EA483, .sll 9 10 23),
    (32, 0x482CB503, .srl 10 11 22),
    (32, 0x502AC583, .sra 11 12 21),
    (32, 0x5828D603, .rol 12 13 20),
    (32, 0x6026E683, .ror 13 14 19),
    (32, 0x6824F703, .slt 14 15 18),
    (32, 0x70230783, .sltu 15 16 17),
    (32, 0x78211803, .seq 16 17 16),
    (32, 0x801F2883, .min 17 18 15),
    (32, 0x881D3903, .max 18 19 14),
    (32, 0x901B4983, .minu 19 20 13),
    (32, 0x98195A03, .maxu 20 21 12),
    (32, 0xA822DA83, .mul 21 13 17),
    (32, 0xB024EB03, .mulh 22 14 18),
    (32, 0xB826FB83, .mulhu 23 15 19),
    (32, 0xC0290C03, .div 24 16 20)]

theorem test_decode_alu1 : wordsAlu1.all decodesAs = true := by decide

/-- Alu: words put together from the fields of 03 Tables 3-2 to 3-13, with what they stand for. -/
def wordsAlu2 : List (Nat × Nat × Instr) :=
   [(32, 0xC82B1C83, .divu 25 17 21),
    (32, 0xD02D2D03, .rem 26 18 22),
    (32, 0xD82F3D83, .remu 27 19 23),
    (32, 0xA316A483, .csel 9 10 11 12),
    (32, 0x00014185, .clz 3 20),
    (32, 0x08013205, .ctz 4 19),
    (32, 0x10012285, .popc 5 18),
    (32, 0x18011305, .sextB 6 17),
    (32, 0x20010385, .sextH 7 16),
    (32, 0x2800F405, .sextW 8 15),
    (32, 0x3000E485, .zextW 9 14),
    (32, 0x3800D505, .brev 10 13),
    (32, 0x4000C585, .abs 11 12),
    (32, 0x04C62087, .addsl 1 2 3 19),
    (32, 0xFFFE9209, .addi 4 9 0x7fff),
    (32, 0x8000A28B, .andi 5 10 0x4000),
    (32, 0x7FFEB30D, .ori 6 11 0x3fff),
    (32, 0x0002C38F, .xori 7 12 0x1),
    (32, 0xAAAAD411, .slti 8 13 0x5555),
    (32, 0x5554E493, .sltiu 9 14 0x2aaa),
    (32, 0x0FC01295, .slli 5 1 63),
    (32, 0x1F802315, .srli 6 2 62),
    (32, 0x2F403395, .srai 7 3 61),
    (32, 0x3F004415, .roli 8 4 60)]

theorem test_decode_alu2 : wordsAlu2.all decodesAs = true := by decide

/-- Alu: words put together from the fields of 03 Tables 3-2 to 3-13, with what they stand for. -/
def wordsAlu3 : List (Nat × Nat × Instr) :=
   [(32, 0x4EC05495, .rori 9 5 59),
    (32, 0x80001397, .lih 7 0x80001),
    (32, 0x7FFFE419, .lia 8 0x7FFFE)]

theorem test_decode_alu3 : wordsAlu3.all decodesAs = true := by decide

/-- Control: words put together from the fields of 03 Tables 3-2 to 3-13, with what they stand for. -/
def wordsControl1 : List (Nat × Nat × Instr) :=
   [(32, 0x80221421, .bEq 1 17 0x801),
    (32, 0x802428A1, .bNe 2 18 0x802),
    (32, 0x80263D21, .bLt 3 19 0x803),
    (32, 0x806841A1, .bGe 4 20 0x804),
    (32, 0x806A5621, .bLtu 5 21 0x805),
    (32, 0x806C6AA1, .bGeu 6 22 0x806),
    (32, 0x800001A3, .j 0x1000003),
    (32, 0x80003C25, .call 0x80003 24),
    (32, 0x00011027, .jr 17),
    (32, 0x0DC12027, .callr 18 23),
    (32, 0x10000027, .ret),
    (32, 0x08029029, .loop 9 0x401),
    (32, 0x8018042B, .loopi 0x801 0x402)]

theorem test_decode_control1 : wordsControl1.all decodesAs = true := by decide

/-- Memory: words put together from the fields of 03 Tables 3-2 to 3-13, with what they stand for. -/
def wordsMemory1 : List (Nat × Nat × Instr) :=
   [(32, 0x800841B1, .ld 3 4 0x1001 .b),
    (32, 0x800E41B1, .ld 3 4 0x1001 .d),
    (32, 0x800841B3, .st 3 4 0x1001 .b),
    (32, 0x800E41B3, .st 3 4 0x1001 .d),
    (32, 0x7FFA62B5, .fld 5 6 0x0FFF .h),
    (32, 0x7FFC62B5, .fld 5 6 0x0FFF .s),
    (32, 0x7FFA62B7, .fst 5 6 0x0FFF .h),
    (32, 0x7FFC62B7, .fst 5 6 0x0FFF .s),
    (32, 0x80A020B9, .ldG 1 2 0x101 .h),
    (32, 0x7FDA41B9, .ldAcq 3 4 0x0FF .w .sys),
    (32, 0x800062BB, .stG 5 6 0x100 .b),
    (32, 0x00F283BB, .stRel 7 8 1 .d .dom)]

theorem test_decode_memory1 : wordsMemory1.all decodesAs = true := by decide

/-- Atomic: words put together from the fields of 03 Tables 3-2 to 3-13, with what they stand for. -/
def wordsAtomic1 : List (Nat × Nat × Instr) :=
   [(32, 0x000620BD, .atomAdd 1 2 3 false .w .die),
    (32, 0x0B48313D, .atomAnd 2 3 4 true .d .dom),
    (32, 0x100A41BD, .atomOr 3 4 5 false .w .die),
    (32, 0x1B4C523D, .atomXor 4 5 6 true .d .dom),
    (32, 0x200E62BD, .atomMin 5 6 7 false .w .die),
    (32, 0x2B50733D, .atomMax 6 7 8 true .d .dom),
    (32, 0x301283BD, .atomMinu 7 8 9 false .w .die),
    (32, 0x3B54943D, .atomMaxu 8 9 10 true .d .dom),
    (32, 0x4016A4BD, .atomSwap 9 10 11 false .w .die),
    (32, 0x4DDCC53D, .atomCas 10 12 14 true .q .sys),
    (32, 0x50CE84BD, .atomFaddS 9 8 7 true .pkg),
    (32, 0x58CE84BD, .atomFminS 9 8 7 true .pkg),
    (32, 0x60CE84BD, .atomFmaxS 9 8 7 true .pkg),
    (32, 0x4321003F, .wait 1 2 3 4)]

theorem test_decode_atomic1 : wordsAtomic1.all decodesAs = true := by decide

/-- Float: words put together from the fields of 03 Tables 3-2 to 3-13, with what they stand for. -/
def wordsFloat1 : List (Nat × Nat × Instr) :=
   [(32, 0x018620C1, .fadd 1 2 3 .h .rsr),
    (32, 0x0B083141, .fsub 2 3 4 .bf .rto),
    (32, 0x148A41C1, .fmul 3 4 5 .s .rtz),
    (32, 0x1E0C5241, .fdiv 4 5 6 .d .rne),
    (32, 0x27005241, .fsqrt 4 5 .d .rto),
    (32, 0x2A0E62C1, .fmin 5 6 7 .bf),
    (32, 0x34107341, .fmax 6 7 8 .s),
    (32, 0x3E1283C1, .fsgnj 7 8 9 .d),
    (32, 0x40149441, .fsgnjn 8 9 10 .h),
    (32, 0x4A16A4C1, .fsgnjx 9 10 11 .bf),
    (32, 0x5418B541, .feq 10 11 12 .s),
    (32, 0x5E1AC5C1, .flt 11 12 13 .d),
    (32, 0x601CD641, .fle 12 13 14 .h),
    (32, 0x6A0041C1, .fclass 3 4 .bf),
    (32, 0x748620C1, .fcvt 1 2 .d .s .rtz),
    (32, 0x798062C1, .fcvtI 5 6 .h .rsr),
    (32, 0x870083C1, .fcvtFromI 7 8 .d .rto),
    (32, 0x8C00A4C1, .fmvX 9 10 .s),
    (32, 0x9200C5C1, .fmvF 11 12 .bf),
    (32, 0x910620C3, .fmadd 1 2 3 4 .s .rtz),
    (32, 0x990620C3, .fmsub 1 2 3 4 .s .rtz),
    (32, 0x910620C5, .fnmadd 1 2 3 4 .s .rtz),
    (32, 0x990620C5, .fnmsub 1 2 3 4 .s .rtz),
    (32, 0x002890C7, .fgetx 1 9 20)]

theorem test_decode_float1 : wordsFloat1.all decodesAs = true := by decide

/-- Float: words put together from the fields of 03 Tables 3-2 to 3-13, with what they stand for. -/
def wordsFloat2 : List (Nat × Nat × Instr) :=
   [(32, 0x082AA147, .fputx 2 10 21),
    (32, 0x102CB1C7, .xgetx 3 11 22),
    (32, 0x182EC247, .xputx 4 12 23)]

theorem test_decode_float2 : wordsFloat2.all decodesAs = true := by decide

/-- System: words put together from the fields of 03 Tables 3-2 to 3-13, with what they stand for. -/
def wordsSystem1 : List (Nat × Nat × Instr) :=
   [(32, 0x80100349, .gets 6 0x801),
    (32, 0x7FE27049, .puts 7 0x7FE),
    (32, 0x0000004B, .nop),
    (32, 0x0FFFE04B, .trap 0x7FFE),
    (32, 0x1400104B, .brk 0x4001),
    (32, 0x1800004B, .tret),
    (32, 0x27FFF04B, .texit 0x7FFF),
    (32, 0x2800004B, .wfe),
    (32, 0x3001F04B, .sev 31),
    (32, 0x38000F4B, .popev 30),
    (32, 0x4018704B, .region 0x187),
    (32, 0x4800004B, .commit),
    (32, 0x5000004B, .abort),
    (32, 0x5800804B, .gang 8),
    (32, 0x6000004B, .split),
    (32, 0x6800204B, .fence .dom),
    (32, 0x700041CB, .probe 3 4),
    (32, 0x000C504D, .send 5 6),
    (32, 0x080003CD, .recv 7),
    (32, 0x001A004F, .grp 13),
    (32, 0x0821404F, .rel 20 16),
    (32, 0x101E0ACF, .grpq 21 15)]

theorem test_decode_system1 : wordsSystem1.all decodesAs = true := by decide

/-- Vector: words put together from the fields of 03 Tables 3-2 to 3-13, with what they stand for. -/
def wordsVector1 : List (Nat × Nat × Instr) :=
   [(32, 0x00041051, .vadd 0 1 2 .b 0),
    (32, 0x0A4620D1, .vsub 1 2 3 .h 1),
    (32, 0x14883151, .vmul 2 3 4 .w 2),
    (32, 0x1ECA41D1, .vmulh 3 4 5 .d 3),
    (32, 0x210C5251, .vmulhu 4 5 6 .b 4),
    (32, 0x2B4E62D1, .vmin 5 6 7 .h 5),
    (32, 0x35907351, .vmax 6 7 8 .w 6),
    (32, 0x3FD283D1, .vminu 7 8 9 .d 7),
    (32, 0x40149451, .vmaxu 8 9 10 .b 0),
    (32, 0x4A56A4D1, .vand 9 10 11 .h 1),
    (32, 0x5498B551, .vor 10 11 12 .w 2),
    (32, 0x5EDAC5D1, .vxor 11 12 13 .d 3),
    (32, 0x611CD651, .vsll 12 13 14 .b 4),
    (32, 0x6B5EE6D1, .vsrl 13 14 15 .h 5),
    (32, 0x75A0F751, .vsra 14 15 16 .w 6),
    (32, 0x7FE307D1, .vadds 15 16 17 .d 7),
    (32, 0x80251851, .vsubs 16 17 18 .b 0),
    (32, 0x8A4128D1, .vabs 17 18 .h 1),
    (32, 0x94813951, .vneg 18 19 .w 2),
    (32, 0x9EC149D1, .vdup 19 20 .d 3),
    (32, 0x01CE84D3, .vfadd 9 8 7 .h 7),
    (32, 0x0B909553, .vfsub 10 9 8 .bf 6),
    (32, 0x1552A5D3, .vfmul 11 10 9 .s 5),
    (32, 0x1F14B653, .vfdiv 12 11 10 .d 4)]

theorem test_decode_vector1 : wordsVector1.all decodesAs = true := by decide

/-- Vector: words put together from the fields of 03 Tables 3-2 to 3-13, with what they stand for. -/
def wordsVector2 : List (Nat × Nat × Instr) :=
   [(32, 0x20C0C6D3, .vfsqrt 13 12 .h 3),
    (32, 0x2A98D753, .vfmin 14 13 12 .bf 2),
    (32, 0x345AE7D3, .vfmax 15 14 13 .s 1),
    (32, 0x3E00F853, .vfabs 16 15 .d 0),
    (32, 0x41C108D3, .vfneg 17 16 .h 7),
    (32, 0x4B811953, .vfdup 18 17 .bf 6),
    (32, 0x008650D5, .vfmadd 1 5 3 .h 2),
    (32, 0x0AC86155, .vfmsub 2 6 4 .bf 3),
    (32, 0x150A71D5, .vfnmadd 3 7 5 .s 4),
    (32, 0x1F4C8255, .vfnmsub 4 8 6 .d 5),
    (32, 0x002AB0D7, .vceq 1 11 21 .b 0),
    (32, 0x0A6CC157, .vcne 2 12 22 .h 1),
    (32, 0x14AED1D7, .vclt 3 13 23 .w 2),
    (32, 0x1EF0E257, .vcle 4 14 24 .d 3),
    (32, 0x2132F2D7, .vcltu 5 15 25 .b 4),
    (32, 0x2B750357, .vcleu 6 16 26 .h 5),
    (32, 0x40E28257, .vfceq 4 8 17 .h 3),
    (32, 0x4B2492D7, .vfclt 5 9 18 .bf 4),
    (32, 0x5566A357, .vfcle 6 10 19 .s 5),
    (32, 0x070620D9, .vsel 1 2 3 .d 4),
    (32, 0x0D483159, .vperm 2 3 4 .w 5),
    (32, 0x138A41D9, .vslup 3 4 5 .h 6),
    (32, 0x19CC5259, .vsldn 4 5 6 .b 7),
    (32, 0x2300D259, .vrsum 4 13 .h 4)]

theorem test_decode_vector2 : wordsVector2.all decodesAs = true := by decide

/-- Vector: words put together from the fields of 03 Tables 3-2 to 3-13, with what they stand for. -/
def wordsVector3 : List (Nat × Nat × Instr) :=
   [(32, 0x2D40E2D9, .vrmin 5 14 .w 5),
    (32, 0x3780F359, .vrmax 6 15 .d 6),
    (32, 0x3A8103D9, .vfrsum 7 16 .bf 2),
    (32, 0x44C11459, .vfrmin 8 17 .s 3),
    (32, 0x4F0124D9, .vfrmax 9 18 .d 4),
    (32, 0x5218B559, .vext 10 11 12 .h),
    (32, 0x5C1AC5D9, .vins 11 12 13 .w),
    (32, 0x8FA020DB, .vcvt 1 2 .id .h .rsr 5),
    (32, 0x000620DD, .mand 1 2 3),
    (32, 0x0808315D, .mor 2 3 4),
    (32, 0x100A41DD, .mxor 3 4 5),
    (32, 0x180C525D, .mandn 4 5 6),
    (32, 0x200071DD, .mnot 3 7),
    (32, 0x280071DD, .mpopc 3 7),
    (32, 0x300071DD, .mfirst 3 7),
    (32, 0x380071DD, .mfromx 3 7),
    (32, 0x400071DD, .mtox 3 7),
    (32, 0x8380525F, .vld 4 5 0x41 6),
    (32, 0x8382525F, .vst 4 5 0x41 6),
    (32, 0x030620E1, .vgather 1 2 3 .h 4),
    (32, 0x0B0620E1, .vscatter 1 2 3 .h 4)]

theorem test_decode_vector3 : wordsVector3.all decodesAs = true := by decide

/-- Engine: words put together from the fields of 03 Tables 3-2 to 3-13, with what they stand for. -/
def wordsEngine1 : List (Nat × Nat × Instr) :=
   [(32, 0x00C41267, .mmaHi 1 2 3 4 .m8m8),
    (32, 0x090622E5, .mmaLo 2 3 4 5 .e43e43),
    (32, 0x11483367, .mmaHi 3 4 5 6 .e43e52),
    (32, 0x198A43E5, .mmaLo 4 5 6 7 .e52e43),
    (32, 0x21CC5467, .mmaHi 5 6 7 8 .e52e52),
    (32, 0x2A0E64E5, .mmaLo 6 7 8 9 .i8i8),
    (32, 0x32507567, .mmaHi 7 8 9 10 .e23e23),
    (32, 0x3A9285E5, .mmaLo 8 9 10 11 .e23e32),
    (32, 0x42D49667, .mmaHi 9 10 11 12 .e32e23),
    (32, 0x4B16A6E5, .mmaLo 10 11 12 13 .e32e32),
    (32, 0x5358B767, .mmaHi 11 12 13 14 .e21e21),
    (32, 0x5B9AC7E5, .mmaLo 12 13 14 15 .bfbf),
    (32, 0x63DCD867, .mmaHi 13 14 15 16 .hh),
    (32, 0x04000FE9, .mclr 63),
    (32, 0x08809FE9, .mld 31 9 .h),
    (32, 0x16408069, .mst 32 8 .bf .rto),
    (32, 0x18047069, .mcfg 7 2),
    (32, 0x200620E9, .vpackM8 1 2 3 .rne),
    (32, 0x29083169, .vpackE43 2 3 4 .rtz),
    (32, 0x320A41E9, .vpackE52 3 4 5 .rto),
    (32, 0x3B0C5269, .vpackE23 4 5 6 .rsr),
    (32, 0x400E62E9, .vpackE32 5 6 7 .rne),
    (32, 0x49107369, .vpackE21 6 7 8 .rtz),
    (32, 0x521283E9, .vpackI8 7 8 9 .rto)]

theorem test_decode_engine1 : wordsEngine1.all decodesAs = true := by decide

/-- Engine: words put together from the fields of 03 Tables 3-2 to 3-13, with what they stand for. -/
def wordsEngine2 : List (Nat × Nat × Instr) :=
   [(32, 0x03C4106B, .cp 1 2 15),
    (32, 0x0B86206B, .cpMc 2 3 14),
    (32, 0x1348306B, .cpDec 3 4 13),
    (32, 0x1B0A406B, .subscr 4 5 12),
    (32, 0x2A8E606B, .chinit 6 7 10),
    (32, 0x2380906B, .srel 9 14),
    (32, 0x334004EB, .chq 9 13),
    (32, 0x380E906B, .cpcfg 9 7),
    (32, 0x4300006B, .waitc 12)]

theorem test_decode_engine2 : wordsEngine2.all decodesAs = true := by decide

/-- Compact: words put together from the fields of 03 Tables 3-2 to 3-13, with what they stand for. -/
def wordsCompact1 : List (Nat × Nat × Instr) :=
   [(16, 0x0800, .nopC),
    (16, 0x9000, .retC),
    (16, 0x9800, .texitC),
    (16, 0xA000, .wfeC),
    (16, 0x10D6, .addCX0 3 11),
    (16, 0x1918, .addC 4 12),
    (16, 0x215A, .subC 5 13),
    (16, 0x299C, .andC 6 14),
    (16, 0x31DE, .orC 7 15),
    (16, 0x3A20, .xorC 8 16),
    (16, 0x4262, .addiC 9 17),
    (16, 0x4AA4, .addiCX0 10 18),
    (16, 0x52E6, .slliC 11 19),
    (16, 0x5B28, .srliC 12 20),
    (16, 0x636A, .sraiC 13 21),
    (16, 0x6BAC, .ldDC 14 22),
    (16, 0x73EE, .stDC 15 23),
    (16, 0x7C30, .ldWC 16 24),
    (16, 0x8472, .stWC 17 25),
    (16, 0xADBC, .faddSC 22 30),
    (16, 0xB5FE, .fmulSC 23 31),
    (16, 0x883C, .jrC 30)]

theorem test_decode_compact1 : wordsCompact1.all decodesAs = true := by decide

/-- Words that the spec prints with their instruction: chapters 04, 05. -/
def wordsSpec1 : List (Nat × Nat × Instr) :=
   [(32, 0x004004C9, .gets 9 0x004),
    (32, 0x00029029, .loop 9 1),
    (32, 0x00070809, .addi 16 16 3),
    (32, 0x00008425, .call 8 8),
    (32, 0xC0010883, .div 17 16 0),
    (32, 0xD0010903, .rem 18 16 0),
    (32, 0x20408415, .srai 8 8 1),
    (32, 0x00020C09, .addi 24 0 1),
    (32, 0x10000027, .ret),
    (32, 0xFFFE0489, .addi 9 0 0x7FFF),
    (32, 0x12345297, .lih 5 0x12345),
    (32, 0x20C09495, .srai 9 9 3),
    (32, 0x008614B1, .ld 9 1 16 .d),
    (32, 0x0640062B, .loopi 100 3),
    (32, 0x00020225, .call 0x20 4),
    (32, 0x810620C3, .fmadd 1 2 3 4 .s .rne),
    (32, 0x748620C1, .fcvt 1 2 .d .s .rtz),
    (32, 0x001090C7, .fgetx 1 9 8),
    (32, 0x0800504B, .trap 5),
    (32, 0x2000304B, .texit 3),
    (32, 0x0004C435, .fld 8 12 0 .s),
    (32, 0x000EA68B, .andi 13 10 7),
    (32, 0x0800D447, .fputx 8 13 0),
    (32, 0x0410A541, .fadd 10 10 8 .s .rne)]

theorem test_decode_spec1 : wordsSpec1.all decodesAs = true := by decide

/-- Words that the spec prints with their instruction: chapters 05, 07, 10. -/
def wordsSpec2 : List (Nat × Nat × Instr) :=
   [(32, 0x0C12A541, .fsub 10 10 9 .s .rne),
    (32, 0x0004B537, .fst 10 11 0 .s),
    (32, 0x01136049, .puts 22 0x011),
    (32, 0x1800004B, .tret),
    (32, 0x040411D1, .vadd 3 1 2 .w 0),
    (32, 0x044C5255, .vfmadd 4 5 6 .s 1),
    (32, 0x4C041157, .vfclt 2 1 2 .s 0),
    (32, 0x3C0032D9, .vfrsum 5 3 .s 0),
    (32, 0xBA00115B, .vcvt 2 1 .s .bf .rto 0),
    (32, 0x0200C0DF, .vld 1 12 1 0),
    (32, 0xFEC2B15F, .vst 2 11 0x7F 3),
    (32, 0x040AA261, .vgather 4 10 5 .w 0),
    (32, 0x280024DD, .mpopc 9 2),
    (32, 0x0006904D, .send 9 3),
    (32, 0x0800024D, .recv 4),
    (32, 0x5800404B, .gang 4),
    (32, 0x6000004B, .split),
    (32, 0x2800004B, .wfe),
    (32, 0x3000904B, .sev 9),
    (32, 0x380004CB, .popev 9),
    (32, 0x0460A4B9, .ldG 9 10 8 .d),
    (32, 0xFE52C5B9, .ldAcq 11 12 0x1FC .w .dom),
    (32, 0x006AA2BB, .stRel 5 10 0 .d .pkg),
    (32, 0x0216A4BD, .atomAdd 9 10 11 false .d .die)]

theorem test_decode_spec2 : wordsSpec2.all decodesAs = true := by decide

/-- Words that the spec prints with their instruction: chapters 10, 13, 14, 17. -/
def wordsSpec3 : List (Nat × Nat × Instr) :=
   [(32, 0x4AD6A4BD, .atomCas 9 10 11 true .d .pkg),
    (32, 0x4C1CC53D, .atomCas 10 12 14 false .q .die),
    (32, 0x0200003F, .wait 0 0 2 0),
    (32, 0x0FFF003F, .wait 15 15 15 0),
    (32, 0x6800304B, .fence .sys),
    (32, 0x7000A4CB, .probe 9 10),
    (32, 0x0003CE0F, .xori 28 28 1),
    (32, 0x02CB44BD, .atomAdd 9 20 5 true .d .pkg),
    (32, 0x00BA98A1, .bNe 9 29 10),
    (32, 0x0061403B, .stG 0 20 0 .d),
    (32, 0x4800004B, .commit),
    (32, 0xFFF898A1, .bNe 9 28 0xFFE),
    (32, 0x100410C1, .fmul 1 1 2 .h .rne),
    (32, 0x88001541, .fmvX 10 1 .h),
    (32, 0x9000A1C1, .fmvF 3 10 .h),
    (32, 0x008A4065, .mmaLo 4 5 2 0 .m8m8),
    (32, 0x10CE60E5, .mmaLo 6 7 3 1 .e43e52),
    (32, 0x59128FE7, .mmaHi 8 9 4 31 .bfbf),
    (32, 0x04000469, .mclr 40),
    (32, 0x0840B1E9, .mld 3 11 .bf),
    (32, 0x1740C0E9, .mst 33 12 .bf .rsr),
    (32, 0x18007069, .mcfg 7 0),
    (32, 0x200C1169, .vpackM8 2 1 6 .rne),
    (32, 0x4B0E41E9, .vpackE21 3 4 7 .rsr)]

theorem test_decode_spec3 : wordsSpec3.all decodesAs = true := by decide

/-- Words that the spec prints with their instruction: chapters 17, 18, 19, 20, 21, 22, 24. -/
def wordsSpec4 : List (Nat × Nat × Instr) :=
   [(32, 0x500262E9, .vpackI8 5 6 1 .rne),
    (32, 0x0018D06B, .cp 13 12 0),
    (32, 0x089EE06B, .cpMc 14 15 2),
    (32, 0x10D6A06B, .cpDec 10 11 3),
    (32, 0x186B406B, .subscr 20 21 1),
    (32, 0x2040906B, .srel 9 1),
    (32, 0x281AC06B, .chinit 12 13 0),
    (32, 0x300004EB, .chq 9 0),
    (32, 0x3804706B, .cpcfg 7 2),
    (32, 0x43C0006B, .waitc 15),
    (32, 0x001E004F, .grp 15),
    (32, 0x0020004F, .grp 16),
    (32, 0x080B404F, .rel 20 5),
    (32, 0x100604CF, .grpq 9 3),
    (32, 0x5000004B, .abort),
    (32, 0x1200A495, .srli 9 10 8),
    (32, 0xFFA30221, .bLtu 16 17 0xFF8),
    (32, 0xE0415539, .ldG 10 21 0x1C0 .w),
    (32, 0x008A9821, .bEq 9 5 10),
    (32, 0xC8149483, .divu 9 9 10),
    (32, 0x202D4B83, .xor 23 20 22)]

theorem test_decode_spec4 : wordsSpec4.all decodesAs = true := by decide

/-- The word of 05 Table 5-1 at 0x103C as 03 Table 3-2 and 04 Table 4-1 give it, and as the row prints it (log entry 66). -/
theorem test_decode_row103C : decodesAs (32, 0x000135C7, .fgetx 11 19 0) = true ∧ decodeTableWord 32 0x00013587 = some (.addsl 11 19 0 0) := by decide

/-! ### States that meet the hypotheses of the statements -/


/-- Slot 0 of core 0 about to run the word of `nop`, with the smallest partition: its scratchpad is bytes 4,096 to 8,191 of the pool. -/
def at0 : State := State.reset.withFetchWord 32 0x4B

/-- The same with its slot changed. -/
def slotWith (f : Slot → Slot) : State := onSlot at0 f

/-- The space-01 address of byte `off` of the pool of the core itself. -/
def poolAddr (off : Nat) : Word := BitVec.ofNat 64 (0x40003FF800000000 + off)

/-- x1 holds `v`. -/
def x1Is (v : Word) : State := slotWith fun l => { l with x := [(1, v)] }

/-- x1 and x2 hold values. -/
def x12 (v w : Word) : State := slotWith fun l => { l with x := [(1, v), (2, w)] }

/-- The service slot of core 0. -/
def inService : State := { at0 with cur := ⟨0, 4⟩ }

set_option maxRecDepth 20000

theorem test_meets_IntegerTwoSources : ∃ i len d a b f s, aluRow i = some (len, d, a, b, f) ∧ XReady s a ∧ XReady s b :=
  ⟨.add 31 1 31, _, _, _, _, _, x1Is 5, rfl, by decide, by decide⟩

theorem test_meets_Division : ∃ i d a b f s, divRow i = some (d, a, b, f) ∧ XReady s a ∧ XReady s b ∧ xval s.slot b = 0 :=
  ⟨.div 3 1 2, _, _, _, _, x1Is 5, rfl, by decide, by decide, by decide⟩

theorem test_meets_IntegerOneSource : ∃ i len d a f s, unaryRow i = some (len, d, a, f) ∧ XReady s a :=
  ⟨.abs 3 1, _, _, _, _, x1Is (BitVec.intMin 64), rfl, by decide⟩

theorem test_meets_SelectAndConstants : XReady at0 0 ∧ XReady at0 31 ∧ XReady (x1Is 1) 1 := by decide

theorem test_meets_Branches : ∃ i a b off c s, branchRow i = some (a, b, off, c) ∧ LeadReady s a ∧ LeadReady s b ∧ c (leadX s a) (leadX s b) :=
  ⟨.bLt 1 0 0xFFA, _, _, _, _, x1Is (-1), rfl, by decide, by decide, by decide⟩

theorem test_meets_Branches_untaken : ∃ i a b off c s,
    branchRow i = some (a, b, off, c) ∧ LeadReady s a ∧ LeadReady s b ∧ ¬ c (leadX s a) (leadX s b) :=
  ⟨.bGe 1 0 0xFFA, _, _, _, _, x1Is (-1), rfl, by decide, by decide, by decide⟩

theorem test_meets_Jumps : LeadReady (x1Is 0x1001) 1 := by decide

/-- A slot with these loops at this pc. -/
def looping (o i : Option Loop) (pc : Word) : State := slotWith fun l => { l with outer := o, inner := i, pc := pc }

theorem test_meets_LoopEnds (s : State) (n : Word) (jump : Bool) : GoesTo s (retireTo n jump s) n jump := ⟨rfl, rfl⟩

theorem test_meets_LoopEnds_one :
    (looping none none 0).slot.outer = none ∧ LeavesBody ⟨4, 12, 3⟩ 8 12 ∧ ¬ LeavesBody ⟨4, 12, 3⟩ 8 4 ∧
      (looping (some ⟨4, 12, 1⟩) none 8).slot.inner = none ∧ (12 : Word) = (⟨4, 12, 1⟩ : Loop).stop ∧
      (⟨4, 12, 1⟩ : Loop).cnt.toNat ≤ 1 ∧ 1 < (⟨4, 12, 2⟩ : Loop).cnt.toNat ∧ (8 : Word) ≠ (⟨4, 12, 1⟩ : Loop).stop := by decide

theorem test_meets_LoopEnds_two :
    (looping (some ⟨4, 12, 1⟩) (some ⟨8, 12, 2⟩) 8).slot.inner = some ⟨8, 12, 2⟩ ∧ LeavesBody ⟨8, 12, 2⟩ 8 4 ∧ ¬ LeavesBody ⟨4, 12, 1⟩ 8 4 ∧
      LeavesBody ⟨4, 12, 1⟩ 4 12 ∧ ¬ LeavesBody ⟨8, 12, 2⟩ 4 12 ∧ ¬ LeavesBody ⟨8, 12, 2⟩ 8 8 := by decide

theorem test_meets_Calls : IsCall (.call 0x20 24) 24 0x40 at0 ∧ (24 : BitVec 5).toNat ≤ 24 ∧ at0.slot.wbase + 24 ≤ 65511 ∧
    (spillRoom at0.slot 24 1).isSome = true := ⟨.inl ⟨_, rfl, by decide⟩, by decide, by decide, by decide⟩

theorem test_meets_Calls_full : IsCall (.callr 1 24) 24 0x1000 (x1Is 0x1001) ∧ 65511 < (65488 : Nat) + 24 ∧
    spillRoom at0.slot 65512 1 = none :=
  ⟨.inr ⟨1, rfl, by decide, by decide⟩, by decide, by decide⟩

theorem test_meets_Returns : CanClose at0 ∧ at0.slot.calls = [] ∧ at0.slot.region.calls < [(⟨8, 24⟩ : CallRec)].length := by decide

theorem test_meets_Loops : IsLoop (.loop 1 1) 0 1 (x1Is 0) ∧ IsLoop (.loop 1 1) 7 1 (x1Is 7) ∧ IsLoop (.loopi 0xFFF 0) 0xFFF 0 at0 ∧
    (looping (some ⟨4, 12, 1⟩) (some ⟨8, 12, 2⟩) 8).slot.inner.isSome = true ∧ at0.slot.inner = none ∧ at0.slot.outer = none :=
  ⟨.inl ⟨1, rfl, by decide, by decide⟩, .inl ⟨1, rfl, by decide, by decide⟩, .inr ⟨_, rfl, by decide⟩, by decide, by decide, by decide⟩

theorem test_meets_LocalLoads : ∃ i len d a imm w off s, xLoadRow i = some (len, d, a, imm, w) ∧ XReady s a ∧
    LocalOk s (xval s.slot a + BitVec.ofInt 64 imm) w false off :=
  ⟨.ld 3 1 0x1FF8 .d, _, _, _, _, _, 8184, x1Is (poolAddr 8192), rfl, by decide, by decide⟩

/-- The same across a boundary of 64 bytes: before its first part, and with that part read. -/
theorem test_meets_LocalLoads_parts : LocalOk (x1Is (poolAddr 4159)) (poolAddr 4159 + BitVec.ofInt 64 (0 : BitVec 13).toInt) 2 false 4159 ∧
    64 < 4159 % 64 + 2 ∧ (x1Is (poolAddr 4159)).slot.half = none ∧ 4159 = bits (poolAddr 4159).toNat 0 19 ∧
    (slotWith fun l => { l with half := some ([7], false) }).slot.half = some ([7], false) := by decide

theorem test_meets_LocalStores : StoreForm (.st 0 1 0 .d) (x1Is (poolAddr 4096)) 4 1 0 8 0 ∧
    StoreForm (.fst 0 1 0 .d) (x1Is (poolAddr 4096)) 4 1 0 8 0 ∧ StoreForm (.stDC 0 1) (x1Is (poolAddr 4096)) 2 1 0 8 0 ∧
    StoreForm (.stWC 0 1) (x1Is (poolAddr 4096)) 2 1 0 4 0 ∧ XReady (x1Is (poolAddr 4096)) 1 ∧
    LocalOk (x1Is (poolAddr 4096)) (poolAddr 4096 + BitVec.ofInt 64 0) 8 true 4096 :=
  ⟨.inl ⟨_, _, .d, rfl, rfl, by decide, rfl, by decide, by decide⟩, .inr (.inl ⟨_, _, .d, rfl, rfl, by decide, rfl, by decide⟩),
   .inr (.inr (.inl ⟨_, rfl, rfl, rfl, rfl, by decide, by decide⟩)), .inr (.inr (.inr ⟨_, rfl, rfl, rfl, rfl, by decide, by decide⟩)),
   by decide, by decide⟩

theorem test_meets_LocalRights : XReady (x1Is (poolAddr 8185)) 1 ∧ FirstLoad (x1Is (poolAddr 8185)) (poolAddr 8185 + BitVec.ofInt 64 0) 8 ∧
    localOff (x1Is (poolAddr 8185)) (poolAddr 8185 + BitVec.ofInt 64 0) 8 = none := by decide

/-- The last doubleword of the scratchpad under a lock, in a channel's range, in a poisoned granule, and with a copy that has yet to read it. -/
def lastWord (f : Slot → Slot) (l : List Lock) (p : SMap Bool) (c : List Copy) : State :=
  modCore { slotWith (fun l => f { l with x := [(1, poolAddr 8184)] }) with mem := { poison := p } } 0 fun k => { k with locks := l, copies := c }

/-- Its granule as poison is listed. -/
def lastGranule : SMap Bool := [(poolKey 0 8184 / 64, true)]

/-- A channel with that range in a state. -/
def lastChannel (st : ChState) (l : Slot) : Slot := { l with chans := [(15, { base := 8128, length := 64, state := st, expected := 64 })] }

/-- A copy of that word. -/
def lastCopy : Copy := { id := 9, slot := 0, form := .cp, ch := 15, dst := poolAddr 4096, src := poolAddr 8184, geom := { xlen := 8 } }

theorem test_meets_LocalChecks : XReady (x1Is (poolAddr 8184)) 1 ∧ FirstLoad (x1Is (poolAddr 8184)) (poolAddr 8184) 8 ∧
    localOff (x1Is (poolAddr 8184)) (poolAddr 8184) 8 = some 8184 ∧
    memBlocked (slotWith fun l => { l with pending := [{ req := 0, dst := none, ea := 0, land := .load 8, blocks := true }] }) = true ∧
    noEntries (slotWith fun l => { l with pending := (List.range 256).map fun k => { req := k, dst := none, ea := 0, land := .load 8, blocks := false } }) 1 = true ∧
    (∀ b : Bool, lockHit (lastWord id [⟨9, 0, 8188, 8192, !b⟩] [] []) 8184 8 b = true) ∧
    lockHit (lastWord id [] lastGranule [lastCopy]) 8184 8 false = false ∧ lockHit (lastWord id [] lastGranule [lastCopy]) 8184 8 true = false ∧
    chansView (lastChannel .faulted at0.slot) 8184 8 = .faulted 15 ∧ chansView (lastChannel .active at0.slot) 8184 8 = .wait ∧
    chansView at0.slot 8184 8 = .pass ∧ poolPoison (lastWord id [] lastGranule []) 8184 8 = true ∧
    storePoison (lastWord id [] lastGranule []) 8184 8 = true ∧ storePoison (lastWord id [] [] [lastCopy]) 8184 8 = false ∧
    copySourceBusy (lastWord id [] [] [lastCopy]) 8184 8 = true := by decide +kernel

theorem test_meets_FloatRounding : ∃ i s r, fpRow s i = some r ∧ r.Ready s ∧ r.draws = 1 :=
  ⟨.fcvtFromI 3 1 .s .rsr, x1Is 5, _, rfl, by unfold Row.Ready; decide, rfl⟩

theorem test_meets_RoundIsCorrect : (65535 : Nat) < 2 ^ 16 ∧ ratOf (ftypeFmt .s) (fround (ftypeFmt .s) .rtz 65535 (.fin true 1 0)) = some (-1) ∧
    ratOf (ftypeFmt .s) 0xBF800000 = some (-1) := by
  have h : fround (ftypeFmt .s) .rtz 65535 (.fin true 1 0) = 0xBF800000 := by decide
  have d : fdecode (ftypeFmt .s) 0xBF800000 = .fin true 8388608 (-23) := by decide
  rw [h]
  simp only [ratOf, d]
  norm_num

/-- 1 over 2, and the special operands of quotient and root. -/
theorem test_meets_QuotientAndRoot : ratOf (ftypeFmt .h) 0x3C00 = some 1 ∧ ratOf (ftypeFmt .h) 0x4000 = some 2 ∧ ratOf (ftypeFmt .h) 0xBC00 = some (-1) ∧
    ratOf (ftypeFmt .h) 0x8000 = some 0 ∧ signBit (ftypeFmt .h) 0x3C00 = false ∧ signBit (ftypeFmt .h) 0x8000 = true ∧ isNaN (ftypeFmt .h) 0x7E00 = true ∧
    fdecode (ftypeFmt .h) 0x7C00 = .inf false ∧ fdecode (ftypeFmt .h) 0xFC00 = .inf true := by
  have a : fdecode (ftypeFmt .h) 0x3C00 = .fin false 1024 (-10) := by decide
  have b : fdecode (ftypeFmt .h) 0x4000 = .fin false 1024 (-9) := by decide
  have c : fdecode (ftypeFmt .h) 0xBC00 = .fin true 1024 (-10) := by decide
  have d : fdecode (ftypeFmt .h) 0x8000 = .fin true 0 (-24) := by decide
  refine ⟨?_, ?_, ?_, ?_, by decide, by decide, by decide, by decide, by decide⟩ <;> simp only [ratOf, a, b, c, d] <;> norm_num

theorem test_meets_FloatWithoutRounding : ∃ i s r, fxRow s i = some r ∧ r.Ready s ∧ r.need = [1] :=
  ⟨.fmvF 3 1 .s, x1Is 5, _, rfl, by unfold Row.Ready; decide, rfl⟩

theorem test_meets_ComparesAreNumeric : isNaN (ftypeFmt .h) 0x7E00 = true ∧ ratOf (ftypeFmt .h) 0 = some 0 ∧ ratOf (ftypeFmt .h) 0x8000 = some 0 := by
  have d : fdecode (ftypeFmt .h) 0 = .fin false 0 (-24) := by decide
  have e : fdecode (ftypeFmt .h) 0x8000 = .fin true 0 (-24) := by decide
  refine ⟨by decide, ?_, ?_⟩ <;> simp [ratOf, d, e]

theorem test_meets_IndexedRegisters : IndexIs (x1Is (-7)) 1 7 0 ∧ IndexIs (x1Is 24) 1 7 31 ∧ XReady (x1Is 24) 31 ∧
    31 < (BitVec.ofNat 64 (7 : BitVec 5).toNat + xval (x1Is 25).slot 1).toNat := by unfold IndexIs; decide

/-- A record and a capsule of number 0, whose slot is slot 0 of core 0. -/
def recA (trapEntry : Nat) : Record :=
  { magic := 0, version := 1, flags := 0, owner := 0, keyHandle := 0, seqWord := 0, seqExp := 0, code := 0x1000, entry := 0
    trapEntry := trapEntry, overflow := 0x40, nExt := 1, nSucc := 0, digest := 0, tiles := (1, 1, 1), tileDims := (1, 1, 1)
    tensor := (1, 1, 1), threads := 0, gang := 8, priority := 0, policy := 0, part := 0x01010101, args := [], succs := []
    park := 0xFFFF, faultq := 0xFFFF, measure := 0, chain := 0, nonce := [], tag := [], extents := [], sealed := [], bytes := [] }

def capA (trapEntry : Nat) : Capsule :=
  { info := recA trapEntry, payload := ⟨0, 0, 0, 0, 0, []⟩, source := 0, cookie := 0, handle := 0, recDigest := 0, world := 0, pos := 1 }

/-- The state with that capsule. -/
def withCapsule (s : State) (trapEntry : Nat) : State := { s with hub := { s.hub with capsules := [(0, capA trapEntry)] } }

/-- Two members of a gang, the second in hand. -/
def inGang : State :=
  { slotWith (fun l => { l with gangPos := 1, gangSize := 2 }) with latch := [(⟨1, 0⟩, {}), (⟨0, 0⟩, {})] }

/-- Device memory, from window address 0 on, with these rights. -/
def windowed (rights : BitVec 8) (target : Nat) (f : Slot → Slot) : State :=
  modCore (slotWith f) 0 fun k => { k with ranges := [(0, [{ base := 0, length := 64, cls := 0, target := target, rights := rights, keysel := 0, key := .clear }])] }

/-- x1 holds `v`, and x2 holds `w`. -/
def putsX12 (v w : Word) (l : Slot) : Slot := { l with x := [(1, v), (2, w)] }

theorem test_meets_VectorLanes : ∃ i s r, vintRow s i = some r ∧ (∀ n ∈ r.need, XReady s n) ∧ r.need = [1] :=
  ⟨.vdup 3 1 .b 7, x1Is 5, _, rfl, by decide, rfl⟩

theorem test_meets_VectorFloat : ∃ i s r, vfpRow s i = some r := ⟨.vfmadd 3 1 3 .h 7, at0, _, rfl⟩

theorem test_meets_Masks : (∃ i s d m n c, vcmpRow s i = some (d, m, n, c) ∧ n = 64) ∧ (∃ i s r, vmaskRow s i = some r ∧ r.Ready s) :=
  ⟨⟨.vcltu 1 2 3 .b 0, at0, _, _, _, _, rfl, rfl⟩, ⟨.mfromx 0 1, x1Is 5, _, rfl, by unfold Row.Ready; decide⟩⟩

theorem test_meets_Permutes : LeadReady inGang 2 ∧ (leadX inGang 2).toNat % gangLanes (ibits .w) inGang / (512 / ibits .w) ≠ inGang.slot.gangPos ∧
    LeadReady (x12 5 15) 2 ∧ (leadX (x12 5 15) 2).toNat % gangLanes (ibits .w) (x12 5 15) / (512 / ibits .w) = (x12 5 15).slot.gangPos := by
  decide

theorem test_meets_Reductions : (∃ i d a ty m f unit, vredRow i = some (d, a, ty, m, f, unit) ∧ gangLanes (ibits ty) inGang = 2 ^ 7) ∧
    (∃ i d a ty m f unit, vfredRow i = some (d, a, ty, m, f, unit) ∧ gangLanes (fwidth (ftypeFmt ty)) inGang = 2 ^ 4) :=
  ⟨⟨.vrsum 1 2 .b 0, _, _, _, _, _, _, rfl, by decide⟩, ⟨.vfrmin 1 2 .d 0, _, _, _, _, _, _, rfl, by decide⟩⟩

/-- The masked granule at the end of the scratchpad: m1 names its bytes 0 and 63. -/
def lastBlock : State := slotWith fun l => { l with x := [(1, poolAddr 8128)], m := [(1, 0x8000000000000001)] }

theorem test_meets_VectorBlocks : XReady lastBlock 1 ∧ (xval lastBlock.slot 1 + BitVec.ofInt 64 (64 * (0 : BitVec 7).toInt)).toNat % 64 = 0 ∧
    localOff lastBlock (poolAddr 8128) 64 = some 8128 ∧ SegsOk lastBlock (blockOf lastBlock (poolAddr 8128) 8128 1) 1 false false ∧
    SegsOk lastBlock (blockOf lastBlock (poolAddr 8128) 8128 1) 1 true (mval lastBlock.slot 1 == BitVec.allOnes 64) ∧
    SegsOk lastBlock (blockOf lastBlock (poolAddr 8128) 8128 0) 1 true true := by decide

theorem test_meets_GatherScatter : XReady lastBlock 1 ∧ LanesOk lastBlock 1 2 .d 1 ∧ SegsOk lastBlock (lanePieces lastBlock 1 2 .d 1) (lanePieces lastBlock 1 2 .d 1).length false false ∧
    SegsOk lastBlock (lanePieces lastBlock 1 2 .d 1) (lanePieces lastBlock 1 2 .d 1).length true false := by decide

/-- The first and last byte of the block, with the phases' findings on its two pieces. -/
theorem test_meets_VectorBlocks_traps : (xval (x1Is (poolAddr 8129)).slot 1 + BitVec.ofInt 64 (64 * (0 : BitVec 7).toInt)).toNat % 64 ≠ 0 ∧
    (poolAddr 8192).toNat % 64 = 0 ∧ localOff (x1Is (poolAddr 8192)) (poolAddr 8192) 64 = none ∧
    (∀ b : Bool, (blockOf lastBlock (poolAddr 8128) 8128 1).map (fun g => lockHit (lastWord id [⟨9, 0, 8191, 8192, !b⟩] [] []) g.off g.n b) = [false, true]) ∧
    (blockOf lastBlock (poolAddr 8128) 8128 1).map (fun g => chansView (lastChannel .faulted at0.slot) g.off g.n) = [.faulted 15, .faulted 15] ∧
    (blockOf lastBlock (poolAddr 8128) 8128 1).map (fun g => chansView { at0.slot with chans := [(15, { base := 8191, length := 1, state := .active })] } g.off g.n) =
      [.pass, .wait] ∧
    (blockOf lastBlock (poolAddr 8128) 8128 1).map (fun g => poolPoison (lastWord id [] lastGranule []) g.off g.n) = [true, true] ∧
    (blockOf lastBlock (poolAddr 8128) 8128 1).map (fun g => storePoison (lastWord id [] lastGranule []) g.off g.n) = [true, true] ∧
    (blockOf lastBlock (poolAddr 8128) 8128 1).map (fun g => copySourceBusy (lastWord id [] [] [lastCopy]) g.off g.n) = [false, true] := by decide +kernel

/-- Lanes that are active, a base that is odd, and an index that leads beyond the scratchpad. -/
theorem test_meets_GatherScatter_traps : laneOn lastBlock .d 1 0 ∧ ¬ laneOn lastBlock .d 1 1 ∧ laneOn lastBlock .b 1 63 ∧
    laneOn (x1Is (poolAddr 8129)) .d 0 7 ∧ (laneEa (x1Is (poolAddr 8129)) 1 2 .d 7).toNat % (ibits .d / 8) ≠ 0 ∧
    localOff (onSlot lastBlock fun l => { l with v := [(2, 64)] }) (laneEa (onSlot lastBlock fun l => { l with v := [(2, 64)] }) 1 2 .d 0) (ibits .d / 8) = none ∧
    (laneEa (onSlot lastBlock fun l => { l with v := [(2, 64)] }) 1 2 .d 0).toNat % (ibits .d / 8) = 0 := by decide

theorem test_meets_TrapEntry : at0.cur.slot < 4 ∧ trapActive at0.slot = false ∧ capOf (withCapsule at0 0x80) = some (capA 0x80) ∧
    (capA 0x80).info.trapEntry ≠ 0xFFFFFFFF := by decide

/-- A slot that handles a trap. -/
def handling : State := slotWith fun l => { l with trCause := 0x80000003, x := [(1, 0x2001)] }

theorem test_meets_TrapWithoutHandler : (withCapsule handling 0x80).cur.slot < 4 ∧ gangWaiters (withCapsule handling 0x80) = [] ∧
    (withCapsule handling 0x80).slot.capsule = some 0 ∧ capAt (withCapsule handling 0x80) 0 = some (capA 0x80) ∧
    trapActive (withCapsule handling 0x80).slot = true ∧ (capA 0xFFFFFFFF).info.trapEntry = 0xFFFFFFFF := by decide

theorem test_meets_TrapInServiceSlot : inService.cur.slot = 4 ∧ inService.slot.capsule = some 0 ∧
    capAt (withCapsule inService 0x80) 0 = some (capA 0x80) := by decide

theorem test_meets_TrapInstructions : trapRow (.illegalInstruction 0xFFFFFFFF) = some (.illegal, 0xFFFFFFFF) := by decide

/-- An instruction of each shape of reading: the first source waited for; the last one marked, and none before it. -/
theorem test_meets_PoisonTraps :
    (∀ i ∈ [Instr.add 1 0 31, .div 1 0 31, .abs 1 31, .csel 1 0 0 31, .ld 1 31 0 .d, .st 0 31 0 .d, .stRel 0 31 0 .d .sys, .ldAcq 1 31 0 .d .sys,
        .atomAdd 1 0 31 true .d .die, .atomCas 31 0 2 false .d .die, .atomFaddS 1 0 31 false .die, .fmvF 1 31 .s, .xputx 0 31 2, .vdup 1 31 .b 0,
        .vgather 1 31 2 .d 0, .probe 1 31, .send 31 2, .cp 0 31 3, .puts 31 0x032, .bEq 0 31 4, .jr 31, .vext 1 2 31 .d, .mmaLo 0 31 0 0 .m8m8,
        .mst 0 31 .bf .rne], ∃ rs k, sources (slotWith fun l => { l with xPoison := [(31, 0x40)] }) i = some rs ∧ rs[k]? = some 31 ∧
          (∀ q ∈ rs, ¬ xWaits (slotWith fun l => { l with xPoison := [(31, 0x40)] }) q) ∧ ∀ q ∈ rs.take k, q = 0 ∨ q = 2) ∧
    sfind (slotWith fun l => { l with xPoison := [(31, 0x40)] }).slot.xPoison (xKey at0.slot 31) = some 0x40 ∧
    sfind (slotWith fun l => { l with xPoison := [(31, 0x40)] }).slot.xPoison (xKey at0.slot 2) = none ∧
    xWaits (slotWith fun l => { l with pending := [{ req := 0, dst := some 31, ea := 0, land := .load 8, blocks := false }] }) 31 := by
  refine ⟨?_, by decide, by decide, by decide⟩
  have h : ∀ i ∈ [Instr.add 1 0 31, .div 1 0 31, .abs 1 31, .csel 1 0 0 31, .ld 1 31 0 .d, .st 0 31 0 .d, .stRel 0 31 0 .d .sys, .ldAcq 1 31 0 .d .sys,
        .atomAdd 1 0 31 true .d .die, .atomCas 31 0 2 false .d .die, .atomFaddS 1 0 31 false .die, .fmvF 1 31 .s, .xputx 0 31 2, .vdup 1 31 .b 0,
        .vgather 1 31 2 .d 0, .probe 1 31, .send 31 2, .cp 0 31 3, .puts 31 0x032, .bEq 0 31 4, .jr 31, .vext 1 2 31 .d, .mmaLo 0 31 0 0 .m8m8,
        .mst 0 31 .bf .rne], ∃ rs, sources (slotWith fun l => { l with xPoison := [(31, 0x40)] }) i = some rs ∧ rs[rs.length - 1]? = some 31 ∧
          (∀ q ∈ rs, ¬ xWaits (slotWith fun l => { l with xPoison := [(31, 0x40)] }) q) ∧ ∀ q ∈ rs.take (rs.length - 1), q = 0 ∨ q = 2 := by
    repeat refine List.forall_mem_cons.2 ⟨⟨_, rfl, by decide, by decide, by decide⟩, ?_⟩
    exact nofun
  exact fun i hi => (h i hi).imp fun rs r => ⟨_, r⟩

theorem test_meets_SpecialRegisters : (0x019, (0x2040 : Word)) ∈ specials at0 ∧ (∀ p ∈ specials at0, p.1 ≠ 0x00F) ∧
    XReady handling 1 ∧ trapActive handling.slot = true ∧ LeadReady handling 1 ∧ trapActive at0.slot = false := by decide

theorem test_meets_ReturnFromTrap : trapActive handling.slot = true ∧ trapActive at0.slot = false := by decide

theorem test_meets_TaskExit : gangWaiters (withCapsule at0 0x80) = [] ∧ CanClose (withCapsule at0 0x80) ∧ (0x7FFF : BitVec 15) ≠ 0 ∧
    (withCapsule at0 0x80).slot.capsule = some 0 ∧ capAt (withCapsule at0 0x80) 0 = some (capA 0x80) ∧
    gangWaiters (withCapsule inService 0x80) = [] ∧ CanClose (withCapsule inService 0x80) := by decide

/-- A slot that holds a write. -/
def holding : State := slotWith fun l => { l with hold := [.sev 3] }

theorem test_meets_Regions : CanClose at0 ∧ verdictPending holding = false ∧ holding.slot.hold ≠ [] := by decide

/-- Slot 0 of core 1 at `gang 2` of the same capsule. -/
def waiterAt (r : Run) : State :=
  { withCapsule at0 0x80 with others := [(5, { run := r, capsule := some 0 })] }

theorem test_meets_GangForms : MayForm (waiterAt .running) 2 ∧ CanClose (waiterAt .running) ∧ gangWaiters (waiterAt .running) = [] ∧
    (∃ i ∈ gangBlock (waiterAt .running) 2, i ≠ (waiterAt .running).cur ∧ (getSlot (waiterAt .running) i).run ≠ .atGang 2) ∧
    MayForm (waiterAt (.atGang 2)) 2 ∧ CanClose (waiterAt (.atGang 2)) ∧
    ∀ i ∈ gangBlock (waiterAt (.atGang 2)) 2, i ≠ (waiterAt (.atGang 2)).cur →
      (getSlot (waiterAt (.atGang 2)) i).run = .atGang 2 ∧ (getSlot (waiterAt (.atGang 2)) i).wbase = (waiterAt (.atGang 2)).slot.wbase :=
  ⟨⟨⟨_, rfl, by decide⟩, by decide, by decide, by decide, by decide⟩, by decide, by decide, by decide,
    ⟨⟨_, rfl, by decide⟩, by decide, by decide, by decide, by decide⟩, by decide, by decide⟩

/-- The waiting slot has another window base, or waits for a gang of four. -/
def otherWaiter (n b : Nat) : State := { waiterAt (.atGang n) with others := [(5, { run := .atGang n, capsule := some 0, wbase := b })] }

theorem test_meets_GangFails :
    (let s := otherWaiter 2 16
     MayForm s 2 ∧ CanClose s ∧ capOf s = some (capA 0x80) ∧ (capA 0x80).info.trapEntry ≠ 0xFFFFFFFF ∧
      (∀ i ∈ gangBlock s 2, trapActive (getSlot s i) = false ∧ (getSlot s i).gangSize = 1 ∧ (i ≠ s.cur → (getSlot s i).run = .atGang 2)) ∧
      ∃ i ∈ gangBlock s 2, (getSlot s i).wbase ≠ s.slot.wbase) ∧
    (let s := otherWaiter 4 0
     MayForm s 2 ∧ CanClose s ∧ ⟨1, 0⟩ ∈ gangWaiters s ∧ (getSlot s ⟨1, 0⟩).run = .atGang 4 ∧ (4 : Nat) ≠ 2 ∧
      trapActive (getSlot s ⟨1, 0⟩) = false ∧ (getSlot s ⟨1, 0⟩).gangSize = 1) :=
  ⟨⟨⟨⟨_, rfl, by decide⟩, by decide, by decide, by decide, by decide⟩, by decide, by decide, by decide, by decide, by decide⟩,
    ⟨⟨⟨_, rfl, by decide⟩, by decide, by decide, by decide, by decide⟩, by decide, by decide, by decide, by decide, by decide, by decide⟩⟩

/-- One state for each value at issue: a small GANG field, a member, a loop that is open, a member that has ended, a service slot. -/
theorem test_meets_GangTraps :
    let s := waiterAt .running
    let cap := { capA 0x80 with info := { recA 0x80 with gang := 4 } }
    let u := { withCapsule inService 0x80 with others := [(0, at0.slot)] }
    capOf { s with hub := { s.hub with capsules := [(0, cap)] } } = some cap ∧ cap.info.gang < 8 ∧ capOf s = some (capA 0x80) ∧
      (capA 0x80).info.gang = 8 ∧ (onSlot s fun l => { l with gangSize := 2 }).slot.gangSize ≠ 1 ∧
      (onSlot s fun l => { l with outer := some ⟨0, 4, 1⟩ }).slot.outer ≠ none ∧ s.slot.gangSize = 1 ∧ s.slot.outer = none ∧
      (∃ i ∈ gangBlock (waiterAt .exited) 2, MemberEnded (waiterAt .exited) i) ∧
      (∀ i ∈ gangBlock u 2, ¬ MemberEnded u i) ∧ u.cur.slot = 4 ∧ u.slot.gangSize = 1 ∧ u.slot.outer = none ∧ capOf u = some (capA 0x80) := by
  decide

theorem test_meets_GangSplits : at0.slot.gangSize = 1 ∧ inGang.slot.gangSize ≠ 1 ∧ CanClose inGang := by decide

theorem test_meets_Events : CanClose at0 ∧ latchesSet at0 = false ∧ latchesSet (slotWith fun l => { l with latchBit := true }) = true ∧
    at0.slot.evq = [] ∧ (pushEvent at0.slot ⟨0, 4096, 15⟩).evq = ⟨0, 4096, 15⟩ :: [] := by decide

theorem test_meets_HeldMessages : XReady at0 1 ∧ verdictPending at0 = false ∧ holdUsed at0.slot + 80 ≤ 4096 * partHold at0.slot ∧
    4096 * partHold (slotWith fun l => { l with part := 0x00010101 }).slot < holdUsed at0.slot + 16 := by decide

theorem test_meets_Receives : CanClose at0 ∧ nextMessage at0 = none ∧ at0.cur.slot ≠ 4 ∧ (getSlot at0 ⟨0, 4⟩).serves ≠ some (0, 0) ∧
    (slotWith fun l => { l with inbox := [7] }).slot.inbox = 7 :: [] ∧ inService.cur.slot = 4 ∧
    nextMessage (modCore { inService with slot := { inService.slot with serves := some (2, 5) } } 0 fun k => { k with staged := [⟨2, 4, 8⟩, ⟨2, 5, 9⟩] }) = some 9 := by
  decide

/-- A slot that awaits a load. -/
def loading : State := slotWith fun l => { l with pending := [{ req := 0, dst := some 3, ea := 0, land := .load 8, blocks := false }] }

theorem test_meets_FencesAndWaits : relPassed at0 .sys = true ∧ relPassed loading .die = false ∧
    (outLd at0 ≤ 0 ∧ outSt at0 ≤ 0 ∧ outCp at0 ≤ 0 ∧ outMx at0 ≤ 0) ∧ ¬ (outLd loading ≤ (0 : BitVec 4).toNat) := by decide

/-- The core's own scratchpad, its last byte and the one behind it, and an address whose reserved bits are not 0. -/
theorem test_meets_Probes_sram : spaceOf (poolAddr 8191) = 1 ∧ (x1Is 0).slot.capsule = some 0 ∧ namedCore (poolAddr 8191) 0 = 0 ∧
    sramFieldsOk (poolAddr 8191) = true ∧ scratchHolder (x1Is 0) 0 0 8191 1 = some 0 ∧ scratchHolder (x1Is 0) 0 0 8192 1 = none ∧
    sramFieldsOk (poolAddr 8191 + 0x80000) = false := by decide

theorem test_meets_Probes : XReady (x1Is 63) 1 ∧ spaceOf (xval (x1Is 63).slot 1) = 0 ∧ (rangeAt (rangesOf (x1Is 63)) 63).isSome = true ∧
    rangeAt (rangesOf (x1Is 64)) 64 = none ∧ 2 ≤ spaceOf (0x8000000000000000 : Word) := by decide

theorem test_meets_GroupSelection : (16 : BitVec 5).toNat ≤ 16 ∧ at0.cur.slot ≠ 4 ∧ inService.cur.slot = 4 := by decide

/-- Group 15 is selected, and x1 and x2 hold values. -/
def grouped (v w : Word) : State := windowed 0x0F 0 fun l => { putsX12 v w l with group := some 15 }

theorem test_meets_CountedRelease : XReady (grouped 56 1) 1 ∧ XReady (grouped 56 1) 2 ∧ at0.slot.group = none ∧ (grouped 56 1).slot.group = some 15 ∧
    (xval (grouped 0 (BitVec.intMin 64)).slot 2).getLsbD 63 = true ∧ (xval (grouped 56 1).slot 2).getLsbD 63 = false ∧
    resolve (grouped 56 1) 56 8 .store = .ok (.mem 0 56 .clear) ∧ (xval (grouped 56 1).slot 1).toNat % 8 = 0 ∧
    flagPlaceOk (grouped 56 1) (.mem 0 56 .clear) = true ∧
    groupOk (groupView (grouped 56 1) 15) (bindKey (grouped 56 1) (.mem 0 56 .clear)) 0 = true ∧ verdictPending (grouped 56 1) = false ∧
    holdUsed (grouped 56 1).slot + 16 ≤ 4096 * partHold (grouped 56 1).slot := by
  refine ⟨by decide, by decide, by decide, by decide, by decide, by decide, rfl, by decide, by decide, ?_, by decide, by decide⟩
  rfl

theorem test_meets_GlobalLoads : ∃ i d a imm w acq s, loadRow i = some (d, a, imm, w, acq) ∧ XReady s a ∧ memBlocked s = false ∧
    noEntries s 1 = false ∧ resolve s (xval s.slot a + BitVec.ofInt 64 imm) w .load = .error (.extent, 0x39) :=
  ⟨.ldAcq 3 1 0x1FF .d .sys, _, _, _, _, _, x1Is 58, rfl, by decide, by decide, by decide, rfl⟩

/-- The last doubleword of this core's scratchpad. -/
theorem test_meets_GlobalLoads_pool : resolve (x1Is (poolAddr 8184)) (poolAddr 8184) 8 .load = .ok (.pool 0 8184) ∧
    lockHit (x1Is (poolAddr 8184)) 8184 8 false = false ∧ chansView (x1Is (poolAddr 8184)).slot 8184 8 = .pass ∧
    poolPoison (x1Is (poolAddr 8184)) 8184 8 = false := ⟨rfl, by decide, by decide, by decide⟩

/-- Memory of the own die and of die 1, and a poisoned granule. -/
theorem test_meets_GlobalLoads_memory : resolve (windowed 1 0 id) 56 8 .load = .ok (.mem 0 56 .clear) ∧
    sameDie (windowed 1 0 id) (.mem 0 56 .clear) = true ∧ (windowed 1 0 id).mem.poisoned (memKey 0 56) = false ∧
    ownByte (windowed 1 0 id) (0, 56) = none ∧
    ({ windowed 1 0 id with mem := { poison := [(0, true)] } } : State).mem.poisoned (memKey 0 56) = true ∧
    resolve (windowed 1 0x2000000000 id) 0 1 .load = .ok (.mem 0 0x2000000000 .clear) ∧
    sameDie (windowed 1 0x2000000000 id) (.mem 0 0x2000000000 .clear) = false ∧ loadEntries (windowed 1 0x2000000000 id) 0 < 256 := by
  refine ⟨rfl, by decide, by decide, by decide, by decide, rfl, by decide, by decide⟩

/-- Memory of the own die at addresses 60 to 67: before the first part, and with it read. -/
theorem test_meets_GlobalLoads_parts : resolve (windowed 1 60 id) 0 8 .load = .ok (.mem 0 60 .clear) ∧ noEntries (windowed 1 60 id) 1 = false ∧
    (placeAddr (.mem 0 60 .clear)).2 % 64 + 8 = 68 ∧ (windowed 1 60 id).slot.half = none ∧
    (windowed 1 60 fun l => { l with half := some ([1, 2, 3, 4], true) }).slot.half = some ([1, 2, 3, 4], true) :=
  ⟨rfl, by decide, by decide, by decide, by decide⟩

/-- An acquire of the die is out: it holds what is on the die, and nothing of die 1. -/
theorem test_meets_GlobalLoads_waits : let s := slotWith fun l => { l with pending := [{ req := 0, dst := none, ea := 0, land := .load 8, blocks := true, reach := .die }] }
    placeWaits s (.mem 0 56 .clear) 8 .load = true ∧ placeWaits s (.pool s.cur.core 8184) 8 .load = true ∧
      placeWaits s (.mem 0 0x2000000000 .clear) 8 .load = false ∧ placeWaits at0 (.mem 0 56 .clear) 8 .load = false := by decide

/-- The schedule performs a load of memory of the own die ahead, or has, or lets one be performed later; the slot holds a write that supplies it. -/
theorem test_meets_GlobalLoads_early : let s := { windowed 1 0 (putsX12 0 0) with arg := { canRead := true, len := 8 } }
    let e : EarlyLoad := ⟨0, [1, 2, 3, 4, 5, 6, 7, 8], true⟩
    focus s s.arg.slot = s ∧ resolve s 0 8 .load = .ok (.mem 0 0 .clear) ∧ (getSlot s s.arg.slot).run = .running ∧ ¬ OwnsByte s (.mem 0 0 .clear) 8 ∧
      (getSlot s s.arg.slot).gangSize = 1 ∧ partBad s (.mem 0 0 .clear) 0 8 = false ∧ placeWaits s (.mem 0 0 .clear) 8 .load = false ∧
      XReady s 1 ∧ noEntries s 1 = false ∧ secondPart s (placeAddr (.mem 0 0 .clear)).2 8 = false ∧ NoEarly s 0 8 none ∧
      s.late.headD false = false ∧ ({ s with late := [true] } : State).late.headD false = true ∧
      ((windowed 1 0 fun l => { l with early := [e] }).slot.early.find? fun e => e.addr == 0 && e.bytes.length == 8) = some e ∧
      OwnsByte (windowed 3 0 fun l => { l with hold := [.store (.mem 0 4 .clear) 4 [1] none none] }) (.mem 0 0 .clear) 8 := by
  refine ⟨rfl, rfl, ?_⟩
  decide

/-- Host memory whose page is not translated, is refused, and is there. -/
def hostPage (t : SMap Translation) : State :=
  let s := modCore (slotWith (putsX12 0 5)) 0 fun k =>
    { k with ranges := [(0, [{ base := 0, length := 64, cls := 2, target := 4096, rights := 0x0F, keysel := 0, key := .clear }])] }
  { s with hub := { s.hub with run := true, atc := t } }

theorem test_meets_GlobalLoads_host : resolve (hostPage []) 0 8 .load = .ok (.mem 2 4096 .clear) ∧ atsView (hostPage []) .load 4096 8 = .missing ∧
    atsView (hostPage [(1, ⟨none, false, false⟩)]) .load 4096 8 = .refused ∧ atsView (hostPage [(1, ⟨some 7, true, true⟩)]) .load 4096 8 = .ready ∧
    resolve (hostPage []) 0 8 .store = .ok (.mem 2 4096 .clear) ∧ atsView (hostPage [(1, ⟨some 7, true, false⟩)]) .store 4096 8 = .refused ∧
    resolve (hostPage []) 0 8 .atomic = .ok (.mem 2 4096 .clear) ∧ atsView (hostPage [(1, ⟨some 7, true, true⟩)]) .atomic 4096 8 = .ready :=
  ⟨rfl, by decide, by decide, by decide, rfl, by decide, rfl, by decide⟩

/-- Memory of die 1 is performed in units of 32 bytes, memory of the own die in units of 64. -/
theorem test_meets_GlobalLoads_unit : UnitIs at0 ⟨0, 0⟩ (.mem 0 0x2000000000 .clear) 8 .load 32 ∧ UnitIs at0 ⟨0, 0⟩ (.mem 0 0 .clear) 8 .load 64 ∧
    UnitIs at0 ⟨0, 0⟩ (.pool 256 4096) 8 .load 32 := by
  refine ⟨⟨?_, fun _ => rfl⟩, ⟨fun _ => rfl, fun h => absurd (.inl (by decide)) h⟩, ⟨?_, fun _ => rfl⟩⟩ <;> rintro (h | ⟨a, q, h, -⟩)
  · exact absurd h (by decide)
  · exact nomatch h
  · exact absurd h (by decide)
  · exact nomatch h

theorem test_meets_GlobalStores : ∃ i d a imm w rel s, storeRow i = some (d, a, imm, w, rel) ∧ XReady s d ∧ XReady s a ∧ memBlocked s = false ∧
    resolve s (xval s.slot a + BitVec.ofInt 64 imm) w .store = .ok (.mem 0 56 .clear) ∧ s.slot.group = none ∧
    holdUsed s.slot + 16 + 16 * ((w + 15) / 16) ≤ 4096 * partHold s.slot :=
  ⟨.stRel 2 1 0 .d .sys, _, _, _, _, _, windowed 0x0F 0 (putsX12 56 5), rfl, by decide, by decide, by decide, rfl, by decide, by decide⟩

theorem test_meets_GlobalStores_full : (4096 * partHold (windowed 0x0F 0 fun l => { l with part := 1 }).slot <
      holdUsed (windowed 0x0F 0 fun l => { l with part := 1 }).slot + 16 + 16 * ((1 + 15) / 16)) ∧
    resolve (windowed 1 0 id) 0 1 .store = .error (.rights, 0) := ⟨by decide, rfl⟩

/-- The group selected is bound to another die's memory. -/
theorem test_meets_GlobalStores_group : let s := onSlot (grouped 56 1) fun l => { l with groups := [(15, { bind := some (0, some 7), bytes := 0, seq := 0 })] }
    resolve s 56 8 .store = .ok (.mem 0 56 .clear) ∧ placeWaits s (.mem 0 56 .clear) 8 .store = false ∧ s.slot.group = some 15 ∧
      groupOk (groupView s 15) (bindKey s (.mem 0 56 .clear)) 8 = false :=
  ⟨rfl, by decide, by decide, by decide⟩

theorem test_meets_GlobalStores_pool : resolve (x1Is (poolAddr 8184)) (poolAddr 8184) 8 .store = .ok (.pool 0 8184) ∧
    lockHit (x1Is (poolAddr 8184)) 8184 8 true = false ∧ chansView (x1Is (poolAddr 8184)).slot 8184 8 = .pass ∧
    storePoison (x1Is (poolAddr 8184)) 8184 8 = false ∧ copySourceBusy (x1Is (poolAddr 8184)) 8184 8 = false :=
  ⟨rfl, by decide, by decide, by decide, by decide⟩

theorem test_meets_Atomics : ∃ i r s, atomRow i = some r ∧ AtomReady s r ∧ AtomOk s r (.mem 0 48 .clear) ∧ sameDie s (.mem 0 48 .clear) = true ∧
    placeBlocked s (.mem 0 48 .clear) r.bytes = false ∧ s.mem.poisoned (memKey 0 48) = false ∧ memKey 0 48 % r.bytes = 0 :=
  ⟨.atomCas 2 1 4 true .q .sys, _, windowed 0x0F 0 (putsX12 63 5), rfl, ⟨by decide, by decide, fun _ => by decide, fun _ => ⟨by decide, fun _ => by decide⟩⟩,
    ⟨by decide, rfl, nofun, nofun, by decide, by decide⟩, by decide, by decide, by decide, by decide⟩

theorem test_meets_Atomics_remote : ∃ i r s, atomRow i = some r ∧ AtomReady s r ∧ AtomOk s r (.mem 0 0x2000000000 .clear) ∧
    sameDie s (.mem 0 0x2000000000 .clear) = false ∧ loadEntries s s.cur.core < 256 :=
  ⟨.atomAdd 3 1 2 false .w .die, _, windowed 0x0F 0x2000000000 (putsX12 3 5), rfl, ⟨by decide, by decide, nofun, nofun⟩,
    ⟨by decide, rfl, nofun, nofun, by decide, by decide⟩, by decide, by decide⟩

/-- An atomic that meets a poisoned granule, one of host memory that the host performs, one that it does not, and pages that wait or are refused. -/
theorem test_meets_Atomics_others :
    (let s := { windowed 0x0F 0 (putsX12 0 5) with mem := { poison := [(0, true)] } }
     ∃ i r, atomRow i = some r ∧ AtomReady s r ∧ AtomOk s r (.mem 0 0 .clear) ∧ sameDie s (.mem 0 0 .clear) = true ∧
      placeBlocked s (.mem 0 0 .clear) r.bytes = false ∧ s.mem.poisoned (memKey 0 0) = true) ∧
    (let s := hostPage [(1, ⟨some 7, true, true⟩)]
     ∃ i r, atomRow i = some r ∧ AtomReady s r ∧ AtomOk s r (.mem 2 4096 .clear) ∧ sameDie s (.mem 2 4096 .clear) = false ∧
      loadEntries s s.cur.core < 256) ∧
    ∃ r i, atomRow i = some r ∧ ¬ HostDoes r ∧ AtomReady (hostPage []) r ∧ memBlocked (hostPage []) = false ∧
      resolve (hostPage []) (atomEa (hostPage []) r) r.bytes .atomic = .ok (.mem 2 4096 .clear) :=
  ⟨⟨.atomAdd 3 1 2 false .d .die, _, rfl, ⟨by decide, by decide, nofun, nofun⟩, ⟨by decide, rfl, nofun, nofun, by decide, by decide⟩, by decide, by decide,
      by decide⟩,
    ⟨.atomAdd 3 1 2 false .d .die, _, rfl, ⟨by decide, by decide, nofun, nofun⟩,
      ⟨by decide, rfl, fun k key h => by cases h; decide, nofun, by decide, by decide⟩, by decide, by decide⟩,
    ⟨_, .atomAnd 3 1 2 false .d .die, rfl, by decide, ⟨by decide, by decide, nofun, nofun⟩, by decide, rfl⟩⟩

/-- A lock of the engine on the last granule of the scratchpad. -/
def lockedLast : State := modCore (x1Is (poolAddr 8191)) 0 fun k => { k with locks := [⟨9, 0, 8188, 8192, true⟩] }

theorem test_meets_AtomicTraps : ∃ i r, atomRow i = some r ∧ AtomReady lockedLast r ∧ memBlocked lockedLast = false ∧
    resolve lockedLast (atomEa lockedLast r) r.bytes .atomic = .ok (.pool lockedLast.cur.core 8184) ∧ lockHit lockedLast 8184 r.bytes true = false ∧
    resolve (windowed 3 0 id) 0 4 .atomic = .error (.rights, 0) :=
  ⟨.atomAdd 3 1 2 false .d .die, _, rfl, ⟨by decide, by decide, nofun, nofun⟩, by decide, rfl, by decide, rfl⟩

theorem test_meets_AtomicTraps_lock : lockHit (modCore at0 0 fun k => { k with locks := [⟨9, 0, 8188, 8192, false⟩] }) 8184 8 true = true := by
  decide

/-- Registers of a matrix command on the first 4 KiB of a scratchpad of 8 KiB. -/
def tiling : State := slotWith fun l => { putsX12 (poolAddr 4096) (poolAddr 4096) l with part := 0x01010201 }

theorem test_meets_MatrixCommands : ∃ i c, matrixRow tiling i = some c ∧ (∀ n ∈ c.need, XReady tiling n) ∧ c.aligned ∧ TileOk tiling c.tile ∧
    RangesOk tiling c.rs ∧ c.rs ≠ [] ∧ (c.busy = true → CanClose tiling) :=
  ⟨.mmaLo 1 2 3 3 .bfbf, _, rfl, by decide, ⟨by decide, by decide⟩, by decide, by decide, by decide, fun _ => by decide⟩

theorem test_meets_MatrixCommands_rows : ∃ i c, matrixRow tiling i = some c ∧ (∀ n ∈ c.need, XReady tiling n) ∧ c.aligned ∧ TileOk tiling c.tile ∧
    RangesOk tiling c.rs ∧ c.busy = false :=
  ⟨.mst 3 1 .s .rsr, _, rfl, by decide, ⟨by decide, by decide⟩, by decide, by decide, rfl⟩

/-- Two commands wait, or one beside an entry that was taken in this cycle. -/
theorem test_meets_MatrixTileTraps_room :
    let e : MEntry := { id := 7, slot := 0, cmd := .mclr 3, issued := 0 }
    ¬ QueueRoom (slotWith fun l => { l with mxQueue := [e, e] }) ∧
      ¬ QueueRoom (slotWith fun l => { l with mxQueue := [e], mxFreed := some (dieCycles at0 (dieOf at0.cur.core)) }) ∧
      QueueRoom (slotWith fun l => { l with mxQueue := [e] }) ∧ (matrixRow at0 (.mclr 3)).isSome = true := by decide

theorem test_meets_MatrixTileTraps : ∃ i c, matrixRow tiling i = some c ∧ (∀ n ∈ c.need, XReady tiling n) ∧ QueueRoom tiling ∧
    tileCount tiling.slot ≤ c.tile ∧ holdsSpill { tiling.slot with spill := [(3, 0)] } 3 = true :=
  ⟨.mclr 4, _, rfl, by decide, by decide, by decide, by decide⟩

theorem test_meets_EngineRegisters : XReady (x1Is 65520) 1 ∧ strideOk 0 65520 ∧ strideOk 1 0 ∧ strideOk 2 32 ∧ ¬ strideOk 2 0 ∧ ¬ strideOk 0 32 ∧
    ¬ strideOk 2 65536 ∧ at0.cur.slot ≠ 4 ∧ 2 < (3 : BitVec 5).toNat := by decide

/-- A command of slot 0 in its queue, and the time at which the engine may start it. -/
def queued : State :=
  { slotWith (fun l => { l with mxQueue := [{ id := 7, slot := 0, cmd := .mclr 3, issued := 0 }] }) with now := 1000 }

/-- The same command in the engine. -/
def inEngine (c : MCmd) : State :=
  modCore { at0 with now := 10000 } 0 fun k => { k with mxRun := [{ id := 7, slot := 0, cmd := c, issued := 0 }] }

theorem test_meets_EngineRuns : mxStartable queued queued.arg.core = some 0 ∧
    mxDue (dieCycles (inEngine (.mst 0 4096 64 .bf .rne 0)) 0) [] (coreOf (inEngine (.mst 0 4096 64 .bf .rne 0)) 0).mxRun =
      some { id := 7, slot := 0, cmd := .mst 0 4096 64 .bf .rne 0, issued := 0 } ∧
    (cmdRows (inEngine (.mma 3 4096 4096 0 0 0 .m8m8)) 0 (.mma 3 4096 4096 0 0 0 .m8m8)).1.length = 32 := by decide

theorem test_meets_DotProductOrder : (List.zip [FVal.fin false 1 0, .nan] [FVal.inf true, .nan]).Perm (List.zip [FVal.nan, .fin false 1 0] [FVal.nan, .inf true]) :=
  List.Perm.swap _ _ _

theorem test_meets_Packing : ∃ i e d a b rnd, packRow i = some (e, d, a, b, rnd) := ⟨.vpackI8 1 1 1 .rsr, _, _, _, _, _, rfl⟩

theorem test_meets_NarrowIsExact : Elem.e21 ≠ .bf ∧ Elem.e21 ≠ .h ∧ (65535 : Nat) < 2 ^ 16 ∧ (15 : Nat) < 2 ^ elemBits .e21 ∧
    ∃ n m k, decodeElem .e21 15 = .fin n m k ∧ m ≠ 0 := ⟨by decide, by decide, by decide, by decide, _, _, _, rfl, by decide⟩

/-- The codes of E2M1 on the positive side. -/
theorem e21_codes : ∀ c < 16, (decodeElem .e21 c) = .fin (decide (8 ≤ c)) (if c % 8 < 2 then c % 8 else 2 + c % 2) (if c % 8 < 2 then -1 else (c % 8 / 2 : Nat) - 2) := by
  decide

/-- 5/4 lies between the neighbours 1 and 3/2 of E2M1, and 6 is its largest magnitude. -/
theorem test_meets_NarrowIsExact_neighbours : Stands .e21 false 2 1 ∧ Stands .e21 false 3 (3 / 2) ∧ (1 : ℚ) < 5 * (2 : ℚ) ^ (-2 : Int) ∧
    5 * (2 : ℚ) ^ (-2 : Int) < 3 / 2 ∧ (∀ c z, Stands .e21 false c z → z ≤ 1 ∨ 3 / 2 ≤ z) ∧ Stands .e21 false 7 6 ∧
    ∀ c z, Stands .e21 false c z → z ≤ 6 := by
  have h : ∀ c z, Stands .e21 false c z → z ∈ [(0 : ℚ), 1 / 2, 1, 3 / 2, 2, 3, 4, 6] := by
    rintro c z ⟨hc, n, m, k, hd, rfl, hn⟩
    rw [show elemBits .e21 = 4 from rfl] at hc
    have e := (e21_codes c (by omega)).symm.trans hd
    simp only [FVal.fin.injEq] at e
    obtain ⟨rfl, rfl, rfl⟩ := e
    interval_cases c <;> simp at hn <;> norm_num
  have s : ∀ c < 8, ∀ m k, decodeElem .e21 c = .fin false m k → Stands .e21 false c (m * (2 : ℚ) ^ k) := fun c hc m k hd =>
    ⟨by rw [show elemBits .e21 = 4 from rfl]; omega, false, m, k, hd, rfl, .inl rfl⟩
  refine ⟨?_, ?_, by norm_num, by norm_num, ?_, ?_, ?_⟩
  · have := s 2 (by decide) 2 (-1) (by decide)
    norm_num at this
    exact this
  · have := s 3 (by decide) 3 (-1) (by decide)
    norm_num at this
    exact this
  · intro c z hz
    have := h c z hz
    simp only [List.mem_cons, List.not_mem_nil, or_false] at this
    rcases this with rfl | rfl | rfl | rfl | rfl | rfl | rfl | rfl <;> norm_num
  · have := s 7 (by decide) 3 1 (by decide)
    norm_num at this
    exact this
  · intro c z hz
    have := h c z hz
    simp only [List.mem_cons, List.not_mem_nil, or_false] at this
    rcases this with rfl | rfl | rfl | rfl | rfl | rfl | rfl | rfl <;> norm_num

theorem test_meets_CopyCommands : ∃ i form a b ch, copyRow i = some (form, a, b, ch) ∧ XReady (x12 (poolAddr 4096) (poolAddr 8128)) a ∧
    XReady (x12 (poolAddr 4096) (poolAddr 8128)) b ∧ CopyOk (x12 (poolAddr 4096) (poolAddr 8128)) form ch.toNat (poolAddr 4096) (poolAddr 8128) ∧
    form = .cp := by
  refine ⟨.cp 1 2 15, _, _, _, _, rfl, by decide, by decide, ⟨by decide, by decide, by decide, by decide, ?_, by decide⟩, rfl⟩
  exact List.forall_mem_cons.2 ⟨by decide, List.forall_mem_cons.2 ⟨by decide, nofun⟩⟩

theorem test_meets_CopyCommands_dec : ∃ i form a b ch, copyRow i = some (form, a, b, ch) ∧ XReady (x12 0 (poolAddr 8128)) a ∧
    XReady (x12 0 (poolAddr 8128)) b ∧ CopyOk (x12 0 (poolAddr 8128)) form ch.toNat 0 (poolAddr 8128) ∧ (form = .dec → CanClose (x12 0 (poolAddr 8128))) := by
  refine ⟨.cpDec 1 2 0, _, _, _, _, rfl, by decide, by decide, ⟨by decide, by decide, by decide, by decide, ?_, by decide⟩, fun _ => by decide⟩
  exact List.forall_mem_cons.2 ⟨by decide, List.forall_mem_cons.2 ⟨by decide, nofun⟩⟩

/-- Channel 15 in a state. -/
def channel (c : Channel) : State := slotWith fun l => { l with chans := [(15, c)], x := [(1, 1)] }

theorem test_meets_CopyTraps : (channel { state := .faulted }).cur.slot ≠ 4 ∧ (chanAt (channel { state := .faulted }).slot 15).state = .faulted ∧
    (chanAt (channel { state := .sub }).slot 15).state = .sub ∧ inService.cur.slot = 4 := by decide

theorem test_meets_ChannelQueries : XReady (x1Is 0xFFFFFF) 1 ∧ at0.cur.slot ≠ 4 ∧ geometryOk 0 0xFFFFFF ∧ ¬ geometryOk 0 0 ∧ ¬ geometryOk 0 0x1000000 ∧
    geometryOk 1 0xFFFFFFFF ∧ ¬ geometryOk 1 0x10000 ∧ geometryOk 5 (2 ^ 48 - 1) ∧ ¬ geometryOk 5 (2 ^ 48) ∧ geometryOk 6 (2 ^ 32 - 1) ∧
    geometryOk 7 8 ∧ ¬ geometryOk 7 4 ∧ 8 ≤ (8 : BitVec 5).toNat := by
  simp only [geometryOk]
  decide

/-- The fault of a copy that is no longer in flight. -/
def lostAt (n : Nat) : ChFault := { cause := .lost, form := .cp, dst := 0, src := 0, geom := {}, copy := 0, offset := n }

theorem test_meets_ChannelQueries_faulted : (chanAt at0.slot 15).state = .complete ∧ (chanAt at0.slot 15).length < 2 ^ 20 ∧
    (chanAt (channel { state := .active }).slot 15).state = .active ∧
    (chanAt (channel { state := .faulted, fault := some (lostAt 64) }).slot 15).fault = some (lostAt 64) ∧
    faultOffset (channel { state := .faulted, fault := some (lostAt 64) }) (lostAt 64) < 2 ^ 32 := by decide

theorem test_meets_ChannelSetup : XReady (x12 (poolAddr 4096) 0x8000000000001000) 1 ∧ XReady (x12 (poolAddr 4096) 0x8000000000001000) 2 ∧ CanClose at0 ∧
    (chanAt at0.slot 15).state ≠ .sub ∧ (0x8000000000001000 : Word).toNat / 2 ^ 20 % 2 ^ 43 = 0 ∧ (poolAddr 4096).toNat % 64 = 0 ∧
    (0x8000000000001000 : Word).toNat % 2 ^ 20 = 0x1000 ∧ (localOff (x12 (poolAddr 4096) 0x8000000000001000) (poolAddr 4096) 0x1000).isSome = true ∧
    chanBusy at0 15 = false := by decide

/-- A descriptor of one source tile in one slot, at byte 8,128 of the pool. -/
def described : State :=
  { x12 (poolAddr 4096) (poolAddr 8128) with mem := { cells := [(poolKey 0 8129, 1), (poolKey 0 8160, 1), (poolKey 0 8164, 1), (poolKey 0 8168, 64)] } }

theorem test_meets_ChannelSetup_subscription : ∃ u ev, readSub (poolRead described 64 8128) 4096 (boxSize described.slot.geom) = some (u, ev) ∧
    (localOff described (poolAddr 4096) (u.slots * u.slotSize)).isSome = true ∧ 0 ≤ boxLast described.slot.geom ∧
    boxLast described.slot.geom < u.slotSize ∧ u.tiles = 1 ∧ ev = false := ⟨_, _, rfl, by decide, by decide, by decide, by decide, rfl⟩

theorem test_meets_ChannelSetup_subscription_state : XReady described 1 ∧ XReady described 2 ∧ described.cur.slot ≠ 4 ∧ CanClose described ∧
    (chanAt described.slot 15).state = .complete ∧ (chanAt described.slot 15).expected = 0 ∧ (xval described.slot 1).toNat % 64 = 0 ∧
    localOff described (xval described.slot 2) 64 = some 8128 ∧ memBlocked described = false ∧ described.slot.cpQueue.length < 2 := by decide

/-- A subscription of one loaded tile in one slot. -/
def subA : Sub :=
  { srcBase := 256, srcStep := 0, dstBase := 0, dstStep := 0, tiles := 1, slots := 1, slotSize := 64, box := 64, ring := 4096
    started := true, loaded := [(0, 64)] }

theorem test_meets_ChannelSetup_release : XReady (channel { state := .sub, sub := some subA }) 1 ∧ CanClose (channel { state := .sub, sub := some subA }) ∧
    (chanAt (channel { state := .sub, sub := some subA }).slot 15).sub = some subA ∧ subA.released + 1 ≤ subA.tiles ∧ 1 ≤ subA.slots ∧
    (∀ i, i < 1 → rackerOwns subA subA.box ((subA.released + i) % subA.slots) = false) ∧
    (∀ o ∈ passedSlots subA 1, bufOverlap (channel { state := .sub, sub := some subA }).slot o subA.slotSize = false ∧
      ∀ l ∈ (coreOf (channel { state := .sub, sub := some subA }) 0).locks, l.result = true → l.slot = 0 →
        overlaps o subA.slotSize l.lo (l.hi - l.lo) = false) ∧
    (channel { state := .sub, sub := some subA, arrived := 64, expected := 64 }).slot.chans.length = 1 := by decide

theorem test_meets_DecodeOfEncode : (Instr.call 0x80000 24).wellFormed = true ∧ encode (.call 0x80000 24) = some (4, 0x80000C25) := by decide

theorem test_meets_EncodeOfDecode : decode [0x00, 0x08, 0xFF] = .ok (.nopC, [0xFF]) := by decide

theorem test_meets_StepRunsDecoded : TurnOf at0 0 [] ∧ TurnOf { at0 with agenda := [] } 0 [] ∧
    issueOrder { at0 with agenda := [], stalled := false } 0 = ⟨0, 0⟩ :: [] ∧ (getSlot { at0 with agenda := [], stalled := false } ⟨0, 0⟩).gangSize ≤ 1 ∧
    decode (leBytes 2 (0x004B : BitVec 16).toNat ++ leBytes 2 (0x0000 : BitVec 16).toNat) = .ok (.nop, []) ∧
    (∀ m ∈ gangOf { at0 with agenda := [], stalled := false } ⟨0, 0⟩, draining (getSlot { at0 with agenda := [], stalled := false } m) = false) ∧
    ∃ t, exec .nop { begins .nop (noteFetch (focus { at0 with agenda := [], stalled := false } ⟨0, 0⟩)) with latch := [] } = .next t ∧ t.stalled = false :=
  ⟨⟨by decide, by decide, .inl ⟨by decide, by decide⟩⟩, ⟨by decide, by decide, .inr ⟨by decide, by decide, by decide⟩⟩, by decide, by decide, by decide,
    by decide, _, rfl, rfl⟩

/-- Slots 0 of cores 0 and 1 as a gang, both at the word of `nop`. -/
def ganged : State :=
  let l : Slot := { at0.slot with gangSize := 2 }
  { at0 with slot := l, others := [(5, { l with gangPos := 1 })], agenda := [] }

theorem test_meets_StepRunsDecoded_gang : gangOf ganged ⟨0, 0⟩ = ⟨0, 0⟩ :: [⟨1, 0⟩] ∧ issueOrder ganged 0 = ⟨0, 0⟩ :: [] ∧
    gangAgrees exec ganged ⟨0, 0⟩ = true ∧ (∀ m ∈ gangOf ganged ⟨0, 0⟩, draining (getSlot ganged m) = false) ∧
    ∃ t, runGang (exec .nop) (begins .nop (noteFetch (focus ganged ⟨0, 0⟩))) = .next t ∧ t.stalled = false :=
  ⟨by decide, by decide, by decide, by decide, _, rfl, by decide⟩

theorem test_meets_StepRunsDecoded_bytes : BytesAtPc at0 (leBytes 2 (0x004B : BitVec 16).toNat ++ leBytes 2 (0x0000 : BitVec 16).toNat) :=
  ⟨0x004B, ⟨0, 0, .clear, rfl, by decide, by decide, by decide, by decide⟩,
    .inr ⟨by decide, 0x0000, ⟨0, 2, .clear, rfl, by decide, by decide, by decide, by decide⟩, rfl⟩⟩

theorem test_meets_StepsOfTheSchedule : ({ State.reset with agenda := [.event .softError {}] } : State).powered = true ∧ isEvent .softError = true ∧
    overdue exec (deadlines State.reset) State.reset = none ∧
    (∃ t, exec .softError { State.reset with agenda := [], stalled := false, arg := {} } = .next t) ∧
    ({ State.reset with powered := false } : State).powered = false ∧ issued (markIssued at0 0) 0 = true ∧ at0.agenda = .issue 0 :: [] :=
  ⟨rfl, rfl, rfl, ⟨_, rfl⟩, rfl, by decide, rfl⟩

/-- Core 0 has issued; core 1 has nothing, or owes its issue. -/
theorem test_meets_StepsOfTheSchedule_owing :
    let u := { markIssued at0 0 with stalled := false }
    let v := { markIssued { at0 with others := [(5, at0.slot)] } 0 with stalled := false }
    owing exec (nextCycle u (dieOf 0)) u = [] ∧ owing exec (nextCycle v (dieOf 0)) v = 1 :: [] ∧ issued v 0 = true := by decide

/-- A buffered store that has still to be performed. -/
theorem test_meets_StepsOfTheSchedule_stop : let s := slotWith fun l => { l with storeBuf := [{ bytes := [(4096, 1)] }] }
    overdue exec (deadlines s) s = none ∧ ∃ d ∈ deadlines s, s.now < d.1 := by decide

/-- A buffered store that has waited a microsecond. -/
theorem test_meets_StepsOfTheSchedule_overdue : let s := { slotWith fun l => { l with storeBuf := [{ bytes := [(4096, 1)] }] } with now := microsecond }
    overdue exec (deadlines s) s = some (.storeBufferPerform, { slot := ⟨0, 0⟩ }) ∧ isEvent .storeBufferPerform = true ∧
    ∃ t, exec .storeBufferPerform { s with arg := { slot := ⟨0, 0⟩ } } = .next t := ⟨by decide, by decide, _, rfl⟩

theorem test_meets_StepKeepsInvariant : Inv at0 ∧ ∃ t, step at0 = .next t := ⟨by unfold Safety.Inv; decide, _, rfl⟩

theorem test_meets_DiscardTakesBack : xGroup at0.slot.region 7 = some 0 ∧ at0.slot.region.mask.getLsbD 0 = true ∧
    (openRegion 0x1F0 false at0.slot).region.mask.getLsbD (4 + (31 : BitVec 5).toNat / 16) = true ∧
    (openRegion 0x1F0 false at0.slot).region.mask.getLsbD (7 + (15 : BitVec 5).toNat / 8) = true ∧
    (openRegion 0x1F0 false at0.slot).region.mask.getLsbD 6 = true := by decide

/-! #### Packets -/

/-- A packet from slot 0 of core 0, which stands at its cluster switch. -/
def pkt (c : Cargo) (d : Dest) : Packet :=
  { cargo := c, src := ⟨0, 0⟩, srcDev := 0, capsule := 0, dest := d, key := .clear, req := 0, header := none, hop := .target, climb := 1, inPort := 0
    age0 := 0, born := 0, portKey := ⟨0, 0, 0, 0⟩, seq := 0, intact := true }

/-- An open world, whose port key the packets carry. -/
def worldA : World := { tag := 0, chain := 0, epoch := 0, rootKey := 0, openPos := 0 }

/-- Packets in flight, under the numbers 0, 1 and so on, and the arguments of the step in hand. -/
def flying (ps : List Packet) (a : EventArg) : State :=
  { at0 with net := ps.zipIdx.map (fun p => (p.2, p.1)), fresh := ps.length, arg := a, hub := { at0.hub with worlds := [(0, worldA)] } }

theorem test_meets_PacketsMove_forward :
    let p := { pkt .event (.task 0) with hop := .cluster }
    let s := flying [p] { pkts := [0] }
    p.piece = none ∧ p.tier = 0 ∧ s.arg.pkts = [0] ∧ sfind s.net 0 = some p ∧ p.hop ≠ .target ∧ 0 < s.fresh ∧ packetAge s p < 250 ∧ linkDown s s.arg.port p = false ∧ p.climb ≠ 0 ∧
      250 ≤ packetAge (flying [{ p with age0 := 250 }] { pkts := [0] }) { p with age0 := 250 } := by decide

/-- A packet of a die that wants a Skelser port, whose link is down, and one at a port for device 1. -/
theorem test_meets_PacketsMove_forward_port :
    let p := { pkt .event (.task 0) with hop := .package }
    let s := flying [p] { pkts := [0] }
    let q := { pkt (.write [1] false) (.peer 0x8000400000000000) with hop := .port 95 }
    linkDown { s with hub := { s.hub with links := [(8, { down := true })] } } 0 p = true ∧ linkDown s 0 p = false ∧ leaves s q = true ∧
      leaves s { q with dest := .mem 0 64 } = false := by decide

/-- A packet that a spine seals, with room in its flow and without. -/
theorem test_meets_PacketsMove_seal :
    let p := { pkt .event (.task 0) with hop := .spine }
    let s := flying [p] { pkts := [0] }
    ∃ k, sealsNow s p = some k ∧ worldOfKey s p.portKey = some 0 ∧ worldAt s 0 = some worldA ∧
      ((sget {} worldA.innerSent k : SentFlow).times.filter fun t => decide (s.now < t + Config.lifePkg)).length < 4096 ∧
      4096 ≤ ((sget {} [(k, ({ times := List.replicate 4096 0 } : SentFlow))] k : SentFlow).times.filter fun t =>
        decide (s.now < t + Config.lifePkg)).length := by
  intro p s
  refine ⟨_, rfl, by decide, by decide, by decide, ?_⟩
  rw [show (sget {} [(_, ({ times := List.replicate 4096 0 } : SentFlow))] _ : SentFlow) = { times := List.replicate 4096 0 } from if_pos rfl]
  simp only [List.filter_replicate]
  rw [if_pos (by decide), List.length_replicate]

/-- A counter that its port has seen, and one below its window. -/
theorem test_meets_PacketsMove_counter : ∀ f ∈ [(⟨1, [0]⟩ : Flow), ⟨4097, []⟩],
    let p := { pkt (.write [1] false) (.mem 0 64) with flow := some 3 }
    let w := { worldA with innerSeen := [(3, f)] }
    let s := { flying [p] {} with hub := { at0.hub with worlds := [(0, w)] } }
    sfind s.net s.arg.pkt = some p ∧ worldOfKey s p.portKey = some 0 ∧ worldAt s 0 = some w ∧
      (p.seq + 4096 < (sget ⟨0, []⟩ w.innerSeen 3).next ∨ p.seq ∈ (sget ⟨0, []⟩ w.innerSeen 3).seen) := by decide

/-- A read of a poisoned granule, or of an expander that has failed. -/
theorem test_meets_PacketsMove_poison : ({ poison := [(1, true)] } : Memory).anyPoison (memKey 0 64) 8 = true ∧
    expanderFailed { at0 with hub := { at0.hub with cxl := [(0, { on := true, up := true, capacity := 1, failed := true })] } } 0 8 = true := by decide

theorem test_meets_PacketsMove_elder :
    let p := { pkt .event (.task 0) with hop := .spine, age0 := 249 }
    let q := { pkt .event (.task 0) with hop := .spine, age0 := 248 }
    let s := flying [p, q] { pkts := [0, 1], pools := [15] }
    (sealPacket s p).isSome = true ∧ s.arg.pools = 15 :: [] ∧ sfind s.net 0 = some p ∧ sfind s.net 1 = some q ∧ 1 < s.fresh ∧ p.climb ≠ 0 ∧ q.climb ≠ 0 ∧ q.srcDie = p.srcDie ∧
      linkDown s s.arg.port p = false ∧ packetAge s p < 250 ∧ packetAge s q < packetAge s p := by decide

theorem test_meets_PacketsMove_arrive :
    let s := flying [pkt (.write [1] false) (.mem 0 64), pkt (.read 8) (.mem 1 0), pkt (.atomic .add .d 0 1) (.mem 0 64)]
    (∀ n < 3, ∃ p, AtTarget (s { pkt := n }) p ∧ linkDown (s { pkt := n }) 0 p = false) ∧ landBlocked (s {}) 0 64 8 = false ∧
      (s {}).mem.anyPoison (memKey 0 64) 8 = false := by
  refine ⟨?_, by decide, by decide⟩
  intro n hn
  interval_cases n <;> exact ⟨_, ⟨rfl, rfl, by decide, by decide⟩, by decide⟩

theorem test_meets_PacketsMove_refused :
    let q := { pkt (.write [1] false) (.pool 0 100) with inPort := 16 }
    let s := flying [q] {}
    AtTarget s q ∧ scratchHolder s 0 0 100 1 = none ∧ leftPool s q 0 100 1 = false ∧ unsealed q = false ∧
      worldOfKey { s with hub := { s.hub with worlds := [] } } ⟨0, 0, 0, 0⟩ = none := by
  exact ⟨⟨rfl, rfl, by decide, by decide⟩, by decide, by decide, by decide, by decide⟩

/-- Data for part 0 of a load of slot 0 with these parts and these bytes, at a time. -/
def loadA (ps : List (Nat × Nat)) (got : SMap Byte) : Pending :=
  { req := 0, parts := ps, got := got, dst := some 3, ea := 0x40, land := .load 8, blocks := true, left := some 0 }

def answering (q : Pending) (now : Nat) : State :=
  { onSlot (flying [pkt (.data [5, 6, 7, 8] true) (.reply ⟨0, 0⟩)] { slot := ⟨0, 0⟩ }) (fun l => { l with pending := [q] }) with now := now }

theorem test_meets_PacketsMove_answer : ∀ q ∈ [loadA [(0, 2)] (byteMap 0 [1, 2]), loadA [(0, 0)] (byteMap 4 [1]), loadA [(0, 4), (1, 0)] []],
    let s := answering q (2 * Config.lifeMax)
    Answers s ⟨0, 0⟩ 0 [5, 6, 7, 8] true ∧ (getSlot s ⟨0, 0⟩).pending.find? (fun x => x.parts.any fun r => r.1 == 0) = some q ∧
      partLate s ⟨0, 0⟩ 0 = false ∧ partLate (answering q (2 * Config.lifeMax + 1)) ⟨0, 0⟩ 0 = true ∧
      (getSlot s s.arg.slot).pending.find? (fun x => x.req == s.arg.copy) = some q ∧ 0 + 2 * Config.lifeMax ≤ s.now := by
  refine List.forall_mem_cons.2 ⟨?_, List.forall_mem_cons.2 ⟨?_, List.forall_mem_cons.2 ⟨?_, nofun⟩⟩⟩ <;>
  exact ⟨⟨_, rfl, by decide, rfl, rfl, rfl, rfl⟩, by decide, by decide, by decide, by decide, by decide⟩

/-- A message, or an event, to the tile task of slot 0. -/
def toTask (c : Cargo) (trapEntry : Nat) (f : Slot → Slot) : State := withCapsule (onSlot (flying [pkt c (.task 0)] {}) f) trapEntry

theorem test_meets_PacketsMove_message : (∃ p, AtTarget (toTask (.message 5) 0 id) p) ∧ placedAt (toTask (.message 5) 0 id) 0 0 = some ⟨0, 0⟩ ∧
    capAt (toTask (.message 5) 0 id) 0 = some (capA 0) ∧ placedAt (toTask (.message 5) 0 fun l => { l with linear := 1 }) 0 0 = none ∧ (getSlot (toTask (.message 5) 0 id) ⟨0, 0⟩).inbox.length < 16 ∧
    16 ≤ (getSlot (toTask (.message 5) 0 fun l => { l with inbox := List.replicate 16 0 }) ⟨0, 0⟩).inbox.length ∧ (capA 0).stopped = none ∧
    (capA 0).info.overflow ≠ 0xFFFFFFFF ∧ (coreOf (toTask (.message 5) 0 id) 0).staged.length < 64 := by
  exact ⟨⟨_, rfl, rfl, by decide, by decide⟩, by decide, by decide, by decide, by decide, by decide, by decide, by decide, by decide⟩

/-- Inbox and staging queue are full. -/
theorem test_meets_PacketsMove_bounce : let s := modCore (toTask (.message 5) 0 fun l => { l with inbox := List.replicate 16 0 }) 0 fun k =>
      { k with staged := List.replicate 64 ⟨0, 0, 9⟩ }
    (∃ p, AtTarget s p) ∧ placedAt s 0 0 = some ⟨0, 0⟩ ∧ 16 ≤ (getSlot s ⟨0, 0⟩).inbox.length ∧ 64 ≤ (coreOf s 0).staged.length :=
  ⟨⟨_, rfl, rfl, by decide, by decide⟩, by decide, by decide, by decide⟩

theorem test_meets_PacketsMove_event : (getSlot (toTask .event 0 id) ⟨0, 0⟩).run = .running ∧ (getSlot (toTask .event 0 id) ⟨0, 0⟩).gangSize = 1 ∧
    (getSlot (toTask .event 0 fun l => { l with run := .asleep }) ⟨0, 0⟩).run = .asleep ∧
    placedAt (toTask .event 0 fun l => { l with run := .asleep }) 0 0 = some ⟨0, 0⟩ ∧
    placedAt (toTask .event 0 fun l => { l with linear := 1 }) 0 0 = none := by decide

/-- An entry of the arrival table of die 0 that holds `n` bytes. -/
def arrival (n : Nat) (f : Option (Packet × Nat)) : Arrival := { key := 5, arrived := n, flag := f, created := 0, wait := 100 }

/-- A counted packet at memory of die 0, and that entry. -/
def counted (c : Cargo) (e : Arrival) : State :=
  modDie (flying [{ pkt c (.mem 0 64) with header := some 0x8000000000000005 }] {}) 0 fun d => { d with arrivals := [e] }

theorem test_meets_CountedArrivals : (∃ p, AtTarget (counted (.flag 64 1) (arrival 64 none)) p ∧ p.header = some 0x8000000000000005) ∧
    (dieAt (counted (.flag 64 1) (arrival 64 none)) (memDie (counted (.flag 64 1) (arrival 64 none)) 0 64)).arrivals.find?
      (fun x => x.key == 0x8000000000000005 &&& 0x7FFFFFFFFFFFFFFF) = some (arrival 64 none) ∧ (arrival 64 none).flag = none ∧
    landBlocked (counted (.flag 64 1) (arrival 64 none)) 0 64 8 = false ∧ (arrival 63 none).arrived < 64 ∧ 64 < (arrival 65 none).arrived := by
  exact ⟨⟨_, ⟨rfl, rfl, by decide, by decide⟩, rfl⟩, by decide, by decide, by decide, by decide, by decide⟩

/-- A table of 4,096 entries of other flags, a flag of AGE 239 or 240, and a journal with room. -/
theorem test_meets_CountedArrivals_full : ∀ age ∈ [239, 240],
    let p := { pkt (.flag 64 1) (.mem 0 64) with header := some 0x8000000000000005, age0 := age }
    let s := modDie (flying [p] {}) 0 fun d => { d with arrivals := List.replicate 4096 { arrival 0 none with key := 6 } }
    let u := { s with hub := { s.hub with jhead := 1 } }
    (∀ x ∈ (dieAt s (memDie s 0 64)).arrivals, x.key ≠ 0x8000000000000005 &&& 0x7FFFFFFFFFFFFFFF) ∧
      4096 ≤ (dieAt s (memDie s 0 64)).arrivals.length ∧ packetAge s p = age ∧ landBlocked s 0 64 8 = false ∧
      u.bindings = [] ∧ journalFull u = false ∧ u.hub.jqueue = [] ∧ u.hub.jlost = 0 ∧ u.hub.jhead ≠ 0 := by
  intro age ha p s u
  have d : (dieAt s (memDie s 0 64)).arrivals = List.replicate 4096 { arrival 0 none with key := 6 } := rfl
  refine ⟨fun x h => ?_, ?_, ?_, rfl, rfl, rfl, rfl, rfl, Nat.one_ne_zero⟩
  · rw [d] at h
    rw [List.eq_of_mem_replicate h]
    decide
  · rw [d, List.length_replicate]
  · fin_cases ha <;> decide

theorem test_meets_CountedArrivals_time :
    let e := arrival 0 (some (pkt (.flag 64 1) (.mem 0 64), 0))
    let s := { counted .event e with now := 100 * 1000 * Config.nanosecond }
    let t := { counted .event (arrival 0 none) with now := 400 * 1000 * Config.nanosecond }
    (dieAt s s.arg.die).arrivals.find? (timedOut s) = some e ∧
      ((dieAt t t.arg.die).arrivals.find? (fun x => x.flag.isNone && decide (x.created + 4 * x.wait * 1000 * Config.nanosecond ≤ t.now))).isSome = true := by
  decide

/-- A slot whose region closes and whose hold area begins with `h`. -/
def leaving (h : Held) : State := slotWith fun l => { l with hold := [h], closing := true }

/-- Stores to memory of the own die, across a boundary of 64 bytes, and to the pool of a core of another die. -/
theorem test_meets_SlotBuffersDrain_store :
    ∀ pl ∈ [Place.mem 0 63 .clear, .pool 256 4096], (getSlot (leaving (.store pl 0 [1, 2] none none)) ⟨0, 0⟩).hold = .store pl 0 [1, 2] none none :: [] ∧
      headReady (leaving (.store pl 0 [1, 2] none none)) ⟨0, 0⟩ (.store pl 0 [1, 2] none none) = true ∧
      ((placeDie at0 pl = dieOf 0) ↔ pl = .mem 0 63 .clear) := by decide

theorem test_meets_SlotBuffersDrain_die : OnDie at0 ⟨0, 0⟩ (.mem 0 63 .clear) 2 .store ∧ ¬ OnDie at0 ⟨0, 0⟩ (.pool 256 4096) 2 .store := by
  refine ⟨.inl (by decide), ?_⟩
  rintro (h | ⟨a, q, h, -⟩)
  · exact absurd h (by decide)
  · exact nomatch h

/-- A buffered store by the device's own number: before it goes out, while its packet is under way, and after. -/
theorem test_meets_SlotBuffersDrain_out : ∀ o ∈ [none, some 0, some 1],
    let p := pkt (.write [1] false) (.peer 0x8000400000000000)
    let e : BufStore := { bytes := [], out := some p, sent := o }
    let s := onSlot (flying [p] {}) fun l => { l with storeBuf := [e] }
    (getSlot s s.arg.slot).storeBuf = e :: [] ∧ e.rel = none ∧ (sfind s.net 0).isSome = true ∧ sfind s.net 1 = none := by decide

/-- An event for the slot's own task. -/
theorem test_meets_SlotBuffersDrain_self : let s := withCapsule (leaving (.sev 0)) 0
    (getSlot s s.arg.slot).capsule = some 0 ∧ placedAt s 0 0 = some ⟨0, 0⟩ ∧ placedAt s 0 1 ≠ some ⟨0, 0⟩ ∧
      headReady s ⟨0, 0⟩ (.sev 0) = true ∧ (getSlot s s.arg.slot).run = .running ∧ (getSlot s s.arg.slot).gangSize = 1 := by decide

theorem test_meets_SlotBuffersDrain :
    let e : BufStore := { bytes := [(4096, 1), (4097, 2)] }
    let o : BufStore := { bytes := [], out := some (pkt (.write [1] false) (.mem 0 64)) }
    (getSlot (slotWith fun l => { l with storeBuf := [e] }) at0.arg.slot).storeBuf = e :: [] ∧ e.out = none ∧ (e.bytes.map fun b => b.1).Nodup ∧
      (∀ b ∈ e.bytes, b.1 < 2 ^ 19) ∧ (getSlot (slotWith fun l => { l with storeBuf := [o, e] }) at0.arg.slot).storeBuf = o :: [e] ∧
      landBlocked at0 0 64 1 = false ∧ relCond (slotWith fun l => { l with wantRel := some .sys }) ⟨0, 0⟩ .sys true = true ∧
      headReady (leaving (.send 0 7)) ⟨0, 0⟩ (.send 0 7) = true ∧ headReady (leaving (.sev 0)) ⟨0, 0⟩ (.sev 0) = true ∧
      headReady (leaving (.posting 0 0 64)) ⟨0, 0⟩ (.posting 0 0 64) = true := by decide

theorem test_meets_SlotBuffersDrain_release : ∀ pl ∈ [Place.mem 0 64 .clear, .pool 256 4096],
    let s := leaving (.rel 3 pl 1)
    (getSlot s s.arg.slot).closing = true ∧ groupReady s (groupAt (getSlot s s.arg.slot) 3) = true := by decide

theorem test_meets_SlotBuffersDrain_activation : (capA 0).info.overflow ≠ 0xFFFFFFFF ∧
      (coreOf (modCore (withCapsule at0 0) 0 fun k => { k with staged := [⟨0, 0, 9⟩] }) 0).staged = ⟨0, 0, 9⟩ :: [] ∧
      (getSlot (withCapsule at0 0) ⟨0, 0⟩).task = 0 ∧
      (getSlot (withCapsule at0 0) ⟨0, 4⟩).run = .unbound ∧ (getSlot (withCapsule at0 0) ⟨0, 4⟩).storeBuf = [] ∧
      (getSlot (withCapsule at0 0) ⟨0, 0⟩).capsule = some 0 ∧ capAt (withCapsule at0 0) 0 = some (capA 0) ∧ (capA 0).stopped = none := by decide

/-! #### Copies and cellars -/

/-- A copy of slot 0 on channel 15 of 64 bytes, from the end of the scratchpad to its start. -/
def copyA : Copy :=
  { id := 9, slot := 0, form := .cp, ch := 15, dst := poolAddr 4096, src := poolAddr 8128, geom := {} }

/-- The copy in flight, its channel active, and the arguments of the step in hand. -/
def copying (x : Copy) (a : EventArg) : State :=
  { modCore (slotWith fun l => { l with chans := [(15, { state := .active, expected := 64 })] }) 0 fun k => { k with copies := [x] } with arg := a }

theorem test_meets_CopyEngineSteps_accept :
    let s := slotWith fun l => { l with cpQueue := [copyA] }
    ((coreOf s 0).copies.filter (inFlight s 0)).length < 1024 ∧
      (cpOrder (coreOf s 0)).find? (fun j => !(getSlot s ⟨0, j⟩).cpQueue.isEmpty) = some 0 ∧ (getSlot s ⟨0, 0⟩).cpQueue = copyA :: [] := by decide

/-- Its piece is to be sent, and has been. -/
theorem test_meets_CopyEngineSteps_serve :
    let s := copying copyA { copy := 9 }
    let x := { copyA with served := [(0, { len := 64 })], next := 64 }
    let u := copying x { copy := 9 }
    let cut := copyCut s ⟨0, 0⟩ copyA 0
    s.arg.flag = false ∧ copyOn s 0 9 = some copyA ∧ sfind copyA.served 0 = none ∧ pieceLength (tableOf s ⟨0, 0⟩) cut = 64 ∧
      pieceAllowed s ⟨0, 0⟩ copyA 0 = true ∧ (pieceResolve s ⟨0, 0⟩ cut.src 64 .load).toOption = some (.pool 0 8128) ∧
      (pieceDests s ⟨0, 0⟩ copyA cut 64).toOption = some [.pool 0 4096] ∧ copyOn u 0 9 = some x ∧ x.group = none ∧
      (scratchHolder u 0 ((getSlot u ⟨0, 0⟩).capsule.getD 0) 4096 64).isSome = true ∧ 4096 % 64 + 64 ≤ 64 ∧ (coreOf u 0).locks = [] := by decide

/-- A piece from the scratchpad for memory of die 1. -/
theorem test_meets_CopyEngineSteps_far :
    let x := { copyA with dst := 0, served := [(0, { len := 64 })], next := 64 }
    let s := { copying x { copy := 9 } with cores := (modCore (windowed 0x0F 0x2000000000 id) 0 fun k => { k with copies := [x] }).cores }
    let cut := copyCut s ⟨0, 0⟩ x 0
    copyOn s 0 9 = some x ∧ x.group = none ∧ (pieceResolve s ⟨0, 0⟩ cut.src 64 .load).toOption = some (.pool 0 8128) ∧
      (pieceDests s ⟨0, 0⟩ x cut 64).toOption = some [.mem 0 0x2000000000 .clear] ∧ memDie s 0 0x2000000000 ≠ dieOf 0 ∧
      0x2000000000 % 64 + 64 ≤ 64 := by decide

/-- 04 R109, 18 R306: a copy of a tile task that has exited still reads that task's scratchpad; another slot's does not. -/
theorem test_exited_scratch :
    let s := onSlot (copying copyA { copy := 9 }) fun l => { l with run := .exited }
    scratchHolder s 0 0 8128 64 = none ∧ (pieceResolve s ⟨0, 0⟩ (poolAddr 8128) 64 .load).toOption = some (.pool 0 8128) ∧
      leftScratch s ⟨0, 1⟩ 0 8128 64 = false := by decide

theorem test_meets_CopyEngineSteps_count :
    let s := { copying { copyA with served := [(0, { len := 64, read := true })] } { copy := 9 } with net := [(0, pkt (.count 9 0 64 0) (.reply ⟨0, 0⟩))] }
    sfind s.net s.arg.pkt = some (pkt (.count 9 0 64 0) (.reply ⟨0, 0⟩)) ∧ (copyOn s 0 9).isSome = true ∧ copyA.form = .cp ∧
      (chanAt (getSlot s ⟨0, 0⟩) 15).state = .active ∧ notLanded s ⟨0, 0⟩ 9 0 0 = false ∧
      notLanded { s with net := s.net ++ [(1, { pkt (.write [1] false) (.pool 0 4096) with piece := some (9, 0, 0) })] } ⟨0, 0⟩ 9 0 0 = true := by decide

theorem test_meets_CopyEngineSteps_lost :
    let v : Served := { len := 64, remote := true, left := some 0 }
    let x := { copyA with served := [(0, v)] }
    let s := { copying x { copy := 9 } with now := 2 * Config.lifeMax }
    copyOn s 0 9 = some x ∧ sfind x.served 0 = some v ∧ 0 + 2 * Config.lifeMax ≤ s.now ∧
      (chanAt (getSlot s ⟨0, 0⟩) 15).state ≠ .faulted := by decide

/-- A subscription whose tiles come from elsewhere than device memory, and one from slice 0. -/
theorem test_meets_CopyEngineSteps_start :
    let s := slotWith fun l => { l with chans := [(15, { state := .sub, sub := some { subA with started := false } })] }
    let u := { subA with started := false, srcBase := 32 }
    let t := windowed 1 0 fun l => { l with chans := [(15, { state := .sub, sub := some u })] }
    (chanAt (getSlot s ⟨0, 0⟩) 15).sub = some { subA with started := false } ∧ 256 ≤ rackerOf s ⟨0, 0⟩ { subA with started := false } ∧
      (chanAt (getSlot t ⟨0, 0⟩) 15).sub = some u ∧ rackerOf t ⟨0, 0⟩ u < 256 ∧ rackerLoad t (rackerOf t ⟨0, 0⟩ u) < 32 := by decide

/-- A `cp.dec` of sixteen bytes from device 1 to window address 0, its message opened or not. -/
def decA (o : Option (Nat × Option (List Byte) × Bool)) : Copy :=
  { copyA with form := .dec, dst := 0, src := 0xC000400000000000, geom := { xlen := 16, decseq := 56 }, opened := o }

/-- Slot 0's capsule belongs to world 0, window 0 to 63 is device memory with all rights, and `d` comes from device 1. -/
def sealedSource (o : Option (Nat × Option (List Byte) × Bool)) (d : List Byte) : State :=
  { copying (decA o) { copy := 9, data := d } with
    hub := { at0.hub with capsules := [(0, capA 0)], worlds := [(0, worldA)], roster := [⟨1, true, 0⟩] }
    cores := (modCore (windowed 0x0F 0 id) 0 fun k => { k with copies := [decA o] }).cores }

/-- Not opened; opened with a wrong tag; with the right one under the word 0; with the right one under the word 1. -/
theorem test_meets_CopyEngineSteps_decrypt : ∀ o ∈ [none, some (0, none, false), some (0, some (List.replicate 16 3), false), some (1, some [], false)],
    let s := sealedSource o (List.replicate 32 0)
    copyOn s 0 9 = some (decA o) ∧ (decA o).dead = false ∧ (decA o).served = [] ∧ spaceOf (decA o).dst = 0 ∧
      (pieceResolve s ⟨0, 0⟩ (decA o).dst 16 .store).toOption = some (.mem 0 0 .clear) ∧
      (decWord s ⟨0, 0⟩ (decA o)).toOption = some (some (.mem 0 56 .clear)) ∧ landBlocked s 0 0 16 = false ∧
      writeBlocked s (.mem 0 56 .clear) 8 = false ∧
      (chanAt (getSlot s ⟨0, 0⟩) 15).state ≠ .faulted ∧ readPlace s (.mem 0 56 .clear) 8 = (List.replicate 8 0, false) := by decide

/-- The sequence word lies in host memory, and the guarded world has 7 tokens. -/
theorem test_meets_CopyEngineSteps_bucket :
    let r : RangeEntry := { base := 0, length := 32, cls := 0, target := 0, rights := 0x0F, keysel := 0, key := .clear }
    let w := { worldA with guarded := true, tokens := 7 }
    let x := decA (some (0, some (List.replicate 16 3), false))
    let t := sealedSource x.opened []
    let s := { t with hub := { t.hub with run := true, worlds := [(0, w)], atc := [(1, ⟨some 7, true, true⟩)] }
                      cores := (modCore t 0 fun k => { k with ranges := [(0, [r, { r with base := 32, cls := 2, target := 4128 }])] }).cores }
    copyOn s 0 9 = some x ∧ (pieceResolve s ⟨0, 0⟩ x.dst 16 .store).toOption = some (.mem 0 0 .clear) ∧
      (decWord s ⟨0, 0⟩ x).toOption = some (some (.mem 2 4152 .clear)) ∧ writeBlocked s (.mem 2 4152 .clear) 8 = false ∧
      slotWorld s ⟨0, 0⟩ = some w ∧ bucketLets w x.id 8 = false ∧ x.served = [] := by decide

/-- The data that a `cp.dec` from a device finds is what the device sends. -/
theorem test_meets_CopyEngineSteps_source (s : State) (i : SlotId) (a : Word)
    (h : (pieceResolve s i (decA none).src 32 .load).toOption = some (.peer a)) (d : s.arg.data.length = 32)
    (o : some (bits a.toNat 46 16) ≠ ownDevice s) (own : some (bits (decA none).src.toNat 46 16) ≠ ownDevice s) : decSource s i (decA none) 32 = .got s.arg.data false := by
  have p : extentParts (tableOf s i) ((tableOf s i).length + 1) (decA none).src 32 = [((decA none).src, 32)] := by
    have e : extentRest (tableOf s i) (decA none).src = none := if_neg (by decide)
    cases h : (tableOf s i).length <;> simp [extentParts, e]
  have q : decPart s i (decA none).src 32 = .got s.arg.data false := by
    unfold decPart
    generalize pieceResolve s i (decA none).src 32 .load = r at h
    match r, h with
    | .ok _, rfl => simp [d, o]
  have w : decOwn s (decA none) = false := by
    have z : some (bits (decA none).src.toNat 46 16) ≠ ownDevice s := own
    simp [decOwn, z]
  simp [decSource, decParts, w, p, q, joinReads]

theorem test_meets_CopyEngineSteps_peer :
    (pieceResolve (sealedSource none (List.replicate 32 0)) ⟨0, 0⟩ (decA none).src 32 .load).toOption = some (.peer 0xC000400000000000) := by decide

/-- A binding of one block at device address 64 of slice 0, with one subscriber, and its engine. -/
def bindA (norm twin : Bool) : Binding :=
  { rule := 0, norm := norm, twin := twin, rsr := false, slabs := 1, fmt := 0, beta1 := 0, beta2 := 0, eps := 0, decay := 0, omb1 := 0, omb2 := 0
    subs := [(0, 4096)], norms := none, command := none, blocks := [⟨0, 64, .clear⟩] }

def cellar (norm twin : Bool) (e : Engine) : State :=
  { at0 with bindings := [(0, bindA norm twin)], engines := [(0, { e with cap := some 0 })] }

theorem test_meets_CellarSteps_doorbell : Serves (cellar false false { bells := [.block 0 5] }) (bindA false false) ∧
    (engineAt (cellar false false { bells := [.block 0 5] }) 0).bells = .block 0 5 :: [] ∧ (bindA false false).blocks[0]? = some ⟨0, 64, .clear⟩ ∧
    (engineAt (cellar false false { bells := [.command 1 0 5] }) 0).bells = .command 1 0 5 :: [] := by
  decide

/-- Window address 48 lies in the intake of a block with an event that is not taken yet. -/
def atIntake : State :=
  let s := windowed 0x0F (64 + intakeOffset (bindA false false)) (putsX12 48 5)
  { s with bindings := [(0, bindA false false)], engines := [(0, { bells := [.block 0 5], cap := some 0 })] }

theorem test_meets_Atomics_blocked : ∃ i r p, atomRow i = some r ∧ AtomReady atIntake r ∧ AtomOk atIntake r p ∧ placeBlocked atIntake p r.bytes = true ∧
    loadEntries atIntake atIntake.cur.core < 256 :=
  ⟨.atomAdd 3 1 2 false .d .die, _, .mem 0 (64 + intakeOffset (bindA false false) + 48) .clear, rfl, ⟨by decide, by decide, nofun, nofun⟩,
    ⟨by decide, rfl, nofun, nofun, by decide, by decide⟩, by decide, by decide⟩

/-- A header of step `n` for block 0. -/
def gradHeader (n : Nat) : List Byte := leBytes 8 n ++ List.replicate 56 0

theorem test_meets_CellarSteps_gradient :
    let s : Nat → State := fun n => cellar false false { jobs := [.gradient 0 (BitVec.ofNat 64 n) (gradHeader n) [] false] }
    Serves (s 66) (bindA false false) ∧ (engineAt (s 66) 0).jobs = .gradient 0 66 (gradHeader 66) [] false :: [] ∧ (bindA false false).norm = false ∧
      returnRoom (bindA false false) (engineAt (s 66) 0) = true ∧ leNat ((gradHeader 66).take 8) = 66 ∧ headField (s 1) ⟨0, 64, .clear⟩ 0 8 = 0 ∧
      leNat (((gradHeader 1).drop 8).take 2) = 0 ∧ leNat (((gradHeader 1).drop 10).take 1) ≤ 1 ∧ leNat (((gradHeader 1).drop 11).take 1) = 0 ∧
      leNat (((gradHeader 1).drop 24).take 40) = 0 ∧ (1 : Word).getLsbD 63 = false ∧ (BitVec.intMin 64).getLsbD 63 = true := by decide

theorem test_meets_CellarSteps_late :
    let s : State := { cellar false false {} with mem := { cells := [(64, 7)] } }
    headField s ⟨0, 64, .clear⟩ 0 8 = 7 ∧ leNat ((gradHeader 7).take 8) = 7 ∧ leNat ((gradHeader 6).take 8) < 7 ∧ leNat ((gradHeader 8).take 8) = 7 + 1 ∧
      7 + 2 ≤ leNat ((gradHeader 9).take 8) ∧ leNat ((gradHeader 72).take 8) < 7 + 66 ∧ 7 + 66 ≤ leNat ((gradHeader 73).take 8) := by decide

/-- The next step in norm mode: staged already; with its CLIP known; without. -/
theorem test_meets_CellarSteps_norm :
    let s : Engine → State := fun e => cellar true false { e with jobs := [.gradient 0 1 (gradHeader 1) [] false] }
    let u : State := { s {} with mem := { cells := [(112, 1)] } }
    Serves (s {}) (bindA true false) ∧ (bindA true false).norm = true ∧ leNat ((gradHeader 1).take 8) = headField (s {}) ⟨0, 64, .clear⟩ 0 8 + 1 ∧
      headField u ⟨0, 64, .clear⟩ 0x30 8 = 1 ∧ headField u ⟨0, 64, .clear⟩ 0 8 = 0 ∧ headField (s {}) ⟨0, 64, .clear⟩ 0x30 8 ≠ 1 ∧
      (engineAt (s { clip := some (1, 0x3F800000) }) 0).clip.filter (fun c => c.1.toNat == 1) = some (1, 0x3F800000) ∧
      (engineAt (s {}) 0).clip.filter (fun c => c.1.toNat == 1) = none := by decide

theorem test_meets_CellarSteps_commands : Serves (cellar true true { jobs := [.command 1 0x3F800000 4] }) (bindA true true) ∧
    returnRoom (bindA true true) (engineAt (cellar true true { jobs := [.command 1 0x3F800000 4] }) 0) = true ∧
    (engineAt (cellar true true { jobs := [.command 1 0x3F800000 4] }) 0).jobs = .command 1 0x3F800000 4 :: [] ∧ (bindA true true).norm = true ∧
    (engineAt (cellar true true { jobs := [.command 2 0 0] }) 0).jobs = .command 2 0 0 :: [] ∧ (bindA true true).twin = true ∧
    (bindA false false).norm = false ∧ (bindA false false).twin = false := by decide

/-- Blocks that a command has still to look at, of CLIP the staged ones of its step: one, and none. -/
theorem test_meets_CellarSteps_left :
    let s : State := { cellar true true {} with mem := { cells := [(92, 1), (112, 4)] } }
    let staged : State → Nat × Block → Bool := fun s k =>
      decide (0 ≤ k.1) && (headField s k.2 0x30 8 == (4 : Word).toNat && headField s k.2 0x1C 4 % 2 == 1)
    (shard s (bindA true true) 0).find? (staged s) = some (0, ⟨0, 64, .clear⟩) ∧
      (shard s (bindA true true) 0).find? (staged (cellar true true {})) = none ∧
      (shard s (bindA true true) 0).find? (fun k => decide (0 ≤ k.1) && true) = some (0, ⟨0, 64, .clear⟩) ∧
      (shard s (bindA true true) 0).find? (fun k => decide (1 ≤ k.1) && true) = none := by decide

/-- A return that waits to depart. -/
def returnA : Return := { no := 0, sub := some 0, block := 0, dst := 0, seq := 0, data := [], value := 0 }

theorem test_meets_CellarSteps_depart :
    let s := { cellar false false { returns := [returnA] } with now := 500000 * Config.nanosecond }
    Serves s (bindA false false) ∧ (engineAt s 0).cap = some 0 ∧
      (engineAt s 0).returns.find? (fun r => decide (sget (engineAt s 0).bound (engineAt s 0).used (seqKey r.sub r.block r.seq) + tReuse s ≤ s.now)) =
        some returnA := by decide

/-! #### Capsules, the outside, management -/

/-- Host ring 0 at BAR2 offset 0, enabled and scanned, with one entry for the record at `target`, a multiple of 256, its ticket being its
counter too; memory beside it. -/
def submitted (target : Nat) (m : SMap Byte) : State :=
  { State.reset with mem := { cells := (0x41, BitVec.ofNat 8 (target / 256)) :: (0x48, 0x58) :: (0x58, 1) :: m }
                     hub := { State.reset.hub with run := true, jhead := 1, rings := [(0, { on := true })], scanning := [(0, true)] } }

/-- Its entry. -/
def entryA (target : Nat) : Taken := { ring := 0, target := target, key := .clear, counter := 0x58, cookie := 0, world := none }

/-- A payload of zeros. -/
def payloadA : Payload := ⟨0, 0, 0, 0, 0, []⟩

/-- A record of tile tasks along one axis, with code and key handle in its one extent: what differs from one to the next. -/
structure Submission where
  version : Nat := 1
  flags : Nat := 0
  seqWord : Nat := 0
  tiles : Nat := 1
  chain : Nat := 0
  rights : Nat := 5
  /-- its tag is that of its seal -/
  good : Bool := true
  /-- the worlds that are open -/
  worlds : List (Nat × World) := []
  /-- the entries that waited while a world closed -/
  late : List Late := []

/-- The header up to its nonce. -/
def Submission.head (v : Submission) : List Byte :=
  leBytes 4 0x53504143 ++ leBytes 2 v.version ++ leBytes 2 v.flags ++ List.replicate 8 0 ++ leBytes 8 0x1000 ++ leBytes 8 v.seqWord
    ++ List.replicate 8 0 ++ leBytes 8 0x1000 ++ leBytes 4 0 ++ leBytes 4 0xFFFFFFFF ++ leBytes 4 0xFFFFFFFF ++ leBytes 2 1 ++ leBytes 2 0
    ++ List.replicate 32 0 ++ ([v.tiles, 1, 1, 1, 1, 1, v.tiles, 1, 1].map (leBytes 4)).flatten ++ [1, 1, 0, 0] ++ leBytes 8 0x01010101
    ++ List.replicate 128 0 ++ leBytes 4 0xFFFFFFFF ++ List.replicate 4 0 ++ leBytes 8 v.chain

/-- The extent entry: window and target in device memory. -/
def Submission.ext (v : Submission) : List Byte := leBytes 8 0x1000 ++ leBytes 8 0x800 ++ leBytes 8 0x800 ++ leBytes 4 v.rights ++ leBytes 4 0

/-- The tag of its seal under a key of zeros, which no proof here computes. -/
def Submission.sealTag (v : Submission) : List Byte := gmac (beBytes 32 payloadA.sealKey.toNat) (List.replicate 16 0) (v.head ++ v.ext)

/-- The tag that it carries: that one, or another in the first byte. -/
def Submission.tag (v : Submission) : List Byte :=
  (List.range 16).map fun i => if v.good = false ∧ i = 0 then v.sealTag.getD 0 0 + 1 else v.sealTag.getD i 0

def Submission.bytes (v : Submission) : List Byte := v.head ++ List.replicate 16 0 ++ v.tag ++ v.ext

/-- Bytes at `k` onwards as memory lists them. -/
def listed (k : Nat) : List Byte → SMap Byte
  | [] => []
  | b :: t => (k, b) :: listed (k + 1) t

/-- What memory lists: the ring's entry, and the record at device address 0x1000. -/
def Submission.cells (v : Submission) : SMap Byte := [(0x41, 0x10), (0x48, 0x58), (0x58, 1)] ++ listed 0x1000 v.bytes

/-- The state with that memory, and the record's handle, a page of zeros, in the handle cache. -/
def Submission.state (v : Submission) : State :=
  let s := submitted 0x1000 []
  { s with mem := { cells := v.cells }
           hub := { s.hub with handles := [⟨digest256 (List.replicate 1696 0), payloadA⟩], worlds := v.worlds, late := v.late } }

/-- The record as it is read. -/
def Submission.record (v : Submission) : Record := parseRecord v.bytes

/-- The state when its entry is taken. -/
def Submission.taken (v : Submission) : State := Sys2Proof.taken v.state (entryA 0x1000)

/-- A state with nothing in memory but plain bytes. -/
theorem plain_read (m : Memory) (C : SMap Byte) (h : m = { cells := C }) : ∀ n k, m.read .clear n k = (List.range' k n).map (sget 0 C) := by
  subst h
  intro n
  induction n with
  | zero => intro k; rfl
  | succ n ih =>
    intro k
    rw [List.range'_succ, List.map_cons, Memory.read, ih]
    congr 1
    unfold Memory.byte Memory.keyAt Memory.raw
    simp [sget, unwritten]

theorem plain_target (s : State) (C : SMap Byte) (h : s.mem = { cells := C }) (a n : Nat) (t : targetOk s 0 a n = true) (b : a < 2 ^ 60) :
    readTarget s 0 a .clear n = some ((List.range' a n).map (sget 0 C)) := by
  unfold readTarget
  rw [if_neg (by rw [t]; decide), if_neg (by decide), if_neg (by rw [h]; simp [Memory.anyPoison, sget]), plain_read s.mem C h]
  rw [memKey, Nat.zero_mul, Nat.zero_add, Nat.mod_eq_of_lt b]

/-- The record at a device address, read. -/
theorem plain_record (s : State) (C : SMap Byte) (h : s.mem = { cells := C }) (e : Taken) (k : e.key = .clear) (a : e.target % 64 = 0)
    (b : e.target < 2 ^ 60) (bs : List Byte) (r : (List.range' e.target 0x140).map (sget 0 C) = bs.take 0x140) (n : 0x140 + 32 * fieldOf (bs.take 0x140) 0x3C 2 = bs.length)
    (q : (List.range' e.target bs.length).map (sget 0 C) = bs) (t : targetOk s 0 e.target 0x140 = true) (u : targetOk s 0 e.target bs.length = true) :
    readRecord s e = some (parseRecord bs) := by
  unfold readRecord
  simp only [Nat.div_eq_of_lt b, Nat.mod_eq_of_lt b, k]
  rw [if_neg (by simp [a]), plain_target s C h _ _ t b, Option.bind_some, r, n, plain_target s C h _ _ u b, q, Option.map_some]

/-- Bytes that memory lists read as they are. -/
theorem listed_read (bs : List Byte) : ∀ k n, n ≤ bs.length → (List.range' k n).map (sget 0 (listed k bs)) = bs.take n := by
  induction bs with
  | nil => intro k n h; simp only [List.length_nil, Nat.le_zero] at h; subst h; rfl
  | cons b t ih =>
    intro k n h
    cases n with
    | zero => rfl
    | succ n =>
      rw [List.range'_succ, List.map_cons, List.take_succ_cons, listed, ← ih (k + 1) n (by simpa using h)]
      congr 1
      · exact if_pos rfl
      · refine List.map_congr_left fun j hj => ?_
        have := (List.mem_range'_1.1 hj).1
        exact if_neg (by omega)

/-- Bytes listed below are passed over. -/
theorem sget_append (C D : SMap Byte) (lo : Nat) (z : ∀ p ∈ C, p.1 < lo) (k : Nat) (h : lo ≤ k) : sget 0 (C ++ D) k = sget 0 D k := by
  induction C with
  | nil => rfl
  | cons p t ih =>
    have := z p (by simp)
    rw [List.cons_append, sget, if_neg (by omega)]
    exact ih fun q hq => z q (by simp [hq])

theorem under_read (C : SMap Byte) (k : Nat) (bs : List Byte) (z : ∀ p ∈ C, p.1 < k) (n : Nat) (h : n ≤ bs.length) :
    (List.range' k n).map (sget 0 (C ++ listed k bs)) = bs.take n := by
  rw [← listed_read bs k n h]
  exact List.map_congr_left fun j hj => sget_append C _ k z j (List.mem_range'_1.1 hj).1

theorem aesWith_length (ks : List (List Byte)) (b : List Byte) (h : (ks.tail.getLastD []).length = 16 ∧ ks ≠ []) : (aesWith ks b).length = 16 := by
  cases ks with
  | nil => exact absurd rfl h.2
  | cons k r => simpa [aesWith, xorBytes, shiftRows] using (show (r.getLastD []).length = 16 from h.1).ge

/-- A tag has 16 bytes. -/
theorem gmac_length (key : List Byte) (h : ((aesKeys key).tail.getLastD []).length = 16 ∧ aesKeys key ≠ []) (iv aad : List Byte) :
    (gmac key iv aad).length = 16 := by
  unfold gmac gcmSeal gcmTag
  have b : ∀ n, (beBytes 16 n).length = 16 := fun n => by simp [beBytes, leBytes]
  simp only [xorBytes, List.length_zipWith, b, aesWith_length _ _ h, Nat.min_self]

theorem sealTag_length (v : Submission) : v.sealTag.length = 16 := gmac_length _ (by decide +kernel) _ _

theorem getD_self (l : List Byte) (h : l.length = 16) : ((List.range 16).map fun i => l.getD i 0) = l := by
  refine List.ext_getElem (by simp [h]) fun i a b => ?_
  simp [List.getD_eq_getElem?_getD, b]

theorem tag_of_seal (v : Submission) : (v.sealTag = v.tag) ↔ v.good = true := by
  have l := sealTag_length v
  constructor
  · intro h
    by_contra hs
    have := congrArg (fun x => x.getD 0 0) h
    simp [Submission.tag, hs] at this
  · intro h
    simpa [Submission.tag, h] using (getD_self _ l).symm

theorem zero_outside (C : SMap Byte) (lo hi : Nat) (z : ∀ p ∈ C, p.1 < lo ∨ hi ≤ p.1) (k : Nat) (a : lo ≤ k) (b : k < hi) : sget 0 C k = 0 := by
  induction C with
  | nil => rfl
  | cons p t ih =>
    unfold sget
    have := z p (by simp)
    rw [if_neg (by omega)]
    exact ih fun q hq => z q (by simp [hq])

theorem zeros_outside (C : SMap Byte) (lo hi : Nat) (z : ∀ p ∈ C, p.1 < lo ∨ hi ≤ p.1) (n a : Nat) (l : lo ≤ a) (m : a + n ≤ hi) :
    (List.range' a n).map (sget 0 C) = List.replicate n 0 := by
  apply List.eq_replicate_iff.2
  refine ⟨by simp, fun b h => ?_⟩
  obtain ⟨k, hk, rfl⟩ := List.mem_map.1 h
  have := List.mem_range'_1.1 hk
  exact zero_outside C lo hi z k (by omega) (by omega)

theorem serase_above (C : SMap Byte) (k : Nat) (z : ∀ p ∈ C, k < p.1) : serase C k = C := by
  induction C with
  | nil => rfl
  | cons p t ih =>
    have := z p (by simp)
    rw [serase, if_neg (by omega), ih fun q hq => z q (by simp [hq])]

theorem listed_above (bs : List Byte) : ∀ k, ∀ p ∈ listed k bs, k ≤ p.1 := by
  induction bs with
  | nil => exact fun k p h => nomatch h
  | cons b t ih =>
    intro k p h
    rcases List.mem_cons.1 h with rfl | h
    · exact Nat.le_refl _
    · exact Nat.le_of_succ_le (ih (k + 1) p h)

/-- The read index goes from 0 to 1. -/
theorem index_write (C : SMap Byte) (z : ∀ p ∈ C, 16 ≤ p.1) :
    ({ cells := C } : Memory).write 8 (leBytes 8 1) .clear false = { cells := (8, 1) :: C } := by
  have e : ∀ k < 16, serase C k = C := fun k h => serase_above C k fun p hp => Nat.lt_of_lt_of_le h (z p hp)
  have b : leBytes 8 1 = [1, 0, 0, 0, 0, 0, 0, 0] := by decide
  have q : sput C 8 (1 : Byte) = (8, 1) :: C := by
    cases C with
    | nil => rfl
    | cons p t =>
      have := z p (by simp)
      rw [sput, if_neg (by omega), if_pos (by omega)]
  simp only [Memory.write, Memory.writeGo, Memory.writeOne, b, Memory.notePast, sget, plainAt, Memory.keyAt]
  simp only [putBytes, List.take]
  simp [sset, unwritten, serase, e, show sput C 8 1#8 = (8, 1#8) :: C from q]

theorem cells_above (v : Submission) : ∀ p ∈ v.cells, 16 ≤ p.1 :=
  List.forall_mem_append.2 ⟨by decide, fun p h => Nat.le_trans (by decide) (listed_above _ _ p h)⟩

theorem hostWrite_mem (s : State) (a : Nat) (d : List Byte) (h : s.bindings = []) : (hostWrite s a d).mem = s.mem.write (memKey 0 a) d .clear false := by
  simp [hostWrite, landMem, h]

theorem taken_mem (v : Submission) : v.taken.mem = { cells := (8, 1) :: v.cells } := by
  have m : (endScans v.state).mem = { cells := v.cells } := by simp only [endScans, Submission.state]
  have r : hostRead (endScans v.state) 8 8 = List.replicate 8 0 := by
    rw [hostRead, plain_read _ _ m]
    exact zeros_outside _ 8 16 (fun p h => Or.inr (cells_above v p h)) 8 8 (by decide) (by decide)
  have b : (ringAt (endScans v.state) 0).base = 0 := by simp only [ringAt, endScans, Submission.state, submitted]; rfl
  have l : (endScans v.state).bindings = [] := by simp only [endScans, Submission.state, submitted]; rfl
  have u : v.taken.mem = (hostWrite (endScans v.state) 8 (leBytes 8 (leNat (hostRead (endScans v.state) 8 8) + 1))).mem := by
    simp only [Submission.taken, Sys2Proof.taken, takeEntry, entryA, touchTarget, b]
    rfl
  rw [u, r, hostWrite_mem _ _ _ l, m]
  exact index_write _ (cells_above v)

theorem leBytes_length (n : Nat) : ∀ v, (leBytes n v).length = n := by
  induction n with
  | zero => intro v; rfl
  | succ n ih => intro v; simp [leBytes, ih]

theorem flat_length (l : List Nat) : ((l.map (leBytes 4)).flatten).length = 4 * l.length := by
  induction l with
  | nil => rfl
  | cons a t ih => simp [leBytes_length, ih]; omega

theorem head_length (v : Submission) : v.head.length = 288 := by
  unfold Submission.head
  repeat rw [List.length_append]
  simp only [leBytes_length, flat_length, List.length_replicate, List.length_cons, List.length_nil]

theorem ext_length (v : Submission) : v.ext.length = 32 := by simp [Submission.ext, leBytes_length]

theorem tag_length (v : Submission) : v.tag.length = 16 := by simp [Submission.tag]

theorem bytes_length (v : Submission) : v.bytes.length = 352 := by simp [Submission.bytes, head_length, ext_length, tag_length]

/-- The parts of the record that its seal is about. -/
theorem record_parts (v : Submission) : v.record.sealed = v.head ++ v.ext ∧ v.record.tag = v.tag ∧ v.record.nonce = List.replicate 16 0 := by
  have h := head_length v
  have t := tag_length v
  refine ⟨?_, ?_, ?_⟩ <;> simp [Submission.record, parseRecord, Submission.bytes, List.take_append, List.drop_append, h, t]

theorem seal_of_record (v : Submission) : sealOk payloadA v.record = v.good := by
  obtain ⟨a, b, c⟩ := record_parts v
  unfold sealOk
  rw [a, b, c]
  exact Bool.eq_iff_iff.2 (beq_iff_eq.trans (tag_of_seal v))

/-- The handle's bytes: none of them is written. -/
theorem plain_handle (s : State) (C : SMap Byte) (h : s.mem = { cells := C }) (r : Record) (n : BitVec 32) (f : r.keyHandle = 0x1000)
    (c : oneCover s r r.keyHandle (fun e => e.r && e.keysel == 0 && !e.i) = some ⟨0x1000, 0x800, 0, 0x800, n, 0, 0⟩)
    (z : ∀ p ∈ C, p.1 < 0x800 ∨ 0x1000 ≤ p.1) (t : targetOk s 0 0x800 8 = true) (u : targetOk s 0 0x800 1696 = true) :
    handleBytes s r = some (List.replicate 1696 0) := by
  have v := plain_target s C h 0x800 8 t (by decide)
  have w := plain_target s C h 0x800 1696 u (by decide)
  rw [zeros_outside C 0x800 0x1000 z _ _ (by decide) (by decide)] at v w
  have m : fieldOf (List.replicate 8 0) 6 2 = 0 := by decide
  unfold handleBytes
  rw [c, f]
  have e : targetIn ⟨0x1000, 0x800, 0, 0x800, n, 0, 0⟩ (0x1000 : Word).toNat = 0x800 := by simp [targetIn]
  simp only [e, v, w, Option.bind_some, m]
  rfl

theorem handle_of_cached (s : State) (r : Record) (bs : List Byte) (h : handleBytes s r = some bs) (c : s.hub.handles = [⟨digest256 bs, payloadA⟩]) :
    fetchHandle s r = some (s, digest256 bs, payloadA) := by
  unfold fetchHandle
  rw [h]
  simp only [Option.bind_some, c, List.find?_cons, beq_self_eq_true, List.filter_cons, bne_self_eq_false, Bool.false_eq_true, if_false,
    List.filter_nil, List.nil_append]
  congr 1
  congr 1
  obtain ⟨_, _, _, _, _, _, _, _, hub⟩ := s
  obtain ⟨⟩ := hub
  simp_all

/-- What of the entry, its record and its handle can be computed without the tag. -/
abbrev Submission.Plain (v : Submission) : Prop :=
  Takes v.state (entryA 0x1000) ∧ 0x140 + 32 * fieldOf (v.bytes.take 0x140) 0x3C 2 = 352 ∧ (∀ n ∈ [320, 352], targetOk v.taken 0 0x1000 n = true) ∧
    (∀ n ∈ [8, 1696], targetOk v.taken 0 0x800 n = true) ∧ v.record.keyHandle = 0x1000 ∧
    oneCover v.taken v.record v.record.keyHandle (fun e => e.r && e.keysel == 0 && !e.i) = some ⟨0x1000, 0x800, 0, 0x800, BitVec.ofNat 32 v.rights, 0, 0⟩

/-- Its entry is taken, its record read, its handle found, and its seal holds where the tag is the right one. -/
theorem plain_parts (v : Submission) (h : v.Plain) : Takes v.state (entryA 0x1000) ∧ readRecord v.taken (entryA 0x1000) = some v.record ∧
    fetchHandle v.taken v.record = some (v.taken, digest256 (List.replicate 1696 0), payloadA) ∧ sealOk payloadA v.record = v.good := by
  obtain ⟨a, n, t, u, k, o⟩ := h
  have m := taken_mem v
  have l := bytes_length v
  have z : ∀ p ∈ (8, (1 : Byte)) :: [(0x41, 0x10), (0x48, 0x58), (0x58, 1)], p.1 < 0x800 := by decide
  refine ⟨a, plain_record _ _ m (entryA 0x1000) rfl rfl (by decide) _ (under_read _ _ _ (fun p hp => Nat.lt_of_lt_of_le (z p hp) (by decide)) _ (by omega))
    (n.trans l.symm) ?_ (t _ (by simp)) (l ▸ t _ (by simp)), handle_of_cached _ _ _ (plain_handle _ _ m _ _ k o ?_ (u _ (by simp)) (u _ (by simp))) ?_, seal_of_record v⟩
  · exact (under_read _ _ _ (fun p hp => Nat.lt_of_lt_of_le (z p hp) (by decide)) _ (by omega)).trans List.take_length
  · intro p hp
    rcases List.mem_append.1 (show p ∈ ((8, (1 : Byte)) :: [(0x41, 0x10), (0x48, 0x58), (0x58, 1)]) ++ listed 0x1000 v.bytes from hp) with hp | hp
    · exact Or.inl (z p hp)
    · exact Or.inr (listed_above _ _ p hp)
  · simp only [Submission.taken, Sys2Proof.taken, takeEntry, hostWrite, landMem, entryA, touchTarget, Submission.state, endScans]
    rfl

theorem test_meets_Acceptance_rings : (ringAt (submitted 1 []) 0).on = true ∧ (submitted 1 []).hub.run = true ∧
    (submitted 1 []).arg.ring < 64 ∧ (ringAt at0 0).on = false ∧ at0.hub.run = false := by decide

/-- A ring that is mapped, whose zeros can be written; one whose indices lie in an intake with an event that is not taken yet. -/
theorem test_meets_Acceptance_reset : ringMapped (submitted 1 []) (ringAt (submitted 1 []) 0) = true ∧ resetWaits (submitted 1 []) 0 = false ∧
    (let r : Ring := { base := 64 + intakeOffset (bindA false false) }
     resetWaits { atIntake with hub := { atIntake.hub with rings := [(0, r)] } } 0 = true) := by decide

/-- A world that is closing; a full journal; and nothing in the rings. -/
theorem test_meets_Acceptance_waits : closingWorlds (flying [] {}) ≠ [] ∧ closingWorlds State.reset = [] ∧
    journalOpen { State.reset with hub := { State.reset.hub with jhead := 1024 } } = false ∧ queueFull State.reset = false ∧
    journalOpen State.reset = true ∧ nextEntry (endScans State.reset) = none := by decide +kernel

/-- An entry at an address that is no multiple of 64. -/
def oddEntry : State := { submitted 0 [] with mem := { cells := [(0x40, 1), (0x48, 0x58), (0x58, 1)] } }

theorem test_meets_Acceptance_unread : Takes oddEntry (entryA 1) ∧ readRecord (taken oddEntry (entryA 1)) (entryA 1) = none := by decide

theorem test_meets_Acceptance_handle : let s := submitted 0x1000 []
    Takes s (entryA 0x1000) ∧
      ∃ r, readRecord (taken s (entryA 0x1000)) (entryA 0x1000) = some r ∧ fetchHandle (taken s (entryA 0x1000)) r = none :=
  ⟨by decide +kernel, _, plain_record _ [(8, 1), (0x41, 0x10), (0x48, 0x58), (0x58, 1)] (by decide +kernel) _ rfl rfl (by decide) (List.replicate 320 0)
    (by decide +kernel) (by decide +kernel) (by decide +kernel) (by decide +kernel) (by decide +kernel), by decide +kernel⟩

/-- One record for each code of 08 Table 8-5 from the seal on, and last the one that is accepted. -/
def badSeal : Submission := { good := false }
def oldEpoch : Submission := { chain := 1, worlds := [(0, { worldA with tag := worldTag payloadA.rootKey, chain := 1, epoch := 1, live := 1 })] }
def lateEpoch : Submission := { chain := 1, late := [⟨0, 1, worldTag payloadA.rootKey, 1, 0⟩] }
def oddSequence : Submission := { seqWord := 1 }
def badRights : Submission := { rights := 7 }
def badVersion : Submission := { version := 2 }
def notYet : Submission := { flags := 16 }
def tooMany : Submission := { flags := 1, tiles := 4096 }

theorem plain_submissions : ∀ v ∈ [badSeal, oldEpoch, lateEpoch, oddSequence, badRights, badVersion, notYet, tooMany, {}], v.Plain := by
  repeat refine List.forall_mem_cons.2 ⟨by decide +kernel, ?_⟩
  exact nofun

theorem test_meets_Acceptance_epoch : epochWrong oldEpoch.taken payloadA oldEpoch.record = true := by
  have c : oldEpoch.record.chain = 1 := by decide +kernel
  have w : oldEpoch.taken.hub.worlds = oldEpoch.worlds := by
    simp only [Submission.taken, Sys2Proof.taken, takeEntry, hostWrite, landMem, entryA, touchTarget, Submission.state, endScans]
    rfl
  unfold epochWrong worldOf worldAt
  rw [c, w, oldEpoch]
  simp [sfind]
  decide

/-- An entry that waited while the world of its EPOCH closed. -/
theorem test_meets_Acceptance_closed : epochClosed lateEpoch.taken (entryA 0x1000) payloadA lateEpoch.record = true := by
  have c : lateEpoch.record.chain = 1 := by decide +kernel
  have w : lateEpoch.taken.hub.late = lateEpoch.late := by
    simp only [Submission.taken, Sys2Proof.taken, takeEntry, hostWrite, landMem, entryA, touchTarget, Submission.state, endScans]
    rfl
  unfold epochClosed
  rw [c, w, lateEpoch]
  simp [entryA]
  decide

/-- The checks from the sequence word on, of a record whose sequence word is left alone. -/
abbrev Submission.Checks (v : Submission) (a b c d : Bool) : Prop :=
  epochWrong v.taken payloadA v.record = false ∧ epochClosed v.taken (entryA 0x1000) payloadA v.record = false ∧ v.record.seqWord = 0 ∧
    extentsOk v.taken payloadA v.record = a ∧ let y := bindingRead v.taken payloadA v.record
    formatOk y (entryA 0x1000) payloadA v.record = b ∧ stillPending y (entryA 0x1000) v.record = c ∧ cohortFits y v.record = d

theorem test_meets_Acceptance_checks : epochWrong oddSequence.taken payloadA oddSequence.record = false ∧
    epochClosed oddSequence.taken (entryA 0x1000) payloadA oddSequence.record = false ∧
    swapSequence oddSequence.taken payloadA oddSequence.record = none ∧ badRights.Checks false true false true ∧
    badVersion.Checks true false false true ∧ notYet.Checks true true true true ∧ tooMany.Checks true true false false ∧
    ({} : Submission).Checks true true false true := by
  refine ⟨?_, ?_, ?_, ?_, ?_, ?_, ?_, ?_⟩ <;> decide +kernel

/-- The seal's clause, and the one of a record that passes every check, with all that comes before. -/
theorem test_meets_Acceptance : (∃ r w d p, Takes badSeal.state (entryA 0x1000) ∧ readRecord (taken badSeal.state (entryA 0x1000)) (entryA 0x1000) = some r ∧
      fetchHandle (taken badSeal.state (entryA 0x1000)) r = some (w, d, p) ∧ sealOk p r = false) ∧
    ∃ s r w x d p, Takes s (entryA 0x1000) ∧ readRecord (taken s (entryA 0x1000)) (entryA 0x1000) = some r ∧
      fetchHandle (taken s (entryA 0x1000)) r = some (w, d, p) ∧ sealOk p r = true ∧ epochWrong w p r = false ∧ epochClosed w (entryA 0x1000) p r = false ∧
      swapSequence w p r = some x ∧ extentsOk x p r = true ∧ formatOk (bindingRead x p r) (entryA 0x1000) p r = true ∧
      stillPending (bindingRead x p r) (entryA 0x1000) r = false ∧ cohortFits (bindingRead x p r) r = true := by
  obtain ⟨a, b, c, d⟩ := plain_parts badSeal (plain_submissions _ (by simp))
  obtain ⟨e, f, g, h⟩ := plain_parts {} (plain_submissions _ (by simp))
  obtain ⟨i, o, j, k, l, m, n⟩ := test_meets_Acceptance_checks.2.2.2.2.2.2.2
  exact ⟨⟨_, _, _, _, a, b, c, d⟩, _, _, _, _, _, _, e, f, g, h, i, o, if_pos j, k, l, m, n⟩

/-- A capsule of one tile task: its record, changed by `f`, and its standing, changed by `g`. -/
def capB (f : Record → Record) (g : Capsule → Capsule) : Capsule :=
  let es : List Extent := [⟨0x1000, 0x800, 0, 0x800, 5, 0, 0⟩, ⟨0x2000, 0x800, 0, 0x4000, 3, 0, 0⟩]
  g { capA 0xFFFFFFFF with info := f { recA 0xFFFFFFFF with gang := 1, threads := 1, extents := es } }

/-- The state after reset with capsules in world 0, at a time. -/
def holdingAll (cs : List Capsule) (now : Nat) : State :=
  { State.reset with now := now
                     hub := { State.reset.hub with jhead := 1, worlds := [(0, { worldA with live := 2 })], capsules := cs.zipIdx.map fun p => (p.2, p.1) } }

theorem test_meets_Dispatching_place : ∃ s u v n c, chooseCapsule (toPlace s) = (u, some (n, c)) ∧ placeNext u n c s.arg.homes s.arg.pools = some v ∧
    c.info.flags.getLsbD 0 = false ∧ c.resume = [] := by
  let s := holdingAll [capB id id] 0
  have h : ((chooseCapsule (toPlace s)).2.map fun p =>
      (p.2.info.flags.getLsbD 0, p.2.resume, (placeNext (chooseCapsule (toPlace s)).1 p.1 p.2 s.arg.homes s.arg.pools).isSome)) =
      some (false, [], true) := by decide +kernel
  obtain ⟨⟨n, c⟩, a, b⟩ := Option.map_eq_some_iff.1 h
  simp only [Prod.mk.injEq] at b
  obtain ⟨v, e⟩ := Option.isSome_iff_exists.1 b.2.2
  exact ⟨s, _, v, n, c, Prod.ext rfl a, e, b.1, b.2.1⟩

/-- A slot of a waiting capsule that has been bound for 3 microseconds. -/
theorem test_meets_Dispatching_charge : let t := { at0 with now := 3 * microsecond }
    let s := { t with hub := { t.hub with capsules := [(0, capB id id)] } }
    (boundSlots s).Nodup ∧ 0 ∈ waitingRings s ∧ 1 ∉ waitingRings s ∧ chargeOf s 0 = 3 := by decide +kernel

theorem test_meets_Dispatching_cohort : let c := capB (fun r => { r with flags := 1 }) id
    waitingCohort (ageAll (holdingAll [c] (1000000 * Config.nanosecond))) = some (0, c) := by decide

/-- A capsule whose code, 64 bytes of zeros, hashes to its record's digest, or does not. -/
def verdictCap (d : BitVec 256) : Capsule :=
  capB (fun r => { r with extents := [⟨0x1000, 64, 0, 0x800, 5, 0, 0⟩], digest := digest256 (List.replicate 64 0) + d })
    fun c => { c with verdict := true, next := 1, status := .running }

theorem test_meets_Dispatching_verdict : ∀ d ∈ [(0 : BitVec 256), 1], let s := holdingAll [verdictCap d] 0
    capAt s s.arg.cap = some (verdictCap d) ∧ (verdictCap d).verdict = true ∧ (verdictCap d).status ≠ .queued ∧
      gatherCode s s.arg.cap = s ∧ codeGathered (verdictCap d) = true ∧ codeMatches s (verdictCap d) = (d == 0) := by
  refine List.forall_mem_cons.2 ⟨⟨rfl, rfl, nofun, rfl, rfl, ?_⟩, List.forall_mem_cons.2 ⟨⟨rfl, rfl, nofun, rfl, rfl, ?_⟩, nofun⟩⟩ <;> decide +kernel

/-- A capsule whose code, or a measured extent, lies in host memory whose page is not translated. -/
def hostCap : Capsule :=
  capB (fun r => { r with extents := [⟨0x1000, 64, 2, 0x800, 5, 0, 0⟩], measure := 1 }) fun c => { c with verdict := true, next := 1, status := .running }

theorem test_meets_Dispatching_gathering : let s := { holdingAll [hostCap] 0 with hub := { (holdingAll [hostCap] 0).hub with run := true } }
    (capAt (gatherCode s 0) 0).map codeGathered = some false ∧ (capAt (gatherMeasured s 0) 0).map measureReady = some false := by decide +kernel

/-- A plain capsule, a cohort, and a capsule whose park record has group 0. -/
theorem test_meets_Dispatching_groups :
    ∀ c ∈ [capB id id, capB (fun r => { r with flags := 1 }) id,
        capB id fun c => { c with resume := [leBytes 8 0 ++ pad 3080], next := 1, status := .running }],
      let r := chooseCapsule (toPlace (holdingAll [c] 0))
      (r.2.map fun p => (p.2.info.flags.getLsbD 0, parkedGroups p.2, decide (p.2.next ≤ groupCount p.2.info),
        (placeNext r.1 p.1 p.2 [] []).isSome, decide (capAt r.1 p.1 = some p.2))) =
        some (c.info.flags.getLsbD 0, parkedGroups c, true, true, true) := by
  repeat refine List.forall_mem_cons.2 ⟨by decide +kernel, ?_⟩
  exact nofun

/-- It has placed its one task, which is over. -/
def doneCap : Capsule := capB id fun c => { c with status := .running, next := 1 }

/-- It has faulted. -/
def faultedCap (st : CapStatus) (t : Option Nat) : Capsule := capB id fun c => { c with status := st, faults := [⟨0x8100, 0, 0x1000, 0⟩], stopped := t }

/-- The same with one successor, whose counter lies in the intake of a block that takes no write now. -/
def countingCap : Capsule :=
  capB (fun r => { r with nSucc := 1, succs := [(0, 0x1000)], extents := [⟨0x1000, 0x800, 0, 64 + intakeOffset (bindA false false), 7, 0, 0⟩] })
    fun c => { c with status := .running, next := 1 }

theorem test_meets_CapsulesEnd_counters : countersWait (holdingAll [doneCap] 0) doneCap = false ∧
    countersWait { holdingAll [countingCap] 0 with bindings := [(0, bindA false false)], engines := [(0, { bells := [.block 0 5], cap := some 0 })] }
      countingCap = true := by decide

theorem test_meets_CapsulesEnd_completion : mayComplete (holdingAll [doneCap] 0) 0 doneCap = true ∧
    capAt (holdingAll [doneCap] 0) 0 = some doneCap ∧ mayComplete (holdingAll [capB id id] 0) 0 (capB id id) = false := by decide +kernel

theorem test_meets_CapsulesEnd_fault : let late := holdingAll [faultedCap .faulting (some 0)] Config.lifeMax
    capAt (holdingAll [faultedCap .running none] 0) 0 = some (faultedCap .running none) ∧ halts (faultedCap .running none) = false ∧
      allStopped (holdingAll [faultedCap .faulting none] 0) 0 = true ∧ capAt (holdingAll [faultedCap .faulting none] 0) 0 = some (faultedCap .faulting none) ∧
      capAt late 0 = some (faultedCap .faulting (some 0)) ∧ captureOver late 0 (faultedCap .faulting (some 0)) = true := by decide +kernel

/-- An urgent capsule, and a running one that may be parked in its extent 1. -/
def urgent : Capsule := capB (fun r => { r with gang := 8, tiles := (8, 1, 1) }) id
def victim : Capsule := capB (fun r => { r with flags := 2, park := 1, priority := 1 }) fun c => { c with status := .running, priority := 1 }

/-- No die takes a tile task. -/
theorem test_meets_CapsulesEnd_park :
    let s := { holdingAll [urgent, victim] 0 with dies := (List.range 8).map fun d => (d, { draining := true }) }
    blockedUrgent (ageAll s) = some (0, urgent) ∧ chooseVictim (ageAll s) = some (1, victim) ∧ capAt (ageAll s) 1 = some victim ∧
      (s.hub.capsules.any fun p => p.2.status == .parking) = false := by decide +kernel

theorem test_meets_CapsulesEnd_capture :
    let c := { victim with status := .parking, stopped := some 0 }
    let d := { c with faults := [⟨0x8100, 0, 0x1000, 0⟩] }
    captureOver (holdingAll [c] Config.lifeMax) 0 c = true ∧ capAt (holdingAll [c] Config.lifeMax) 0 = some c ∧ c.faults = [] ∧
      captureOver (holdingAll [d] Config.lifeMax) 0 d = true ∧ capAt (holdingAll [d] Config.lifeMax) 0 = some d ∧ d.faults ≠ [] := by decide +kernel

/-- The records of a parked capsule and of a faulted one can be written. -/
theorem test_meets_CapsulesEnd_records :
    RecordFits (holdingAll [{ victim with status := .parking, stopped := some 0 }] Config.lifeMax) { victim with status := .parking, stopped := some 0 } 1 ∧
      RecordFits (holdingAll [faultedCap .faulting (some 0)] Config.lifeMax) (faultedCap .faulting (some 0)) (faultedCap .faulting (some 0)).info.faultq := by
  refine ⟨fun e h => ?_, fun e h => nomatch h⟩
  obtain rfl := Option.some.inj h
  decide +kernel

/-- A record of a guarded world that goes to host memory takes the tokens there are and waits for the rest; elsewhere it takes none (25 R399). -/
theorem test_record_metered :
    let s := { State.reset with hub := { State.reset.hub with worlds := [(0, { worldA with guarded := true, tokens := 100 })] } }
    let host : Extent := ⟨0x2000, 0x800, 2, 0x4000, 3, 0, 0⟩
    recordPays s victim host 128 = 100 ∧ recordUnpaid s victim host 128 = 128 ∧ recordUnpaid s { victim with paid := 100 } host 128 = 28 ∧
      recordUnpaid s victim { host with cls := 0 } 128 = 0 := by decide +kernel

/-- A capsule with a park extent at 0x4000, and memory there. -/
def parkedCap : Capsule := capB (fun r => { r with park := 1 }) id
def parkExt : Extent := ⟨0x2000, 0x800, 0, 0x4000, 3, 0, 0⟩
def parkedIn (m : List Byte) : State := { holdingAll [parkedCap] 0 with mem := { cells := listed 0x4000 m } }

/-- A record of no slot and no message under the keys of zeros, before its tag (20 Table 20-7). -/
def parkHead : List Byte :=
  leBytes 4 0x4B524150 ++ leBytes 2 1 ++ leBytes 2 1 ++ List.replicate 60 0 ++ leBytes 4 (slotSize 0x01010101) ++ List.replicate 32 0 ++ leBytes 8 128

/-- Its tag, which no proof here computes. -/
def parkTag : List Byte := (List.range 16).map fun i => (gmac (parkKey parkedCap.payload.rootKey parkedCap.info.chain) (List.replicate 12 0) parkHead).getD i 0

theorem test_meets_CapsulesEnd_resume : (∀ m ∈ [[], leBytes 4 0x4B524150, parkHead ++ parkTag], let s := parkedIn m
      capAt s 0 = some parkedCap ∧ parkedCap.info.park ≠ 0xFFFF ∧ parkedCap.checked = false ∧
        extentAt parkedCap parkedCap.info.park = some parkExt ∧ parkWaits s parkedCap parkExt = false ∧ landBlocked s parkExt.cls parkExt.target 4 = false) ∧
      readPark (parkedIn []) parkedCap parkExt = .absent ∧ readPark (parkedIn (leBytes 4 0x4B524150)) parkedCap parkExt = .bad := by
  decide +kernel

theorem parkTag_good : gmac (parkKey parkedCap.payload.rootKey parkedCap.info.chain) (List.replicate 12 0) parkHead = parkTag :=
  (getD_self _ (gmac_length _ (by decide +kernel) _ _)).symm

theorem open_empty (key iv aad tag : List Byte) (h : gmac key iv aad = tag) : gcmOpen key iv aad [] tag = some [] := by
  subst h
  unfold gcmOpen gmac gcmSeal
  exact if_pos rfl

/-- A record without slots and messages that passes the checks of 20 R332. -/
theorem empty_record (s : State) (c : Capsule) (e : Extent) (h : List Byte) (k : KeyId) (hk : extentKey c.payload c.info.chain e = k)
    (hr : readTarget s e.cls e.target k (min e.length 128) = some h) (z : readTarget s e.cls (e.target + 128) k 0 = some [])
    (n : fieldOf h 0x40 4 = 0 ∧ fieldOf h 0x48 4 = 0 ∧ fieldOf h 0x38 8 = 0 ∧ fieldOf h 0 4 = 0x4B524150)
    (f : fieldOf h 4 2 = 1 ∧ (fieldOf h 6 2 = 1 ∨ fieldOf h 6 2 = 2) ∧ (h.drop 0x10).take 32 = beBytes 32 c.info.digest.toNat ∧
      fieldOf h 0x30 8 = c.info.chain.toNat ∧ fieldOf h 0x44 4 = slotSize c.info.part ∧ fieldOf h 0x68 8 = 128 ∧ 128 ≤ e.length)
    (o : gcmOpen (parkKey c.payload.rootKey c.info.chain) ((h.drop 8).take 8 ++ pad 4) (h.take 0x70) [] ((h.drop 0x70).take 16) = some []) :
    readPark s c e = .good [] [] 0 := by
  unfold readPark
  simp only [hk, hr, n.1, n.2.1, n.2.2.1, n.2.2.2, Nat.zero_mul, Nat.mul_zero, Nat.add_zero, Nat.sub_self, z, o, ne_eq, not_true_eq_false, if_false]
  rw [if_neg (not_not.2 f)]
  rfl

theorem test_meets_CapsulesEnd_resume_good : readPark (parkedIn (parkHead ++ parkTag)) parkedCap parkExt = .good [] [] 0 := by
  have h : readTarget (parkedIn (parkHead ++ parkTag)) 0 0x4000 .clear 128 = some (parkHead ++ parkTag) := by
    rw [plain_target _ (listed 0x4000 (parkHead ++ parkTag)) rfl 0x4000 128 (by decide +kernel) (by decide), listed_read _ _ _ (by decide +kernel)]
    exact congrArg some (List.take_of_length_le (by decide +kernel))
  refine empty_record _ _ _ _ .clear (by decide) h (plain_target _ (listed 0x4000 (parkHead ++ parkTag)) rfl (0x4000 + 128) 0 (by decide +kernel) (by decide))
    (by decide +kernel) (by decide +kernel) ?_
  have p : parkHead.length = 112 := by decide
  have a : (parkHead ++ parkTag).take 0x70 = parkHead := by rw [← p, List.take_left]
  have b : ((parkHead ++ parkTag).drop 0x70).take 16 = parkTag := by rw [← p, List.drop_left]; exact List.take_of_length_le (by simp [parkTag])
  rw [a, b, show ((parkHead ++ parkTag).drop 8).take 8 ++ pad 4 = List.replicate 12 0 by decide +kernel]
  exact open_empty _ _ _ _ parkTag_good

theorem mapM_all {α β : Type} (f : α → Option β) (g : α → β) : ∀ l : List α, (∀ i ∈ l, f i = some (g i)) → l.mapM f = some (l.map g)
  | [], _ => rfl
  | a :: t, h => by
    rw [List.mapM_cons, h a List.mem_cons_self, mapM_all f g t fun i k => h i (List.mem_cons_of_mem _ k)]
    rfl

/-- A park extent in host memory, its page translated to itself, in a guarded world without tokens, and a record there. -/
def hostPark : Extent := ⟨0x2000, 0x800, 2, 0x4000, 3, 0, 0⟩
def hostParkedCap : Capsule := capB (fun r => { r with park := 1, extents := [⟨0x1000, 0x800, 0, 0x800, 5, 0, 0⟩, hostPark] }) id
def hostParked : State :=
  let s := holdingAll [hostParkedCap] 0
  { s with mem := { cells := listed (memKey 2 0x4000) (parkHead ++ parkTag) }
           hub := { s.hub with run := true, atc := [(4, ⟨some 4, true, true⟩)], worlds := [(0, { worldA with live := 2, guarded := true })] } }

theorem test_meets_CapsulesEnd_resume_waits : readPark hostParked hostParkedCap hostPark = .good [] [] 0 ∧ capAt hostParked 0 = some hostParkedCap ∧
    extentAt hostParkedCap hostParkedCap.info.park = some hostPark ∧ landBlocked hostParked 2 0x4000 4 = false ∧
    recordWaitsAt hostParked hostParkedCap hostPark 4 = true := by
  have p : parkHead.length = 112 := by decide
  have h : readTarget hostParked 2 0x4000 .clear 128 = some (parkHead ++ parkTag) := by
    have v : targetView hostParked .load 2 0x4000 128 = .ready := by decide +kernel
    have w : ∀ i ∈ List.range 128, hostByte hostParked (0x4000 + i) = some (memKey 2 0x4000 + i) := by decide +kernel
    have g := listed_read (parkHead ++ parkTag) (memKey 2 0x4000) 128 (by simp [p, parkTag])
    rw [List.take_of_length_le (by simp [p, parkTag]), List.range'_eq_map_range, List.map_map] at g
    unfold readTarget
    rw [if_neg (by decide +kernel), if_pos rfl, if_pos v, mapM_all _ (fun i => sget 0 (listed (memKey 2 0x4000) (parkHead ++ parkTag)) (memKey 2 0x4000 + i)), ← g]
    · rfl
    · intro i hi
      have b : ∀ k, hostParked.mem.byte k .clear = sget 0 (listed (memKey 2 0x4000) (parkHead ++ parkTag)) k := fun k => by
        have := plain_read hostParked.mem _ rfl 1 k
        simpa [Memory.read] using this
      rw [w i hi, Option.bind_some, if_neg (by simp [hostParked, Memory.poisoned, sget]), hostKey, b]
  refine ⟨empty_record _ _ _ _ .clear (by decide) h (by decide +kernel) (by decide +kernel) (by decide +kernel) ?_, rfl, rfl, by decide, by decide +kernel⟩
  have a : (parkHead ++ parkTag).take 0x70 = parkHead := by rw [← p, List.take_left]
  have b : ((parkHead ++ parkTag).drop 0x70).take 16 = parkTag := by rw [← p, List.drop_left]; exact List.take_of_length_le (by simp [parkTag])
  rw [a, b, show ((parkHead ++ parkTag).drop 8).take 8 ++ pad 4 = List.replicate 12 0 by decide +kernel]
  exact open_empty _ _ _ _ parkTag_good

/-- The arguments of a step. -/
def outside (a : EventArg) : State := { State.reset with arg := a }

theorem test_meets_OutsideEvents_host :
    ({ State.reset.hub with run := true } : Hub).run = true ∧ closingWorlds State.reset = [] ∧ State.reset.hub.atcOrder = [] ∧
      AtOnce (outside {}) .hostMemoryAccess ∧ (outside {}).arg.len = 0 ∧ First (outside {}) .debugRead ∧
      hostLinkUp { outside {} with hub := { State.reset.hub with links := [(104, { down := true })] } } = false ∧
      (({ outside {} with deferred := [(.hostAtomicop, {})] } : State).deferred.any fun p => ordered p.1 .hostMemoryAccess) = true ∧
      targetOk (outside { addr := 2 ^ 40 - 8, len := 8 }) 0 (2 ^ 40 - 8) 8 = true ∧ targetOk (outside { addr := 2 ^ 40 - 7, len := 8 }) 0 (2 ^ 40 - 7) 8 = false ∧
      landBlocked (outside { addr := 8, data := [1], flag := true }) 0 8 1 = false ∧
      pcieAtomic .add .d = true ∧ (outside { addr := 8, sz := .d }).arg.addr % asizeBytes .d = 0 ∧ asizeBytes .d = 8 ∧
      State.reset.mem.anyPoison (memKey 0 8) 8 = false := by decide

/-- A link in a state. -/
def linked (l : Link) (a : EventArg) : State := { outside a with hub := { State.reset.hub with links := [(0, l)] } }

theorem test_meets_OutsideEvents_links :
    (linkAt (linked { expect := 5 } { value := 5 }) 0).down = false ∧ (linkAt (linked { expect := 5 } { value := 5 }) 0).nak = false ∧
      (linkAt (linked { expect := 5 } { value := 5 }) 0).expect = 5 ∧
      (linkAt (linked { expect := 5, next := 69, nak := true } { flag := true }) 0).nak = true ∧ 69 - 5 ≤ 64 ∧ (outside {}).arg.pkts = [] ∧
      64 < (linkAt (linked { expect := 5, next := 70, nak := true } { flag := true }) 0).next - 5 ∧
      (linked { expect := 5, next := 70, nak := true } { flag := true }).arg.value ≠ 1 ∧ 105 ≤ (outside { link := 112 }).arg.link ∧
      (outside { link := 112 }).arg.link < 113 ∧ 8 ≤ (outside { link := 8 }).arg.link ∧ (outside { link := 103 }).arg.link < 104 ∧ (outside { port := 95 }).arg.port < 96 := by decide

theorem test_meets_OutsideEvents_loss : let p := { pkt .event (.task 0) with hop := .spine }
    let s := { linked {} { pkts := [3] } with net := [(3, p)] }
    (s.net.map fun p => p.1).Nodup ∧ sfind s.net 3 = some p ∧ nextLink s 0 p = some s.arg.link ∧ (p.hop ≠ .package ∨ p.climb = 0) := by decide

/-- A packet that arrives from device 1 for this device, number 2. -/
def packetB : Packet := { pkt .event (.peer 0x4000800000000000) with srcDev := 1 }

/-- The roster has this device as 2 and, where `known`, device 1; the world has seen `f`. -/
def receiving (known : Bool) (f : List Nat) : State :=
  { outside { packet := some packetB } with
    hub := { State.reset.hub with roster := ⟨2, true, ownDigest⟩ :: if known then [⟨1, true, ~~~ownDigest⟩] else []
                                  worlds := [(0, { worldA with received := [(flowOf packetB 0, ⟨f.length, f⟩)] })] } }

theorem own_of_receiving (known : Bool) (f : List Nat) : ownDevice (receiving known f) = some 2 := by
  unfold ownDevice receiving
  simp

/-- A flow to device 1 that has sent 4,096 packets just now, and memory of this device, by its number, on the issuer's die. -/
theorem test_meets_PacketsMove_flow :
    let p := { pkt (.write [1] false) (.peer 0x8000400000000000) with hop := .port 95 }
    let s := receiving true []
    let t := { s with hub := { s.hub with worlds := [(0, { worldA with sent := [(flowTo s 95 p, { times := List.replicate 4096 0 })] })] } }
    (ownDevice t).isSome = true ∧ leaves t p = true ∧ FlowFull t 95 p ∧ ¬ FlowFull s 95 p := by
  intro p s t
  have o : ownDevice t = some 2 := own_of_receiving true []
  have a : worldOfKey s p.portKey = some 0 := by decide
  refine ⟨by rw [o]; rfl, by rw [leaves, o]; decide, ⟨0, _, by decide, rfl, ?_⟩, ?_⟩
  · have f : sget ({} : SentFlow) [(flowTo s 95 p, ({ times := List.replicate 4096 0 } : SentFlow))] (flowTo t 95 p) = { times := List.replicate 4096 0 } :=
      if_pos rfl
    show 4096 ≤ ((sget ({} : SentFlow) [(flowTo s 95 p, ({ times := List.replicate 4096 0 } : SentFlow))] (flowTo t 95 p)).times.filter _).length
    rw [f]
    simp only [List.filter_replicate]
    rw [if_pos (by decide), List.length_replicate]
  · rintro ⟨w, x, hw, hx, h⟩
    obtain rfl := Option.some.inj (a.symm.trans hw)
    obtain rfl := Option.some.inj hx
    exact absurd h (by decide)

/-- A slot of the capsule of that world, with its task placed on core 0. -/
def placedOwn : State :=
  let s := receiving true []
  { s with hub := { s.hub with capsules := [(0, { capA 0 with status := .running })] }, slot := { at0.slot with capsule := some 0 } }

theorem test_meets_GlobalLoads_unit_own : UnitIs placedOwn ⟨0, 0⟩ (.peer 0x8000800000001000) 8 .load 64 ∧
    sameDie placedOwn (.peer 0x8000800000001000) = false := by
  refine ⟨⟨fun _ => rfl, fun h => absurd (.inr ⟨_, .pool 0 4096, rfl, ?_, by decide⟩) h⟩, by decide⟩
  have o : ownDevice placedOwn = some 2 := own_of_receiving true []
  unfold ownPlace
  rw [o]
  decide

theorem test_meets_OutsideEvents_ports : inRoster (receiving false []) packetB.srcDev.toNat = false ∧ ownDevice State.reset = none ∧
    (linkAt (receiving true []) (8 + (receiving true []).arg.port)).down = false ∧ packetB.seq + 4096 < (⟨4097, []⟩ : Flow).next ∧ (ownDevice (receiving true [])).isSome = true ∧
    ∀ f ∈ [[], [0]], inRoster (receiving true f) packetB.srcDev.toNat = true ∧ forUs (receiving true f) packetB = true ∧
      worldOfKey (receiving true f) packetB.portKey = some 0 ∧ packetB.intact = true ∧
      (worldAt (receiving true f) 0).map (fun w => sget ⟨0, []⟩ w.received (flowOf packetB (receiving true f).arg.port)) = some ⟨f.length, f⟩ ∧
      (packetB.seq ∈ f ↔ f = [0]) ∧ f.length ≤ packetB.seq + 4096 := by
  refine ⟨by decide, by decide, by decide, by decide, by rw [own_of_receiving]; rfl, List.forall_mem_cons.2 ⟨?_, List.forall_mem_cons.2 ⟨?_, nofun⟩⟩⟩ <;>
  refine ⟨by decide, ?_, by decide, by decide, by decide, by decide, by decide⟩ <;> rw [forUs, own_of_receiving] <;> decide

theorem test_meets_OutsideEvents_module : (∀ p ∈ State.reset.hub.worlds, p.2.guarded = false) ∧
    ({ worldA with guarded := true } : World).guarded = true ∧ worldA.waiting = [] ∧ (outside { stream := 3 }).arg.stream < 4 ∧
      (outside { port := 7 }).arg.port < 8 ∧ (outside { die := 7 }).arg.die < 8 ∧ State.reset.hub.powerLim < (outside { value := 3601 }).arg.value ∧
      (outside { value := 3600 }).arg.value ≤ State.reset.hub.powerLim ∧ 1000 ≤ (outside { value := 1000 }).arg.value ∧
      (outside { value := 1149 }).arg.value < 1150 ∧
      (outside { value := 949 }).arg.value < 950 ∧ 1150 ≤ (outside { value := 1150 }).arg.value ∧ (outside {}).arg.port = 0 := by decide

/-- A guarded world is open. -/
def guarded (a : EventArg) : State :=
  { outside a with hub := { State.reset.hub with worlds := [(0, { worldA with guarded := true, tokens := 8 })] } }

theorem test_meets_Management_registers : restricted 0 = false ∧ guardedOpen State.reset = false ∧ restricted 0x170 = true ∧ guardedOpen (guarded {}) = true ∧
    (9 : Nat) < 10 ∧ (10 ≤ (10 : Nat) ∧ (10 : Nat) ≤ 10000) ∧ (3 : Nat).testBit 1 = true ∧ (63 : Nat) < 64 ∧ (10000 < (10001 : Nat) ∧ (10001 : Nat) < 2 ^ 64) ∧ isDrained State.reset = true ∧ isDrained (guarded {}) = false ∧
    State.reset.hub.fmkey = none ∧ ({ State.reset.hub with fmkey := some 1 } : Hub).fmkey ≠ none := by decide

theorem test_meets_Management_cxl :
    let s := { outside { port := 7, value := 0x40001 } with hub := { State.reset.hub with cxl := [(7, { up := true, reports := 1024 })] } }
    s.arg.port < 8 ∧ isDrained s = true ∧ s.arg.value % 2 = 1 ∧ bits s.arg.value 8 16 ≤ (sget {} s.hub.cxl 7 : CxlPort).reports ∧
      cxlTotal s 7 true (bits s.arg.value 8 16) ≤ 16384 := by decide

theorem test_meets_Management_firmware : State.reset.hub.update = none ∧ bits (7 * 2 ^ 60 % 2 ^ 64) 60 4 < 8 ∧
    (let s := { State.reset with hub := { State.reset.hub with update := some ⟨7, ⟨0, 0, 0⟩⟩ } }
     s.hub.update.isSome = true ∧ s.hub.update = some ⟨7, ⟨0, 0, 0⟩⟩ ∧ dieDrained s 7 = true) := by decide

theorem test_meets_Management_hub : bits (8 * 2 ^ 60 % 2 ^ 64) 60 4 = 8 ∧
    ({ State.reset with hub := { State.reset.hub with update := some ⟨8, ⟨0, 0, 0⟩⟩ } } : State).hub.update = some ⟨8, ⟨0, 0, 0⟩⟩ := by decide

theorem test_meets_Management_debug : State.reset.hub.worlds = [] ∧ targetOk (outside { addr := 8, len := 8 }) 0 8 8 = true ∧
    (guarded { addr := 8, len := 8 }).hub.worlds = [(0, { worldA with guarded := true, tokens := 8 })] ∧
    (debugBytes (guarded { addr := 8, len := 8 })).length ≤ 8 ∧ 8 < (debugBytes (guarded { addr := 8, len := 9 })).length ∧
    ({ worldA with guarded := true, waiting := [3] } : World).waiting ≠ [] ∧ First (guarded { addr := 8, len := 9 }) .debugRead := by decide

/-- A journal of so many entries. -/
def journalled (n now : Nat) (u : Option Nat) : State := { State.reset with now := now, hub := { State.reset.hub with jhead := n, uncovered := u } }

theorem test_meets_Management_journal : (journalled 1024 0 none).hub.jhead ≠ 0 ∧ journalFull (journalled 1023 0 none) = false ∧
    journalFull (journalled 1024 0 none) = true ∧ (journalled 1 0 none).hub.jqueue = [] ∧ (journalled 1 0 none).hub.jlost = 0 ∧
    (journalled 1024 0 none).hub.jqueue.length < 1024 ∧ rootDue (journalled 1 (1000000 * Config.nanosecond) (some 0)) = true ∧
    journalOpen (journalled 1 (1000000 * Config.nanosecond) (some 0)) = true ∧ journalOpen (journalled 1024 0 none) = false := by decide

theorem test_meets_Management_root : landBlocked (journalled 1 0 (some 0)) 0 (rootAt (journalled 1 0 (some 0))) 17248 = false := rfl

/-- A full journal with a held event, when the host has consumed one entry: as it is, with events lost, and with the WORLD_CLOSE of a world. -/
theorem test_meets_Management_held : ∀ q ∈ [({ code := 1, source := 0 } : Event), { code := 0x34, source := 0xFFFF, receipt := some worldA }],
    let t := journalled 1024 0 none
    let s := { t with hub := { t.hub with jqueue := [q] }, arg := { value := 1 } }
    journalFull (consumed s) = false ∧ headBlocked (consumed s) = false ∧ s.hub.jlost = 0 ∧ s.hub.jqueue = q :: [] ∧
      s.hub.batch.length < 4096 ∧ s.hub.jqueue.length ≤ 1024 ∧ s.bindings = [] ∧ journalFull (consumed t) = true ∧
      ({ s with hub := { s.hub with jlost := 1 } } : State).hub.jlost ≠ 0 ∧ journalFull (consumed { s with hub := { s.hub with jlost := 1 } }) = false := by
  refine List.forall_mem_cons.2 ⟨?_, List.forall_mem_cons.2 ⟨?_, nofun⟩⟩ <;>
  exact ⟨by decide, by decide, rfl, rfl, by decide, by decide, rfl, by decide, Nat.one_ne_zero, by decide⟩

/-! ### Single steps, with results worked out from the spec -/

/-- A step that runs the word in a slot changed by `f`, and something of the state after it. -/
def after {α : Type} (nbits w : Nat) (f : Slot → Slot) (g : Slot → α) : Option α :=
  match step (onSlot (State.reset.withFetchWord nbits w) f) with
  | .next t => some (g t.slot)
  | _ => none

/-- x registers of the first frame. -/
def xs (l : List (BitVec 5 × Word)) (s : Slot) : Slot := l.foldl (fun s p => { s with x := sset 0 s.x (xKey s p.1) p.2 }) s

/-- Vector registers. -/
def vs (l : List (Nat × Vec)) (s : Slot) : Slot := { s with v := l }

def x (n : BitVec 5) (s : Slot) : Word := xval s n

/-- 04 Table 4-9, `addi x16, x16, 3`, and Table 4-11, `addi x9, x0, -1`. -/
theorem test_addi : after 32 0x00070809 (xs [(16, 12)]) (x 16) = some 15 ∧ after 32 0xFFFE0489 id (x 9) = some (-1) := by decide

/-- 03 Table 3-15, `add x9, x9, x10`: the sum wraps, and a source is the destination. -/
theorem test_add_wraps : after 32 0x00149483 (xs [(9, -1), (10, 2)]) (x 9) = some 1 := by decide

/-- 04 Table 4-10: division by zero. -/
theorem test_div_by_zero : after 32 0xC0010883 (xs [(16, 7)]) (x 17) = some (-1) ∧ after 32 0xD0010903 (xs [(16, 7)]) (x 18) = some 7 := by decide

/-- 04 R73: the most negative number by −1. -/
theorem test_div_overflow : after 32 0xC0149483 (xs [(9, BitVec.intMin 64), (10, -1)]) (x 9) = some (BitVec.intMin 64) := by decide

/-- 04, `lih x5, 0x12345`. -/
theorem test_lih : after 32 0x12345297 id (x 5) = some 0x12345000 := by decide

/-- 04 Table 4-11, `srai x9, x9, 3`: the sign fills in. -/
theorem test_srai : after 32 0x20C09495 (xs [(9, -16)]) (x 9) = some (-2) := by decide

/-- 04 Table 4-9, `call.8 halve`: the caller's x16 is the callee's x8, and the offset is 8 halfwords. -/
theorem test_call : after 32 0x00008425 (xs [(16, 15)]) (fun l => (l.wbase, xval l 8, l.pc, l.calls.length)) = some (8, 15, 16, 1) := by decide

/-- 04 Table 4-9, `loop x9, done` with 5 passes over one word. -/
theorem test_loop : after 32 0x00029029 (xs [(9, 5)]) (fun l => l.outer.map fun p => (p.cnt, p.stop - p.start, l.pc)) = some (some (5, 4, 4)) := by decide

/-- 03 Table 3-15, `b.lt x9, x10, $-12`: signed, backwards; not taken where the numbers are equal. -/
theorem test_bLt : after 32 0xFF949921 (xs [(9, -1), (10, 0)]) Slot.pc = some (-12) ∧ after 32 0xFF949921 id Slot.pc = some 4 := by decide

/-- 04, after Table 4-11: `fgetx f1, f8, x9` with x9 = −1 reads f7. -/
theorem test_fgetx : after 32 0x001090C7 (fun l => xs [(9, -1)] { l with f := [(7, 42)] }) (fun l => fval l 1) = some 42 := by decide

/-- 01 Table 1-7: FP64 1 + 2⁻²⁴ + 2⁻³⁰ to FP32 with .rtz, and with .rne. -/
theorem test_fcvt : after 32 0x748620C1 (fun l => { l with f := [(2, 0x3FF0000010400000)] }) (fun l => fval l 1) = some 0x3F800000 ∧
    after 32 0x740620C1 (fun l => { l with f := [(2, 0x3FF0000010400000)] }) (fun l => fval l 1) = some 0x3F800001 := by decide

/-- 07 Table 7-8, `vfrsum.s f5, v3`. -/
theorem test_vfrsum : after 32 0x3C0032D9 (vs [(3, BitVec.ofNat 512 (0x4B800000 + 2 ^ 32 * (0x3F800000 * ((2 ^ 480 - 1) / (2 ^ 32 - 1)))))]) (fun l => fval l 5) =
    some 0x4B800007 := by decide +kernel

/-- 07, `vcvt.bf.s.rto v2, v1`. -/
theorem test_vcvt : after 32 0xBA00115B (vs [(1, 0x3F808001)]) (fun l => (vval l 2).setWidth 16) = some 0x3F81 := by decide

/-- 07, `vadds.b` and `vadd.b` of 0x70 and 0x20. -/
theorem test_vadds : (match exec (.vadds 3 1 2 .b 0) (onSlot State.reset (vs [(1, 0x70), (2, 0x20)])) with
      | .next t => some (vval t.slot 3) | _ => none) = some 0x7F ∧
    (match exec (.vadd 3 1 2 .b 0) (onSlot State.reset (vs [(1, 0x70), (2, 0x20)])) with
      | .next t => some (vval t.slot 3) | _ => none) = some 0x90 := by decide

/-- A wide product: (2⁶⁴ − 1)² is 2¹²⁸ − 2⁶⁵ + 1 without signs, and 1 with them (04 R72). -/
theorem test_mulhu : after 32 0xB826FB83 (xs [(15, -1), (19, -1)]) (x 23) = some (-2) ∧ after 32 0xB024EB03 (xs [(14, -1), (18, -1)]) (x 22) = some 0 := by decide

/-- 15 Table 15-4, rows one and three. -/
theorem test_matrixElement : let a := [0x41] ++ List.replicate 46 0x01 ++ [0xC1]
    let b := [0x41] ++ List.replicate 46 0x01 ++ [0x41]
    let e : List Nat → List FVal := fun l => l.map (decodeElem .m8)
    matrixElement 0 (e a) (e b) 0x3F800000 0x3F800000 .m8m8 = 0x36380000 ∧ matrixElement 0x40000000 (e a) (e b) 0x3F800000 0x40400000 .m8m8 = 0x40000022 := by
  decide

/-- 15 Table 15-6, rows one and five: the four roundings, .rsr with the draw 0x4000 of the example. -/
theorem test_narrow : let n : Nat → List Nat := fun v => [Rnd.rne, .rtz, .rto, .rsr].map fun r => narrow .m8 r 0x4000 (fdecode (ftypeFmt .s) v)
    n 0x3DCCCCCD = [0x15, 0x14, 0x15, 0x15] ∧ n 0x38800000 = [0, 0, 1, 0] := by decide

/-- 15 Table 15-6, the rows that do not fall between two values. -/
theorem test_narrow_special : [0xC0400000, 0x44FA0000, 0xFF800000, 0x7FC00000].map (fun v => narrow .m8 .rne 0 (fdecode (ftypeFmt .s) v)) =
    [0xF8, 0x41, 0xC1, 0xC0] := by decide

/-- 20 R316: `trap 5` of a task with a handler at 0x40 saves its pc and its number, and goes there. -/
theorem test_trap : (match step (withCapsule (State.reset.withFetchWord 32 0x0800504B) 0x40) with
    | .next t => some (t.slot.trPc, t.slot.trValue, t.slot.pc) | _ => none) = some (0, 5, 0x1040) := by decide

/-- 04 R109: `texit` ends the task. -/
theorem test_texit : after 32 0x2000004B id Slot.run = some .exited := by decide

/-- FIPS 180-4, the digest of "abc", which 25 R384 and others use. -/
theorem test_sha256 : beNat (sha256 [0x61, 0x62, 0x63]) = 0xBA7816BF8F01CFEA414140DE5DAE2223B00361A396177A9CB410FF61F20015AD := by decide +kernel

end Sys2Proof.Tests
end

section
/-! PROOFS. One step of the machine runs the instruction that stands at the pc (01 R22; 06 R121 to R124). -/

namespace Sys2Proof.StepLaws

open Sys2Proof.Machine Sys2Proof.Laws

/-! ### Fetching what stands at the pc (01 R22, R419; 03 R51) -/

/-- Two bytes are read back as the parcel that they are. -/
theorem parcel_of_bytes (p : BitVec 16) : BitVec.ofNat 16 (leNat (leBytes 2 p.toNat)) = p := by
  apply BitVec.eq_of_toNat_eq
  simp only [leNat, leBytes, BitVec.toNat_ofNat]
  omega

/-- A parcel that no write has changed under its key is fetched as it stands. -/
theorem pickParcel_unchanged (s : State) (k : Nat) (key : KeyId) (cur : BitVec 16)
    (h : ∀ v ∈ sget [] s.mem.past (k / 2), ¬ (some v.1 = s.slot.capsule ∧ v.2.1 = key)) : pickParcel s k key cur = cur := by
  have none_past : ((sget [] s.mem.past (k / 2)).filterMap fun v =>
      if some v.1 = s.slot.capsule ∧ v.2.1 = key then some v.2.2 else none) = [] :=
    List.filterMap_eq_nil_iff.2 fun v hv => if_neg (h v hv)
  unfold pickParcel
  rw [none_past]

theorem fetchParcel_of_parcelAt {s : State} {a : Word} {p : BitVec 16} (h : ParcelAt s a p) : fetchParcel s a = .got p := by
  obtain ⟨cls, addr, key, place, device, clean, up, unchanged, bytes⟩ := h
  have failed : (cls == 1 && expanderFailed s addr 2) = false := by
    by_cases c : cls = 1
    · simp [up c]
    · simp [c]
  unfold fetchParcel
  simp only [place, device, if_false, clean, failed, Bool.or_false, Bool.false_eq_true, pickParcel_unchanged _ _ _ _ unchanged, bytes,
    parcel_of_bytes]

/-- The instruction that a slot runs next is the one that it fetches. -/
theorem fetchInstr_of_runsNext {s : State} {ins : Instr} (h : RunsNext s ins) : fetchInstr s = .got ins := by
  obtain ⟨bs, ⟨p, first, len⟩, meaning⟩ := h
  have decoded : (match decode bs with
      | .ok (i, _) => Fetch.got i
      | .error _ => .got (.illegalInstruction (BitVec.ofNat 32 (leNat bs)))) = .got ins := by
    rcases meaning with ⟨more, ok⟩ | ⟨⟨e, bad⟩, rfl⟩
    · rw [ok]
    · rw [bad]
  unfold fetchInstr
  rw [fetchParcel_of_parcelAt first]
  rcases len with ⟨short, rfl⟩ | ⟨long, q, second, rfl⟩
  · simp only [short, Bool.false_eq_true, if_false]; exact decoded
  · simp only [long, if_true, fetchParcel_of_parcelAt second]; exact decoded

/-! ### What noting a fetch changes -/

/-- Two states that differ at most in the count of fetches, the code that is watched and the order in which host pages were used. -/
def FetchNoted (s t : State) : Prop :=
  ∃ n w o, t = { s with fetches := n, mem := { s.mem with watch := w }, hub := { s.hub with atcOrder := o } }

theorem FetchNoted.trans {s t u : State} (h : FetchNoted s t) (g : FetchNoted t u) : FetchNoted s u := by
  obtain ⟨_, _, _, rfl⟩ := h
  obtain ⟨n, w, o, rfl⟩ := g
  exact ⟨n, w, o, rfl⟩

theorem touchPlace_noted (s : State) (p : Place) (n : Nat) : FetchNoted s (touchPlace s p n) := by
  unfold touchPlace
  split
  · exact ⟨_, _, _, rfl⟩
  · exact ⟨_, _, _, rfl⟩

theorem noteParcel_noted (s : State) (a : Word) : FetchNoted s (noteParcel s a) := by
  have watched : FetchNoted s (watchCode s a) := ⟨_, _, _, rfl⟩
  unfold noteParcel
  split
  · exact watched.trans (touchPlace_noted _ _ _)
  · exact watched

theorem noteFetch_noted (s : State) : FetchNoted s (noteFetch s) := by
  have counted : FetchNoted s { s with fetches := s.fetches + 1 } := ⟨_, _, _, rfl⟩
  have first := counted.trans (noteParcel_noted { s with fetches := s.fetches + 1 } s.slot.pc)
  unfold noteFetch
  simp only
  split
  · split
    · exact first.trans (noteParcel_noted _ _)
    · exact first
  · exact first

theorem FetchNoted.slot {s t : State} (h : FetchNoted s t) : t.slot = s.slot := by
  obtain ⟨_, _, _, rfl⟩ := h
  rfl

theorem FetchNoted.parcelAt {s t : State} (h : FetchNoted s t) {a : Word} {p : BitVec 16} (at0 : ParcelAt s a p) : ParcelAt t a p := by
  obtain ⟨_, _, _, rfl⟩ := h
  exact at0

/-- Noting a fetch changes no instruction that is fetched. -/
theorem FetchNoted.runsNext {s t : State} (h : FetchNoted s t) {ins : Instr} (r : RunsNext s ins) : RunsNext t ins := by
  obtain ⟨bs, ⟨p, first, len⟩, meaning⟩ := r
  refine ⟨bs, ⟨p, ?_, ?_⟩, meaning⟩
  · rw [h.slot]; exact h.parcelAt first
  · refine len.imp id fun ⟨long, q, second, e⟩ => ⟨long, q, ?_, e⟩
    rw [h.slot]; exact h.parcelAt second

/-! ### The issue of the first slot in the order (06 R121, R122, R124) -/

theorem begins_gangSize (i : Instr) (s : State) : (begins i s).slot.gangSize = s.slot.gangSize := by
  unfold begins
  split
  · rfl
  · rfl

/-- A slot that is not draining runs in its gang, from the leader on, what the leader fetches. -/
theorem runSlot_runsNext {ex : Exec} {i lead : SlotId} {u : State} {ins : Instr} (free : ∀ m ∈ gangOf u i, draining (getSlot u m) = false)
    (still : u.stalled = false) (hlead : (gangOf u i).headD i = lead) (h : RunsNext (focus u lead) ins) :
    runSlot ex i u = runGang (ex ins) (begins ins (noteFetch (focus u lead))) := by
  have nobody : ((gangOf u i).any fun m => draining (getSlot u m)) = false :=
    List.any_eq_false.2 fun m hm => by simp [free m hm]
  have same : ({ u with stalled := false } : State) = u := by rw [← still]
  unfold runSlot
  simp only [nobody, Bool.false_eq_true, if_false, same, hlead]
  rw [fetchInstr_of_runsNext ((noteFetch_noted (focus u lead)).runsNext h)]

/-- Outside a gang the slot in hand alone runs the instruction. -/
theorem runGang_alone (ex : State → Out) {s : State} (h : s.slot.gangSize ≤ 1) : runGang ex s = ex { s with latch := [] } := if_pos h

theorem gangOf_alone {s : State} {i : SlotId} (h : (getSlot s i).gangSize ≤ 1) : gangOf s i = [i] := if_pos h

theorem gangAgrees_alone (ex : Exec) {s : State} {i : SlotId} (h : (getSlot s i).gangSize ≤ 1) : gangAgrees ex s i = true := by
  simp [gangAgrees, gangOf_alone h]

/-- The slots of the order lie on its core. -/
theorem core_of_mem_issueOrder {s : State} {c : CoreId} {i : SlotId} (h : i ∈ issueOrder s c) : i.core = c := by
  obtain ⟨j, -, rfl⟩ := List.mem_map.1 (List.mem_filter.1 h).1
  rfl

/-- Where the first slot of the order goes on and its gang agrees, the core's issue is that slot's. -/
theorem issueOn_first {ex : Exec} {c : CoreId} {u t : State} {i : SlotId} {l : List SlotId} (order : issueOrder u c = i :: l)
    (run : runSlot ex i u = .next t) (goes : t.stalled = false) (agree : gangAgrees ex u i = true) :
    issueOn ex c u = .next ((gangOf u i).foldl (fun t m => markIssued t m.core) t) := by
  unfold issueOn
  rw [order]
  simp [issueFirst, run, goes, agree]

/-- An issue that the agenda names is made where its core has not issued in this cycle. -/
theorem moveWith_named {ex : Exec} {du : State → Option Doing} {dl : State → List (Nat × Doing)} {s : State} {c : CoreId} {rest : List Move}
    (named : s.agenda = .issue c :: rest) (open0 : issued s c = false) : moveWith ex du dl s = issueOn ex c { s with agenda := rest } := by
  unfold moveWith
  rw [named]
  simp only [open0, Bool.false_eq_true, if_false]

/-- Where the agenda names nothing, the next core issues. -/
theorem moveWith_next {ex : Exec} {du : State → Option Doing} {dl : State → List (Nat × Doing)} {s : State} {c : CoreId}
    (unnamed : s.agenda = []) (turn : nextCore s = some c) : moveWith ex du dl s = issueOn ex c s := by
  unfold moveWith
  rw [unnamed, turn]

/-- With power, and with nothing overdue, a step is the next move, and then time goes on. -/
theorem step_of_move {s t : State} (power : s.powered = true)
    (nothing : overdue exec (deadlines { s with stalled := false }) { s with stalled := false } = none)
    (move : moveWith exec due deadlines { s with stalled := false } = .next t) : step s = .next (tick exec deadlines t) := by
  have on : ¬ s.powered = false := by simp [power]
  unfold step stepWith
  rw [if_neg on]
  dsimp only
  rw [nothing]
  dsimp only
  rw [move]

/-- The core that has its turn issues in this step, and then time goes on. -/
theorem step_of_turn {s t : State} {c : CoreId} {rest : List Move} (turn : TurnOf s c rest)
    (issue : issueOn exec c { s with agenda := rest, stalled := false } = .next t) : step s = .next (tick exec deadlines t) := by
  obtain ⟨power, nothing, ⟨named, open0⟩ | ⟨unnamed, rfl, turn⟩⟩ := turn
  · exact step_of_move power nothing ((moveWith_named (s := { s with stalled := false }) named open0).trans issue)
  · refine step_of_move power nothing ((moveWith_next (s := { s with stalled := false }) unnamed turn).trans ?_)
    rw [← issue, ← unnamed]

/-- Settles O44: the step is the issue of the core with the turn, which is that of the first slot in its order, which runs what it fetches. -/
theorem stepRunsDecoded : Obligations.StepRunsDecoded := by
  intro s c rest i l ins turn u order free
  refine ⟨fun alone next t run goes => ?_, fun lead ms gang next t run goes agree => ?_⟩
  · have single := gangOf_alone alone
    have size : (begins ins (noteFetch (focus u i))).slot.gangSize ≤ 1 := by
      rw [begins_gangSize, (noteFetch_noted _).slot, focus_slot]; exact alone
    have ran : runSlot exec i u = .next t := by
      rw [runSlot_runsNext free rfl (by rw [single]; rfl) next, runGang_alone _ size, run]
    have here : i.core = c := core_of_mem_issueOrder (order ▸ List.mem_cons_self ..)
    have issue := issueOn_first order ran goes (gangAgrees_alone exec alone)
    rw [single, List.foldl_cons, List.foldl_nil, here] at issue
    exact step_of_turn turn issue
  · have ran : runSlot exec i u = .next t := by rw [runSlot_runsNext free rfl (by rw [gang]; rfl) next, run]
    have issue := issueOn_first order ran goes agree
    rw [gang] at issue
    exact step_of_turn turn issue

end Sys2Proof.StepLaws
end

section
/-! PROOFS. Reading and writing special registers (01 Table 1-3; 04 R105). -/

namespace Sys2Proof.SpecialLaws

open Sys2Proof.Machine Sys2Proof.Safety Sys2Proof.Laws

/-! ### gets -/

/-- What `gets` reads is what Table 1-3 lists. -/
theorem readSpecial_iff (s : State) (n : Nat) (v : Word) : readSpecial s n = some v ↔ (n, v) ∈ specials s := by
  unfold readSpecial
  split
  case h_19 => cases h : s.slot.outer <;> simp [specials, loopCount, h, @eq_comm _ v]
  case h_20 => cases h : s.slot.inner <;> simp [specials, loopCount, h, @eq_comm _ v]
  case h_21 => simp_all [specials]
  all_goals simp [specials, eq_comm, cycles, Config.netcap, Nat.mul_comm]

theorem gets_assigned (d : BitVec 5) {n : BitVec 12} {s : State} {v : Word} (h : (n.toNat, v) ∈ specials s) :
    XResult s 4 d v 0 (exec (.gets d n) s) := by
  rw [exec_gets, execGets, (readSpecial_iff s n.toNat v).2 h]
  exact done_setX s 4 d v

theorem gets_unassigned (d : BitVec 5) {n : BitVec 12} {s : State} (h : ∀ v, (n.toNat, v) ∉ specials s) :
    Traps s .special (BitVec.ofNat 64 n.toNat) (exec (.gets d n) s) := by
  have nothing : readSpecial s n.toNat = none :=
    Option.eq_none_iff_forall_ne_some.2 fun v e => h v ((readSpecial_iff s n.toNat v).1 e)
  rw [exec_gets, execGets, nothing]
  exact trap_next _ _ _

/-! ### puts -/

/-- Bit 0 of a word cleared. -/
theorem and_not_one (x : Word) : x &&& ~~~1 = BitVec.ofNat 64 (x.toNat / 2 * 2) := by
  apply BitVec.eq_of_getLsbD_eq
  intro i hi
  rw [BitVec.getLsbD_and, BitVec.getLsbD_not, BitVec.getLsbD_ofNat]
  cases i with
  | zero => simp
  | succ i => simp [hi, Nat.testBit_succ, BitVec.getLsbD, BitVec.toNat_ofNat]

theorem puts_trPc {a : BitVec 5} {s : State} (h : XReady s a) (active : trapActive s.slot = true) :
    exec (.puts a 0x011) s = done 4 (onSlot s fun l => { l with trPc := xval s.slot a &&& ~~~1 }) := by
  simp only [exec_puts, execPuts, BitVec.reduceToNat, withX_ready s a _ h, active, if_true]

theorem puts_outer {a : BitVec 5} {s : State} (h : LeadReady s a) :
    exec (.puts a 0x030) s = done 4 (onSlot s fun l => { l with outer := l.outer.map fun p => { p with cnt := leadX s a } }) := by
  simp only [exec_puts, execPuts, BitVec.reduceToNat, withLeaderX_ready s a _ h]

theorem puts_inner {a : BitVec 5} {s : State} (h : LeadReady s a) :
    exec (.puts a 0x031) s = done 4 (onSlot s fun l => { l with inner := l.inner.map fun p => { p with cnt := leadX s a } }) := by
  simp only [exec_puts, execPuts, BitVec.reduceToNat, withLeaderX_ready s a _ h]

/-- A number that software may not write, and tr.pc outside a trap routine, trap SPECIAL. -/
theorem puts_refused {a : BitVec 5} {n : BitVec 12} {s : State} (h : XReady s a) (outer : n ≠ 0x030) (inner : n ≠ 0x031)
    (idle : n = 0x011 → trapActive s.slot = false) : Traps s .special (BitVec.ofNat 64 n.toNat) (exec (.puts a n) s) := by
  have number {k : Nat} (hk : k < 2 ^ 12) (e : n.toNat = k) : n = BitVec.ofNat 12 k :=
    BitVec.eq_of_toNat_eq (by rw [e, BitVec.toNat_ofNat, Nat.mod_eq_of_lt hk])
  rw [exec_puts, execPuts]
  split
  · rename_i e
    rw [withX_ready s a _ h, idle (number (by decide) e), e]
    exact trap_next _ _ _
  · rename_i e; exact absurd (number (by decide) e) outer
  · rename_i e; exact absurd (number (by decide) e) inner
  · rw [withX_ready s a _ h]
    exact trap_next _ _ _

/-- Settles O23, one lemma for each kind of number. -/
theorem specialRegisters : Obligations.SpecialRegisters := by
  refine ⟨fun d n s => ⟨fun v => gets_assigned d, gets_unassigned d⟩,
    fun a s => ⟨fun ready active => ?_, fun ready => ?_, fun ready => ?_, fun n => puts_refused⟩⟩
  · exact ⟨_, (puts_trPc ready active).trans (done_next _ _), ⟨rfl, rfl⟩, and_not_one _, rfl⟩
  · exact ⟨_, (puts_outer ready).trans (done_next _ _), rfl, rfl, rfl⟩
  · exact ⟨_, (puts_inner ready).trans (done_next _ _), rfl, rfl, rfl⟩

end Sys2Proof.SpecialLaws
end

section
/-! PROOFS. Traps that end a tile task or an activation (01 R24; 06 R130; 20 R326, R327). -/

namespace Sys2Proof.TrapLaws

open Sys2Proof.Machine Sys2Proof.Safety Sys2Proof.Laws

/-! ### What dropping held writes leaves (20 R324) -/

/-- The slots `l` and `l'` differ at most in channels, events, held writes and the copies that wait: what the end of a region's held writes
touches. -/
def HeldDropped (l l' : Slot) : Prop :=
  l' = { l with chans := l'.chans, evq := l'.evq, evLost := l'.evLost, latchBit := l'.latchBit
                hold := l'.hold, closing := l'.closing, cpQueue := l'.cpQueue }

theorem HeldDropped.trans {l m n : Slot} (h : HeldDropped l m) (g : HeldDropped m n) : HeldDropped l n := by
  unfold HeldDropped at *
  rw [g, h]

theorem chanCancel_held (l : Slot) (ch n : Nat) : HeldDropped l (chanCancel l ch n) := by
  unfold chanCancel pushEvent
  dsimp only
  split
  · split
    · rfl
    · rfl
  · rfl

theorem foldl_held {α : Type} (f : Slot → α → Slot) (gone : List α) (l : Slot) (h : ∀ l a, HeldDropped l (f l a)) :
    HeldDropped l (gone.foldl f l) := by
  induction gone generalizing l with
  | nil => rfl
  | cons a gone ih => exact (h l a).trans (ih (f l a))

theorem dropHeld_slot (s : State) : HeldDropped s.slot (dropHeld s).slot := by
  have cancelled : ∀ (l : Slot) (g : Nat × Nat), HeldDropped l
      (match ((coreOf s s.cur.core).copies ++ l.cpQueue).find? fun c => c.id == g.1 with
        | some c => chanCancel l c.ch g.2
        | none => l) := by
    intro l g
    split
    · exact chanCancel_held _ _ _
    · rfl
  have kept := foldl_held _ (droppedCopies s.slot.hold) s.slot cancelled
  unfold dropHeld
  dsimp only
  split
  · exact kept.trans rfl
  · exact kept.trans rfl

@[simp] theorem dropHeld_hold (s : State) : (dropHeld s).slot.hold = [] := by
  unfold dropHeld; dsimp only; split <;> rfl

@[simp] theorem dropHeld_cur (s : State) : (dropHeld s).cur = s.cur := by
  unfold dropHeld; dsimp only; split <;> rfl

@[simp] theorem dropHeld_mem (s : State) : (dropHeld s).mem = s.mem := by
  unfold dropHeld; dsimp only; split <;> rfl

@[simp] theorem dropHeld_hub (s : State) : (dropHeld s).hub = s.hub := by
  unfold dropHeld; dsimp only; split <;> rfl

theorem HeldDropped.leftOver {l l' : Slot} (h : HeldDropped l l') : Machine.leftOver l' = Machine.leftOver l := by
  rw [h]; rfl

/-! ### What a capsule notes -/

/-- The faults of a capsule that takes note of one more. -/
theorem noteFault_faults {s : State} {n : Nat} {cap : Capsule} (f : FaultRec) (h : capAt s n = some cap) :
    (capAt (noteFault s (some n) f) n).map (fun c => c.faults) = some (cap.faults ++ [f]) := by
  show (capAt (modCap s n _) n).map _ = _
  rw [capAt_modCap_same, h]
  rfl

/-! ### The end of a tile task (20 R327) -/

/-- EndTileTask(FAULT): memory stays, held writes are gone, and the capsule notes the code with the slot's tr.pc and tr.value. -/
theorem endFault_ends {s : State} {n : Nat} {cap : Capsule} (code : BitVec 16) (bound : s.slot.capsule = some n)
    (found : capAt s n = some cap) :
    (endFault s code).mem = s.mem ∧ (endFault s code).slot.run = .faulted ∧ (endFault s code).slot.hold = [] ∧
      (endFault s code).slot.gangSize = 1 ∧
      (capAt (endFault s code) n).map (fun c => c.faults) = some (cap.faults ++ [⟨code, s.slot.linear, s.slot.trPc, s.slot.trValue⟩]) := by
  refine ⟨?_, rfl, ?_, rfl, ?_⟩
  · simp [endFault]
  · exact dropHeld_hold _
  · rw [← noteFault_faults _ found, ← bound]
    simp [endFault, capAt]

/-- A slot for which none waits at `gang` takes its trap alone. -/
theorem takeTrap_nobody_waits (c : Cause) (v : Word) {s : State} (h : gangWaiters s = []) : takeTrap c v s = takeTrapHere c v s := by
  have here : focus s s.cur = s := if_pos rfl
  have alone : failWaiters s = s := by
    unfold failWaiters failFrom
    rw [here, h, List.foldl_nil, here]
  unfold takeTrap
  rw [alone, ite_self]

/-- A trap in a trap routine is not handled. -/
theorem takeTrapHere_active (c : Cause) (v : Word) {s : State} (task : s.cur.slot < 4) (active : trapActive s.slot = true) :
    takeTrapHere c v s = endFault s (BitVec.ofNat 16 (0x8100 + causeCode c)) := by
  unfold takeTrapHere
  rw [if_neg (by omega), if_pos active]

/-- A trap of a capsule without a trap entry is not handled; the fault's pc and value are the trap's. -/
theorem takeTrapHere_no_entry (c : Cause) (v : Word) {s : State} {n : Nat} {cap : Capsule} (task : s.cur.slot < 4)
    (idle : trapActive s.slot = false) (bound : s.slot.capsule = some n) (found : capAt s n = some cap)
    (no_entry : cap.info.trapEntry = 0xFFFFFFFF) :
    ∃ f : Slot → Slot, takeTrapHere c v s = endFault (onSlot s f) (BitVec.ofNat 16 (0x8000 + causeCode c)) ∧
      (f s.slot).capsule = s.slot.capsule ∧ (f s.slot).linear = s.slot.linear ∧ (f s.slot).trPc = s.slot.pc ∧ (f s.slot).trValue = v := by
  have unhandled : ∀ f : Slot → Slot, (f s.slot).capsule = s.slot.capsule → trapEntryOf (onSlot s f) = none := by
    intro f same
    have cap_in_hand : capOf (onSlot s f) = some cap := by
      unfold capOf
      rw [onSlot_slot, same, bound]
      exact found
    unfold trapEntryOf
    rw [cap_in_hand]
    exact if_pos no_entry
  unfold takeTrapHere
  rw [if_neg (by omega), idle, if_neg Bool.false_ne_true]
  dsimp only
  rw [unhandled _ rfl]
  exact ⟨_, rfl, rfl, rfl, rfl, rfl⟩

theorem trap_without_handler : trapWithoutHandlerClause := by
  intro c v s n cap task nobody bound found unhandled
  dsimp only
  rw [takeTrap_nobody_waits c v nobody]
  cases active : trapActive s.slot with
  | true =>
    rw [takeTrapHere_active c v task active]
    obtain ⟨mem, run, hold, size, faults⟩ := endFault_ends _ bound found
    exact ⟨mem, run, hold, size, _, faults, rfl, rfl, nofun⟩
  | false =>
    have no_entry := unhandled.resolve_left (by simp [active])
    obtain ⟨f, ends, same, linear, pc, value⟩ := takeTrapHere_no_entry c v task active bound found no_entry
    obtain ⟨mem, run, hold, size, faults⟩ := endFault_ends (s := onSlot s f) (BitVec.ofNat 16 (0x8000 + causeCode c)) (same.trans bound) found
    rw [ends]
    exact ⟨mem, run, hold, size, _, faults, linear, rfl, fun _ => ⟨pc, value⟩⟩

/-! ### The end of an activation (06 R130) -/

@[simp] theorem dropStaged_slot (s : State) (c : CoreId) (t : Nat × Nat) : (dropStaged s c t).slot = s.slot := rfl
@[simp] theorem dropStaged_mem (s : State) (c : CoreId) (t : Nat × Nat) : (dropStaged s c t).mem = s.mem := rfl
@[simp] theorem dropStaged_hub (s : State) (c : CoreId) (t : Nat × Nat) : (dropStaged s c t).hub = s.hub := rfl

/-- No message stays staged for the task. -/
theorem dropStaged_none_left (s : State) (c : CoreId) (t : Nat × Nat) : ∀ m ∈ (coreOf (dropStaged s c t) c).staged, (m.slot, m.task) ≠ t := by
  have left : (coreOf (dropStaged s c t) c).staged = (coreOf s c).staged.filter fun m => !((m.slot, m.task) == t) := by
    show (coreOf (modCore s c fun k => { k with staged := k.staged.filter fun m => !((m.slot, m.task) == t) }) c).staged = _
    rw [coreOf_modCore_same]
  intro m hm
  rw [left] at hm
  simpa using (List.mem_filter.1 hm).2

/-- The end of an activation in a fault. -/
theorem failActivation_ends {s : State} {n : Nat} {cap : Capsule} (code : BitVec 16) (bound : s.slot.capsule = some n)
    (found : capAt s n = some cap) :
    (failActivation s code).slot = leftOver s.slot ∧ (failActivation s code).mem = s.mem ∧
      (∀ m ∈ (coreOf (failActivation s code) s.cur.core).staged, (m.slot, m.task) ≠ s.slot.serves.getD (0, 0)) ∧
      (capAt (failActivation s code) n).map (fun c => c.faults) = some (cap.faults ++ [⟨code, 0xFFFFFFFF, s.slot.trPc, s.slot.trValue⟩]) := by
  have kept := dropHeld_slot s
  have capsule : (dropHeld s).slot.capsule = s.slot.capsule := by rw [kept]
  have serves : (dropHeld s).slot.serves = s.slot.serves := by rw [kept]
  have trPc : (dropHeld s).slot.trPc = s.slot.trPc := by rw [kept]
  have trValue : (dropHeld s).slot.trValue = s.slot.trValue := by rw [kept]
  have found' : capAt (dropHeld s) n = some cap := by rw [← found]; simp [capAt]
  refine ⟨?_, ?_, ?_, ?_⟩
  · simp [failActivation, endActivation, kept.leftOver]
  · simp [failActivation, endActivation]
  · have gone := dropStaged_none_left (noteFault (dropHeld s) s.slot.capsule ⟨code, 0xFFFFFFFF, s.slot.trPc, s.slot.trValue⟩)
      s.cur.core (s.slot.serves.getD (0, 0))
    simpa [failActivation, endActivation, capsule, serves, trPc, trValue, coreOf] using gone
  · rw [← noteFault_faults _ found', ← bound]
    simp [failActivation, endActivation, capAt, capsule, trPc, trValue]

theorem trap_in_service_slot : trapInServiceSlotClause := by
  intro c v s n cap service bound found
  have ends : takeTrap c v s =
      failActivation (onSlot s fun l => { l with trPc := l.pc, trValue := v }) (BitVec.ofNat 16 (0x8300 + causeCode c)) := by
    unfold takeTrap takeTrapHere
    rw [if_pos service, if_pos service]
  dsimp only
  rw [ends]
  exact failActivation_ends _ bound found

/-- Settles O21: a trap that is not handled is EndTileTask(FAULT), and one in the service slot is the end of the activation. -/
theorem trapEndsTask : Obligations.TrapEndsTask := ⟨trap_without_handler, trap_in_service_slot⟩

end Sys2Proof.TrapLaws
end

section
/-! PROOFS. Exact sums and products (01 R29, R30; 04 R95). -/

namespace Sys2Proof.FloatLaws

open Sys2Proof.Machine

/-- A sign as a factor. -/
theorem sign_mul_natAbs (v : Int) : (if decide (v < 0) = true then -1 else 1) * ((v.natAbs : Nat) : ℚ) = v := by
  by_cases h : v < 0
  · simp [h, Nat.cast_natAbs, abs_of_neg h]
  · simp [h, Nat.cast_natAbs, abs_of_nonneg (not_lt.1 h)]

/-- A number at a lower exponent: the same value. -/
theorem shifted_value (n : Bool) (m : Nat) {e e' : Int} (h : e' ≤ e) :
    (((if n then -((m : Int) * 2 ^ (e - e').toNat) else (m : Int) * 2 ^ (e - e').toNat : Int) : ℚ)) * 2 ^ e' =
      (if n then -1 else 1) * m * (2 : ℚ) ^ e := by
  have gap : (2 : ℚ) ^ (e - e').toNat * 2 ^ e' = 2 ^ e := by
    rw [← zpow_natCast, ← zpow_add₀ two_ne_zero, Int.toNat_of_nonneg (by omega)]
    congr 1
    omega
  rw [← gap]
  split_ifs <;> push_cast <;> ring

/-- The signed sum of two finite numbers at the lower of their exponents. -/
def alignedSum (na : Bool) (ma : Nat) (ea : Int) (nb : Bool) (mb : Nat) (eb : Int) : Int :=
  let a : Int := (ma : Int) * 2 ^ (ea - min ea eb).toNat
  let b : Int := (mb : Int) * 2 ^ (eb - min ea eb).toNat
  (if na then -a else a) + (if nb then -b else b)

theorem fplus_fin (na : Bool) (ma : Nat) (ea : Int) (nb : Bool) (mb : Nat) (eb : Int) :
    fplus (.fin na ma ea) (.fin nb mb eb) =
      if alignedSum na ma ea nb mb eb = 0 then .fin (na && nb) 0 0
      else .fin (decide (alignedSum na ma ea nb mb eb < 0)) (alignedSum na ma ea nb mb eb).natAbs (min ea eb) := rfl

theorem alignedSum_value (na : Bool) (ma : Nat) (ea : Int) (nb : Bool) (mb : Nat) (eb : Int) :
    (alignedSum na ma ea nb mb eb : ℚ) * 2 ^ min ea eb =
      (if na then -1 else 1) * ma * (2 : ℚ) ^ ea + (if nb then -1 else 1) * mb * (2 : ℚ) ^ eb := by
  rw [← shifted_value na ma (min_le_left ea eb), ← shifted_value nb mb (min_le_right ea eb), ← add_mul, ← Int.cast_add]
  rfl

/-- The sum of finite numbers is exact. -/
theorem valQ_fplus_fin (na : Bool) (ma : Nat) (ea : Int) (nb : Bool) (mb : Nat) (eb : Int) :
    valQ (fplus (.fin na ma ea) (.fin nb mb eb)) =
      some ((if na then -1 else 1) * ma * (2 : ℚ) ^ ea + (if nb then -1 else 1) * mb * (2 : ℚ) ^ eb) := by
  rw [← alignedSum_value, fplus_fin]
  split
  · rename_i zero
    simp [valQ, zero]
  · simp only [valQ]
    rw [sign_mul_natAbs]

/-- The product of finite numbers is exact. -/
theorem valQ_ftimes_fin (na : Bool) (ma : Nat) (ea : Int) (nb : Bool) (mb : Nat) (eb : Int) :
    valQ (ftimes (.fin na ma ea) (.fin nb mb eb)) =
      some ((if na then -1 else 1) * ma * (2 : ℚ) ^ ea * ((if nb then -1 else 1) * mb * (2 : ℚ) ^ eb)) := by
  have signs : (if (na != nb) = true then -1 else 1 : ℚ) = (if na then -1 else 1) * (if nb then -1 else 1) := by
    cases na <;> cases nb <;> simp
  simp only [ftimes, valQ, signs, Nat.cast_mul, zpow_add₀ (two_ne_zero : (2 : ℚ) ≠ 0)]
  congr 1
  ring

/-- Only finite values have a number. -/
theorem fin_of_valQ {v : FVal} {p : ℚ} (h : valQ v = some p) : ∃ n m e, v = .fin n m e ∧ p = (if n then -1 else 1) * m * (2 : ℚ) ^ e := by
  cases v with
  | nan => cases h
  | inf n => cases h
  | fin n m e => exact ⟨n, m, e, rfl, (Option.some.inj h).symm⟩

/-- A zero sum is -0 only where both operands are negative. -/
theorem fplus_zero {n : Bool} {m : Nat} {e : Int} {n' : Bool} {m' : Nat} {e' : Int} (h : valQ (fplus (.fin n m e) (.fin n' m' e')) = some 0) :
    ∃ k x, fplus (.fin n m e) (.fin n' m' e') = .fin (n && n') k x := by
  rw [valQ_fplus_fin, ← alignedSum_value, Option.some.injEq, mul_eq_zero, Int.cast_eq_zero] at h
  rw [fplus_fin, if_pos (h.resolve_right (zpow_ne_zero _ two_ne_zero))]
  exact ⟨0, 0, rfl⟩

theorem exact_arithmetic : exactArithmetic := by
  refine ⟨fun a b p q ha hb => ?_, fun n m e n' m' e' => ⟨⟨_, _, rfl⟩, fplus_zero⟩, fun n m s k x => ⟨rfl, rfl, rfl, rfl, rfl, rfl⟩, fun v => ?_⟩
  · obtain ⟨na, ma, ea, rfl, rfl⟩ := fin_of_valQ ha
    obtain ⟨nb, mb, eb, rfl, rfl⟩ := fin_of_valQ hb
    exact ⟨valQ_fplus_fin .., valQ_ftimes_fin ..⟩
  · cases v <;> exact ⟨rfl, rfl, rfl, rfl⟩

end Sys2Proof.FloatLaws
end

section
/-! PROOFS. The finite numbers of a format in their order, and their encodings (01 R27). -/

namespace Sys2Proof.FloatLaws

open Sys2Proof.Machine

/-- What is asked of a format: a fraction bit, and an exponent bit. -/
structure HasBits (f : FFmt) : Prop where
  fraction : 1 ≤ f.mbits
  exponent : 1 ≤ f.ebits

theorem hasBits_ftypeFmt (ty : FType) : HasBits (ftypeFmt ty) := by
  cases ty <;> exact ⟨by decide, by decide⟩

theorem finf_lt_fsign (f : FFmt) : finf f < fsign f := by
  unfold finf fsign
  rw [pow_add]
  exact Nat.mul_lt_mul_of_pos_right (Nat.sub_lt (by positivity) one_pos) (by positivity)

theorem finf_pos {f : FFmt} (h : HasBits f) : 0 < finf f := by
  have : 1 < 2 ^ f.ebits := Nat.one_lt_two_pow (by have := h.exponent; omega)
  exact Nat.mul_pos (by omega) (by positivity)

theorem two_dvd_pow_mbits {f : FFmt} (h : HasBits f) : 2 ∣ 2 ^ f.mbits := dvd_pow_self 2 (by have := h.fraction; omega)

theorem two_dvd_finf {f : FFmt} (h : HasBits f) : 2 ∣ finf f := (two_dvd_pow_mbits h).mul_left _

/-! ### Magnitudes and units in the last place -/

theorem ulp_pos (f : FFmt) (t : Nat) : 0 < ulp f t := by unfold ulp; positivity

/-- The magnitude and the unit of the encoding with `k` steps of the exponent above the least and significand `sig`: a significand below 2^mbits
has the least exponent. -/
theorem magnitude_encoding {f : FFmt} {k sig : Nat} (low : k ≠ 0 → 2 ^ f.mbits ≤ sig) (high : sig < 2 * 2 ^ f.mbits) :
    ulp f (k * 2 ^ f.mbits + sig) = (2 : ℚ) ^ ((k : Int) + 1 - fbias f - f.mbits) ∧
      magnitude f (k * 2 ^ f.mbits + sig) = sig * (2 : ℚ) ^ ((k : Int) + 1 - fbias f - f.mbits) := by
  unfold ulp magnitude
  have pos : 0 < 2 ^ f.mbits := by positivity
  by_cases small : sig < 2 ^ f.mbits
  · have zero : k = 0 := by
      by_contra c
      exact absurd (low c) (by omega)
    subst zero
    simp [Nat.div_eq_of_lt small]
  · obtain ⟨s, rfl⟩ := Nat.exists_eq_add_of_le (not_lt.1 small)
    have whole : k * 2 ^ f.mbits + (2 ^ f.mbits + s) = 2 ^ f.mbits * (k + 1) + s := by ring
    have quot : (k * 2 ^ f.mbits + (2 ^ f.mbits + s)) / 2 ^ f.mbits = k + 1 := by
      rw [whole, Nat.mul_add_div pos, Nat.div_eq_of_lt (by omega), add_zero]
    have rest : (k * 2 ^ f.mbits + (2 ^ f.mbits + s)) % 2 ^ f.mbits = s := by
      rw [whole, Nat.mul_add_mod, Nat.mod_eq_of_lt (by omega)]
    simp [quot, rest]

/-- Every encoding is of that kind. -/
theorem encoding_parts (f : FFmt) (t : Nat) :
    ∃ k sig, t = k * 2 ^ f.mbits + sig ∧ (k ≠ 0 → 2 ^ f.mbits ≤ sig) ∧ sig < 2 * 2 ^ f.mbits := by
  have pos : 0 < 2 ^ f.mbits := by positivity
  have rest := Nat.mod_lt t pos
  have whole := Nat.div_add_mod' t (2 ^ f.mbits)
  cases h : t / 2 ^ f.mbits with
  | zero => exact ⟨0, t, by simp, fun c => absurd rfl c, by rw [h] at whole; omega⟩
  | succ k => exact ⟨k, 2 ^ f.mbits + t % 2 ^ f.mbits, by rw [h] at whole; linarith, fun _ => Nat.le_add_right _ _, by omega⟩

/-- The next encoding lies one unit higher. -/
theorem magnitude_succ (f : FFmt) (t : Nat) : magnitude f (t + 1) = magnitude f t + ulp f t := by
  obtain ⟨k, sig, rfl, low, high⟩ := encoding_parts f t
  obtain ⟨unit, here⟩ := magnitude_encoding low high
  rw [unit, here]
  by_cases room : sig + 1 < 2 * 2 ^ f.mbits
  · rw [add_assoc, (magnitude_encoding (fun c => (low c).trans (Nat.le_succ _)) room).2]
    push_cast
    ring
  · have full : sig + 1 = 2 * 2 ^ f.mbits := by omega
    have next : k * 2 ^ f.mbits + sig + 1 = (k + 1) * 2 ^ f.mbits + 2 ^ f.mbits := by rw [add_assoc, full]; ring
    have full' : (sig : ℚ) + 1 = 2 * 2 ^ f.mbits := by exact_mod_cast full
    have double : (2 : ℚ) ^ (((k + 1 : Nat) : Int) + 1 - fbias f - f.mbits) = 2 * 2 ^ ((k : Int) + 1 - fbias f - f.mbits) := by
      rw [← zpow_one_add₀ two_ne_zero]
      congr 1
      push_cast
      ring
    rw [next, (magnitude_encoding (fun _ => le_rfl) (by omega)).2, double]
    push_cast
    linear_combination (-(2 : ℚ) ^ ((k : Int) + 1 - fbias f - f.mbits)) * full'

theorem magnitude_strictMono (f : FFmt) : StrictMono (magnitude f) :=
  strictMono_nat_of_lt_succ fun t => by rw [magnitude_succ]; exact lt_add_of_pos_right _ (ulp_pos f t)

theorem magnitude_zero (f : FFmt) : magnitude f 0 = 0 := by simp [magnitude]

theorem magnitude_nonneg (f : FFmt) (t : Nat) : 0 ≤ magnitude f t := by
  rw [← magnitude_zero f]
  exact (magnitude_strictMono f).monotone (Nat.zero_le t)

/-! ### What an encoding stands for -/

/-- The number of an encoding: below infinity the magnitude with its sign, else none. -/
theorem ratOf_eq (f : FFmt) (w : Nat) : ratOf f w =
    if w % fsign f < finf f then some ((if w / fsign f % 2 = 1 then -1 else 1) * magnitude f (w % fsign f)) else none := by
  have split : fsign f = 2 ^ f.mbits * 2 ^ f.ebits := by rw [fsign, pow_add, mul_comm]
  have ex : w % fsign f / 2 ^ f.mbits = w / 2 ^ f.mbits % 2 ^ f.ebits := by rw [split, Nat.mod_mul_right_div_self]
  have fr : w % fsign f % 2 ^ f.mbits = w % 2 ^ f.mbits := by rw [split, Nat.mod_mul_right_mod]
  have top : w / 2 ^ f.mbits % 2 ^ f.ebits < 2 ^ f.ebits := Nat.mod_lt _ (by positivity)
  have finite : w % fsign f < finf f ↔ w / 2 ^ f.mbits % 2 ^ f.ebits ≠ 2 ^ f.ebits - 1 := by
    rw [finf, ← Nat.div_lt_iff_lt_mul (by positivity), ex]
    omega
  unfold ratOf fdecode
  dsimp only
  by_cases inf : w / 2 ^ f.mbits % 2 ^ f.ebits = 2 ^ f.ebits - 1
  · rw [if_pos inf, if_neg (fun c => finite.1 c inf)]
    split_ifs <;> rfl
  · rw [if_neg inf, if_pos (finite.2 inf)]
    by_cases least : w / 2 ^ f.mbits % 2 ^ f.ebits = 0
    · have same : w % fsign f = w % 2 ^ f.mbits := by
        rw [← fr, Nat.mod_eq_of_lt (Nat.div_eq_zero_iff.1 (ex.trans least) |>.resolve_left (by positivity))]
      simp [least, magnitude, same]
    · simp only [magnitude, ex, fr, if_neg least, beq_iff_eq, mul_assoc]

/-- An encoding that is put together from a sign and a magnitude below the sign bit. -/
theorem ratOf_signed {f : FFmt} (neg : Bool) {r : Nat} (h : r < fsign f) : ratOf f ((if neg then fsign f else 0) + r) =
    if r < finf f then some ((if neg then -1 else 1) * magnitude f r) else none := by
  have pos : 0 < fsign f := by unfold fsign; positivity
  rw [ratOf_eq]
  cases neg with
  | false => simp [Nat.mod_eq_of_lt h, Nat.div_eq_of_lt h]
  | true => simp [Nat.mod_eq_of_lt h, Nat.add_div_left _ pos, Nat.div_eq_of_lt h]

/-- Every finite number of the format is the magnitude of an encoding below infinity, with a sign. -/
theorem number_of_ratOf {f : FFmt} {w : Nat} {p : ℚ} (h : ratOf f w = some p) :
    ∃ (n : Bool) (u : Nat), u < finf f ∧ p = (if n then -1 else 1) * magnitude f u := by
  rw [ratOf_eq] at h
  split at h
  · rename_i finite
    exact ⟨decide (w / fsign f % 2 = 1), w % fsign f, finite, by simpa using (Option.some.inj h).symm⟩
  · cases h

end Sys2Proof.FloatLaws
end

section
/-! PROOFS. One rounding (01 R32, Table 1-6), seen as a choice between an encoding and the next by the position between them. -/

namespace Sys2Proof.FloatLaws

open Sys2Proof.Machine

/-! ### Rounding by position -/

/-- `r` is `t` rounded where the value lies `d` units above it: the modes of 01 Table 1-6 without a format. -/
def RoundsUnit (mode : Rnd) (draw t : Nat) (d : ℝ) (r : Nat) : Prop :=
  match mode with
  | .rtz => r = t
  | .rto => (d = 0 → r = t) ∧ (d ≠ 0 → r = t ||| 1)
  | .rne => (2 * d < 1 → r = t) ∧ (1 < 2 * d → r = t + 1) ∧ (2 * d = 1 → r = t + t % 2)
  | .rsr => (⌊d * 2 ^ 16⌋₊ + draw < 2 ^ 16 → r = t) ∧ (2 ^ 16 ≤ ⌊d * 2 ^ 16⌋₊ + draw → r = t + 1)

/-- The position in the unit of an encoding says how a value is rounded to the format. -/
theorem roundsTo_of_unit {f : FFmt} {mode : Rnd} {draw t r : Nat} (neg : Bool) {x d : ℝ} (finite : t < finf f)
    (place : x = magnitude f t + d * ulp f t) (nonneg : 0 ≤ d) (below : t + 1 < finf f → d < 1) (rounded : RoundsUnit mode draw t d r) :
    RoundsTo f mode draw neg x ((if neg then fsign f else 0) + r) := by
  have unit : (0 : ℝ) < ulp f t := by exact_mod_cast ulp_pos f t
  have off : x - magnitude f t = d * ulp f t := by rw [place]; ring
  refine ⟨t, r, finite, ?_, fun next => ?_, rfl, ?_⟩
  · rw [place]; exact le_add_of_nonneg_right (mul_nonneg nonneg unit.le)
  · rw [place, magnitude_succ]
    push_cast
    exact add_lt_add_right (mul_lt_of_lt_one_left unit (below next)) _
  · have twice : 2 * (d * ulp f t) = 2 * d * ulp f t := by ring
    cases mode with
    | rtz => exact rounded
    | rto =>
      have exact_iff : x = magnitude f t ↔ d = 0 := by rw [← sub_eq_zero, off]; simp [unit.ne']
      simp only [ne_eq, exact_iff]
      exact rounded
    | rne =>
      simp only [off, twice]
      exact ⟨fun h => rounded.1 ((mul_lt_iff_lt_one_left unit).1 h), fun h => rounded.2.1 ((lt_mul_iff_one_lt_left unit).1 h),
        fun h => rounded.2.2 ((mul_eq_right₀ unit.ne').1 h)⟩
    | rsr =>
      simp only [off, mul_div_assoc, div_self unit.ne', mul_one]
      exact rounded

/-- A value that is held exactly stays. -/
theorem roundsUnit_zero (mode : Rnd) {draw : Nat} (t : Nat) (h : draw < 2 ^ 16) : RoundsUnit mode draw t 0 t := by
  cases mode with
  | rtz => rfl
  | rto => exact ⟨fun _ => rfl, fun c => absurd rfl c⟩
  | rne => exact ⟨fun _ => rfl, fun c => absurd c (by norm_num), fun c => absurd c (by norm_num)⟩
  | rsr => exact ⟨fun _ => rfl, fun c => absurd c (by simp; omega)⟩

theorem lor_one (n : Nat) : n ||| 1 = n + (1 - n % 2) := by
  have above : (n ||| 1) / 2 = n / 2 := by simp [Nat.or_div_two]
  have last : (n ||| 1) % 2 = 1 := by simp
  omega

/-- Rounding does not look at bits above the last. -/
theorem RoundsUnit.add_even {mode : Rnd} {draw t : Nat} {d : ℝ} {r : Nat} (h : RoundsUnit mode draw t d r) {b : Nat} (even : 2 ∣ b) :
    RoundsUnit mode draw (b + t) d (b + r) := by
  have parity : (b + t) % 2 = t % 2 := by omega
  cases mode with
  | rtz => exact congrArg _ h
  | rto =>
    refine ⟨fun c => congrArg _ (h.1 c), fun c => ?_⟩
    rw [lor_one, parity, h.2 c, lor_one, add_assoc]
  | rne =>
    refine ⟨fun c => congrArg _ (h.1 c), fun c => congrArg _ (h.2.1 c), fun c => ?_⟩
    rw [parity, h.2.2 c, add_assoc]
  | rsr => exact ⟨fun c => congrArg _ (h.1 c), fun c => congrArg _ (h.2 c)⟩

/-- A value in the unit of an encoding is rounded to it or to the next; the directed modes do not leave an odd one. -/
theorem RoundsUnit.range {mode : Rnd} {draw t : Nat} {d : ℝ} {r : Nat} (h : RoundsUnit mode draw t d r) :
    r = t ∨ r = t + 1 ∧ ((mode = .rtz ∨ mode = .rto) → t % 2 = 0) := by
  cases mode with
  | rtz => exact .inl h
  | rto =>
    by_cases c : d = 0
    · exact .inl (h.1 c)
    · have e := h.2 c
      rw [lor_one] at e
      by_cases odd : t % 2 = 1
      · exact .inl (by omega)
      · exact .inr ⟨by omega, fun _ => by omega⟩
  | rne =>
    rcases lt_trichotomy (2 * d) 1 with c | c | c
    · exact .inl (h.1 c)
    · have e := h.2.2 c
      by_cases odd : t % 2 = 1
      · exact .inr ⟨by omega, nofun⟩
      · exact .inl (by omega)
    · exact .inr ⟨h.2.1 c, nofun⟩
  | rsr =>
    rcases lt_or_ge (⌊d * 2 ^ 16⌋₊ + draw) (2 ^ 16) with c | c
    · exact .inl (h.1 c)
    · exact .inr ⟨h.2 c, nofun⟩

/-- What stands for a value that lies a unit or more above `t`: the nearest and the random mode go on, the directed modes stay (log 63). -/
def beyond (mode : Rnd) (t : Nat) : Nat :=
  match mode with
  | .rne | .rsr => t + 1
  | .rtz | .rto => t

theorem roundsUnit_beyond (mode : Rnd) (draw : Nat) {t : Nat} {d : ℝ} (odd : t % 2 = 1) (h : 1 ≤ d) :
    RoundsUnit mode draw t d (beyond mode t) := by
  cases mode with
  | rtz => rfl
  | rto =>
    have stays : t = t ||| 1 := by rw [lor_one]; omega
    exact ⟨fun _ => rfl, fun _ => stays⟩
  | rne => exact ⟨fun c => by linarith, fun _ => rfl, fun c => by linarith⟩
  | rsr =>
    have many : 2 ^ 16 ≤ ⌊d * 2 ^ 16⌋₊ := Nat.le_floor (by push_cast; linarith)
    exact ⟨fun c => by omega, fun _ => rfl⟩

/-- The same value stands where rounding leaves an odd `t` upwards. -/
theorem RoundsUnit.eq_beyond {mode : Rnd} {draw t : Nat} {d : ℝ} {r : Nat} (h : RoundsUnit mode draw t d r) (odd : t % 2 = 1)
    (up : r = t + 1) : r = beyond mode t := by
  have free : ¬ (mode = .rtz ∨ mode = .rto) := fun c => by
    rcases h.range with e | ⟨-, even⟩
    · omega
    · have := even c; omega
  cases mode with
  | rtz => exact absurd (.inl rfl) free
  | rto => exact absurd (.inr rfl) free
  | rne => exact up
  | rsr => exact up

/-! ### The integer significand -/

/-- A natural number and a part of one: how it compares with a natural number. -/
theorem add_part_lt_iff {a b : Nat} {ε : ℝ} (h0 : 0 ≤ ε) (h1 : ε < 1) : (a : ℝ) + ε < b ↔ a < b := by
  refine ⟨fun h => by exact_mod_cast (le_add_of_nonneg_right h0).trans_lt h, fun h => ?_⟩
  have : (a : ℝ) + 1 ≤ b := by exact_mod_cast h
  linarith

theorem lt_add_part_iff {a b : Nat} {ε : ℝ} (h0 : 0 ≤ ε) (h1 : ε < 1) : (b : ℝ) < a + ε ↔ b < a ∨ (b = a ∧ ε ≠ 0) := by
  rcases lt_trichotomy a b with h | rfl | h
  · have : (a : ℝ) + ε < b := (add_part_lt_iff h0 h1).2 h
    exact ⟨fun c => absurd c this.not_gt, fun c => by omega⟩
  · simp [h0.lt_iff_ne']
  · have : (b : ℝ) < a := by exact_mod_cast h
    exact ⟨fun _ => .inl h, fun _ => by linarith⟩

/-- Nearest, at a half: `half` is the half of the unit that `rem` counts in. -/
theorem roundSig_rne (draw sig j rem : Nat) {ε : ℝ} {sticky : Bool} (h0 : 0 ≤ ε) (h1 : ε < 1) (marked : sticky = true ↔ ε ≠ 0) :
    RoundsUnit .rne draw sig ((rem + ε) / 2 ^ (j + 1)) (roundSig .rne draw sig (j + 1) rem sticky) := by
  have pos : (0 : ℝ) < 2 ^ j := by positivity
  have cast : ((2 ^ j : Nat) : ℝ) = 2 ^ j := by push_cast; rfl
  have twice : 2 * (((rem : ℝ) + ε) / 2 ^ (j + 1)) = (rem + ε) / 2 ^ j := by rw [pow_succ]; field_simp
  have sum : roundSig .rne draw sig (j + 1) rem sticky =
      if rem > 2 ^ j ∨ (rem = 2 ^ j ∧ (sticky = true ∨ sig % 2 = 1)) then sig + 1 else sig := by simp [roundSig]
  rw [sum]
  unfold RoundsUnit
  rw [twice, div_lt_one pos, one_lt_div pos, div_eq_one_iff_eq pos.ne', ← cast, add_part_lt_iff h0 h1, lt_add_part_iff h0 h1]
  refine ⟨fun h => if_neg (by omega), fun h => if_pos ?_, fun h => ?_⟩
  · exact h.imp id fun ⟨e, c⟩ => ⟨e.symm, .inl (marked.2 c)⟩
  · have whole : ε = 0 := by
      by_contra c
      rcases lt_or_ge rem (2 ^ j) with l | l
      · exact ((add_part_lt_iff h0 h1).2 l).ne h
      · exact ((lt_add_part_iff h0 h1).2 ((lt_or_eq_of_le l).imp id fun e => ⟨e, c⟩)).ne' h
    have tie : rem = 2 ^ j := by rw [whole, add_zero] at h; exact_mod_cast h
    have clean : sticky = false := Bool.eq_false_iff.2 fun c => marked.1 c whole
    simp only [tie, clean, gt_iff_lt, lt_irrefl, false_or, true_and, Bool.false_eq_true]
    split_ifs <;> omega

/-- The first 16 discarded bits, where the value is held by the bits below the significand or there are 16 of them. -/
theorem floor_discarded {sh rem : Nat} {ε : ℝ} (h0 : 0 ≤ ε) (h1 : ε < 1) (deep : ε ≠ 0 → 16 ≤ sh) :
    ⌊((rem : ℝ) + ε) / 2 ^ sh * 2 ^ 16⌋₊ = if 16 ≤ sh then rem / 2 ^ (sh - 16) else rem * 2 ^ (16 - sh) := by
  split_ifs with h
  · obtain ⟨k, rfl⟩ := Nat.exists_eq_add_of_le h
    have low : ((rem : ℝ) + ε) / 2 ^ (16 + k) * 2 ^ 16 = (rem + ε) / ((2 ^ k : Nat) : ℝ) := by
      rw [pow_add]; push_cast; field_simp
    have whole : ⌊(rem : ℝ) + ε⌋₊ = rem := (Nat.floor_eq_iff (by positivity)).2 ⟨by linarith, by linarith⟩
    rw [low, Nat.floor_div_natCast, whole, Nat.add_sub_cancel_left]
  · obtain ⟨k, hk⟩ := Nat.exists_eq_add_of_le (not_le.1 h).le
    have whole : ε = 0 := by
      by_contra c
      exact h (deep c)
    have all : ((rem : ℝ) + ε) / 2 ^ sh * 2 ^ 16 = ((rem * 2 ^ (16 - sh) : Nat) : ℝ) := by
      rw [whole, add_zero, hk, Nat.add_sub_cancel_left, pow_add]; push_cast; field_simp
    rw [all, Nat.floor_natCast]

/-- The significand `sig` with `rem` and a part `ε` below it is rounded by its position; a part that is marked lies below the first 16
discarded bits. -/
theorem roundSig_unit (mode : Rnd) (draw sig : Nat) {sh rem : Nat} {ε : ℝ} {sticky : Bool} (pos : 0 < sh) (h0 : 0 ≤ ε) (h1 : ε < 1)
    (marked : sticky = true ↔ ε ≠ 0) (deep : ε ≠ 0 → 16 ≤ sh) :
    RoundsUnit mode draw sig ((rem + ε) / 2 ^ sh) (roundSig mode draw sig sh rem sticky) := by
  cases mode with
  | rtz => rfl
  | rto =>
    have exact_iff : ((rem : ℝ) + ε) / 2 ^ sh = 0 ↔ rem = 0 ∧ ¬ sticky = true := by
      rw [div_eq_zero_iff, or_iff_left (by positivity), add_eq_zero_iff_of_nonneg (Nat.cast_nonneg _) h0, Nat.cast_eq_zero, marked, not_not]
    simp only [RoundsUnit, ne_eq, exact_iff]
    refine ⟨fun ⟨z, c⟩ => ?_, fun h => ?_⟩
    · simp [roundSig, z, c]
    · exact if_neg (by simpa using h)
  | rne =>
    obtain ⟨j, rfl⟩ := Nat.exists_eq_succ_of_ne_zero pos.ne'
    exact roundSig_rne draw sig j rem h0 h1 marked
  | rsr =>
    unfold RoundsUnit
    rw [floor_discarded h0 h1 deep]
    exact ⟨fun h => if_neg (by omega), fun h => if_pos h⟩

/-- The value (m + ε) 2^e is a significand and a position at quantum 2^q, by which it is rounded. -/
theorem roundAt_unit (mode : Rnd) {draw : Nat} (m : Nat) {e q : Int} {ε : ℝ} {sticky : Bool} (hd : draw < 2 ^ 16) (h0 : 0 ≤ ε) (h1 : ε < 1)
    (marked : sticky = true ↔ ε ≠ 0) (deep : ε ≠ 0 → e + 16 ≤ q) :
    ∃ (sig : Nat) (d : ℝ), 0 ≤ d ∧ d < 1 ∧ ((m : ℝ) + ε) * 2 ^ e = (sig + d) * 2 ^ q ∧
      RoundsUnit mode draw sig d (roundAt mode draw m e q sticky) := by
  unfold roundAt
  split_ifs with fits
  · have whole : ε = 0 := by
      by_contra c
      have := deep c
      omega
    refine ⟨m * 2 ^ (e - q).toNat, 0, le_rfl, one_pos, ?_, roundsUnit_zero mode _ hd⟩
    rw [whole]
    push_cast
    rw [add_zero, add_zero, mul_assoc, ← zpow_natCast, ← zpow_add₀ two_ne_zero, Int.toNat_of_nonneg (by omega), sub_add_cancel]
  · obtain ⟨sh, hsh⟩ : ∃ sh : Nat, (q - e).toNat = sh := ⟨_, rfl⟩
    have gap : q = sh + e := by omega
    have pos : (0 : ℝ) < 2 ^ sh := by positivity
    have rest : ((m % 2 ^ sh : Nat) : ℝ) + 1 ≤ 2 ^ sh := by exact_mod_cast Nat.mod_lt m (by positivity)
    have parts : (m : ℝ) = 2 ^ sh * (m / 2 ^ sh : Nat) + (m % 2 ^ sh : Nat) := by exact_mod_cast (Nat.div_add_mod m (2 ^ sh)).symm
    rw [hsh]
    refine ⟨m / 2 ^ sh, ((m % 2 ^ sh : Nat) + ε) / 2 ^ sh, by positivity, (div_lt_one pos).2 (by linarith), ?_,
      roundSig_unit mode draw _ (by omega) h0 h1 marked fun c => by have := deep c; omega⟩
    rw [gap, zpow_add₀ two_ne_zero, zpow_natCast, ← mul_assoc, add_mul _ _ ((2 : ℝ) ^ sh), div_mul_cancel₀ _ pos.ne', ← add_assoc]
    congr 2
    linear_combination parts

end Sys2Proof.FloatLaws
end

section
/-! PROOFS. Round of 01 R32 in a format: which encoding it gives, which of the format's numbers is nearest, and what is kept exactly. -/

namespace Sys2Proof.FloatLaws

open Sys2Proof.Machine

/-! ### The quantum of a value -/

/-- The exponent of the last place to which |m 2^e| is rounded. -/
def quantum (f : FFmt) (m : Nat) (e : Int) : Int := max (e + bitLen m - 1) (1 - (fbias f : Int)) - f.mbits

/-- The steps of that exponent above the least. -/
def quantumSteps (f : FFmt) (m : Nat) (e : Int) : Nat := (quantum f m e + f.mbits - (1 - (fbias f : Int))).toNat

/-- Encoding of the rounded magnitude, where it lies below infinity. -/
def roundedEncoding (f : FFmt) (mode : Rnd) (draw m : Nat) (e : Int) (sticky : Bool) : Nat :=
  quantumSteps f m e * 2 ^ f.mbits + roundAt mode draw m e (quantum f m e) sticky

theorem roundFin_eq {f : FFmt} (hf : HasBits f) (mode : Rnd) (draw : Nat) (neg : Bool) {m : Nat} (e : Int) (sticky : Bool) (hm : m ≠ 0) :
    roundFin f mode draw neg m e sticky = (if neg then fsign f else 0) +
      if roundedEncoding f mode draw m e sticky < finf f then roundedEncoding f mode draw m e sticky else beyond mode (finf f - 1) := by
  have pos := finf_pos hf
  unfold roundFin
  rw [if_neg hm]
  show (if roundedEncoding f mode draw m e sticky < finf f then _ else _) = _
  by_cases h : roundedEncoding f mode draw m e sticky < finf f
  · rw [if_pos h, if_pos h]
    rfl
  · rw [if_neg h, if_neg h]
    cases mode with
    | rne => exact congrArg _ (Nat.sub_add_cancel pos).symm
    | rsr => exact congrArg _ (Nat.sub_add_cancel pos).symm
    | rtz => exact Nat.add_sub_assoc pos _
    | rto => exact Nat.add_sub_assoc pos _

theorem quantum_eq (f : FFmt) (m : Nat) (e : Int) : quantum f m e = (quantumSteps f m e : Int) + 1 - fbias f - f.mbits := by
  have least := le_max_right (e + bitLen m - 1) (1 - (fbias f : Int))
  unfold quantumSteps quantum
  omega

theorem bitLen_pred {m : Nat} (hm : m ≠ 0) : (bitLen m : Int) - 1 = Nat.log2 m := by
  simp [bitLen, hm]

theorem log2_le_quantum (f : FFmt) {m : Nat} (e : Int) (hm : m ≠ 0) : e + Nat.log2 m ≤ quantum f m e + f.mbits := by
  have len := bitLen_pred hm
  have most := le_max_left (e + bitLen m - 1) (1 - (fbias f : Int))
  unfold quantum
  omega

theorem quantum_of_steps {f : FFmt} {m : Nat} {e : Int} (hm : m ≠ 0) (h : quantumSteps f m e ≠ 0) :
    quantum f m e + f.mbits = e + Nat.log2 m := by
  have len := bitLen_pred hm
  unfold quantumSteps quantum at *
  rcases max_choice (e + bitLen m - 1) (1 - (fbias f : Int)) with c | c
  all_goals rw [c] at h ⊢; omega

/-- The significand has at most mbits + 1 bits, and that many where the exponent is above the least. -/
theorem significand_bounds {f : FFmt} {m sig : Nat} {e : Int} {ε d : ℝ} (hm : m ≠ 0) (h0 : 0 ≤ ε) (h1 : ε < 1) (d0 : 0 ≤ d) (d1 : d < 1)
    (place : ((m : ℝ) + ε) * 2 ^ e = (sig + d) * 2 ^ quantum f m e) :
    (quantumSteps f m e ≠ 0 → 2 ^ f.mbits ≤ sig) ∧ sig < 2 * 2 ^ f.mbits := by
  have unit : (0 : ℝ) < 2 ^ quantum f m e := by positivity
  have exp : (0 : ℝ) < 2 ^ e := by positivity
  constructor
  · intro steps
    have least : ((2 : ℝ) ^ f.mbits) * 2 ^ quantum f m e ≤ (sig + d) * 2 ^ quantum f m e := by
      have low : ((2 : ℝ)) ^ Nat.log2 m ≤ m := by exact_mod_cast Nat.log2_self_le hm
      rw [← place, ← zpow_natCast, ← zpow_add₀ two_ne_zero, add_comm, quantum_of_steps hm steps, add_comm, zpow_add₀ two_ne_zero, zpow_natCast]
      exact mul_le_mul_of_nonneg_right (by linarith) exp.le
    have : (2 : ℝ) ^ f.mbits < (sig + 1 : Nat) := by
      push_cast
      linarith [le_of_mul_le_mul_right least unit]
    exact Nat.lt_succ_iff.1 (by exact_mod_cast this)
  · have most : (sig + d) * (2 : ℝ) ^ quantum f m e < (2 * 2 ^ f.mbits) * 2 ^ quantum f m e := by
      have high : (m : ℝ) + 1 ≤ 2 * 2 ^ Nat.log2 m := by
        have := Nat.lt_log2_self (n := m)
        rw [pow_succ, mul_comm] at this
        exact_mod_cast this
      calc (sig + d) * (2 : ℝ) ^ quantum f m e = ((m : ℝ) + ε) * 2 ^ e := place.symm
        _ < (2 * 2 ^ Nat.log2 m) * 2 ^ e := mul_lt_mul_of_pos_right (by linarith) exp
        _ = 2 * 2 ^ (e + Nat.log2 m) := by rw [zpow_add₀ two_ne_zero, zpow_natCast]; ring
        _ ≤ 2 * 2 ^ (quantum f m e + f.mbits) :=
          mul_le_mul_of_nonneg_left (zpow_le_zpow_right₀ one_le_two (log2_le_quantum f e hm)) zero_le_two
        _ = (2 * 2 ^ f.mbits) * 2 ^ quantum f m e := by rw [zpow_add₀ two_ne_zero, zpow_natCast]; ring
    have : (sig : ℝ) < 2 * 2 ^ f.mbits := by linarith [lt_of_mul_lt_mul_right most unit.le]
    exact_mod_cast this

/-! ### Round -/

/-- Zero is rounded to the zero of its sign. -/
theorem roundsTo_zero {f : FFmt} (hf : HasBits f) (mode : Rnd) {draw : Nat} (neg : Bool) (hd : draw < 2 ^ 16) :
    RoundsTo f mode draw neg 0 (if neg then fsign f else 0) :=
  roundsTo_of_unit neg (finf_pos hf) (by simp [magnitude_zero]) le_rfl (fun _ => one_pos) (roundsUnit_zero mode 0 hd)

/-- Round of a magnitude (m + ε) 2^e, where the part ε is marked by `sticky` and lies below what the mode looks at: with ε = 0 that of a finite
value, else that of a quotient or a root of which m is the integer part. -/
theorem roundFin_roundsTo {f : FFmt} (hf : HasBits f) (mode : Rnd) {draw : Nat} (neg : Bool) {m : Nat} (e : Int) {ε : ℝ} {sticky : Bool}
    (hd : draw < 2 ^ 16) (hm : m ≠ 0) (h0 : 0 ≤ ε) (h1 : ε < 1) (marked : sticky = true ↔ ε ≠ 0) (deep : ε ≠ 0 → 2 ^ (f.mbits + 16) ≤ m) :
    RoundsTo f mode draw neg (((m : ℝ) + ε) * 2 ^ e) (roundFin f mode draw neg m e sticky) := by
  have sixteen : ε ≠ 0 → e + 16 ≤ quantum f m e := fun c => by
    have := (Nat.le_log2 hm).2 (deep c)
    have := log2_le_quantum f e hm
    omega
  obtain ⟨sig, d, d0, d1, place, rounded⟩ := roundAt_unit mode m hd h0 h1 marked sixteen
  obtain ⟨low, high⟩ := significand_bounds hm h0 h1 d0 d1 place
  obtain ⟨unit, here⟩ := magnitude_encoding low high
  have value : ((m : ℝ) + ε) * 2 ^ e = magnitude f (quantumSteps f m e * 2 ^ f.mbits + sig) +
      d * ulp f (quantumSteps f m e * 2 ^ f.mbits + sig) := by
    rw [place, unit, here, ← quantum_eq]
    push_cast
    ring
  have encoded := rounded.add_even ((two_dvd_pow_mbits hf).mul_left (quantumSteps f m e))
  rw [roundFin_eq hf mode draw neg e sticky hm]
  generalize quantumSteps f m e * 2 ^ f.mbits + sig = t at value encoded
  change RoundsUnit mode draw t d (roundedEncoding f mode draw m e sticky) at encoded
  have pos := finf_pos hf
  have odd : (finf f - 1) % 2 = 1 := by have := two_dvd_finf hf; omega
  have near := encoded.range
  by_cases finite : t < finf f
  · by_cases below : roundedEncoding f mode draw m e sticky < finf f
    · rw [if_pos below]
      exact roundsTo_of_unit neg finite value d0 (fun _ => d1) encoded
    · rw [if_neg below]
      have top : t = finf f - 1 := by omega
      have up : roundedEncoding f mode draw m e sticky = beyond mode (finf f - 1) := top ▸ encoded.eq_beyond (top ▸ odd) (by omega)
      exact roundsTo_of_unit neg finite value d0 (fun _ => d1) (up ▸ encoded)
  · have last : (0 : ℝ) < ulp f (finf f - 1) := by exact_mod_cast ulp_pos f _
    have overflow : (magnitude f (finf f - 1) : ℝ) + ulp f (finf f - 1) ≤ ((m : ℝ) + ε) * 2 ^ e := by
      have up : magnitude f (finf f - 1) + ulp f (finf f - 1) ≤ magnitude f t := by
        rw [← magnitude_succ, Nat.sub_add_cancel pos]
        exact (magnitude_strictMono f).monotone (not_lt.1 finite)
      have up' : (magnitude f (finf f - 1) : ℝ) + ulp f (finf f - 1) ≤ magnitude f t := by exact_mod_cast up
      have part : (0 : ℝ) ≤ d * ulp f t := mul_nonneg d0 (by exact_mod_cast (ulp_pos f t).le)
      linarith
    have far : 1 ≤ (((m : ℝ) + ε) * 2 ^ e - magnitude f (finf f - 1)) / ulp f (finf f - 1) := (one_le_div last).2 (by linarith)
    have beyond_finite : ¬ roundedEncoding f mode draw m e sticky < finf f := by omega
    have top : finf f - 1 < finf f := Nat.sub_lt pos one_pos
    rw [if_neg beyond_finite]
    exact roundsTo_of_unit neg top (by rw [div_mul_cancel₀ _ last.ne']; ring) (by linarith) (fun c => by omega)
      (roundsUnit_beyond mode draw odd far)

/-- Round of a finite value is one rounding of its magnitude, with its sign. -/
theorem fround_roundsTo {f : FFmt} (hf : HasBits f) (mode : Rnd) {draw : Nat} (neg : Bool) (m : Nat) (e : Int) (hd : draw < 2 ^ 16) :
    RoundsTo f mode draw neg ((m * (2 : ℚ) ^ e : ℚ) : ℝ) (fround f mode draw (.fin neg m e)) := by
  by_cases hm : m = 0
  · have zero : fround f mode draw (.fin neg m e) = if neg then fsign f else 0 := if_pos hm
    rw [zero, hm]
    simpa using roundsTo_zero hf mode neg hd
  · have value : ((m * (2 : ℚ) ^ e : ℚ) : ℝ) = ((m : ℝ) + 0) * 2 ^ e := by push_cast; ring
    rw [value]
    exact roundFin_roundsTo hf mode neg e hd hm le_rfl one_pos (by simp) (by simp)

/-! ### The nearest number -/

/-- No sign brings a number nearer than the value's own. -/
theorem sub_le_sub_of_signs (neg n : Bool) {x y : ℚ} (hx : 0 ≤ x) (hy : 0 ≤ y) :
    |x - y| ≤ |(if neg then -1 else 1) * x - (if n then -1 else 1) * y| := by
  have apart : |x - y| ≤ x + y := abs_le.2 ⟨by linarith, by linarith⟩
  cases neg <;> cases n <;> simp only [if_true, if_false, Bool.false_eq_true, one_mul, neg_one_mul]
  · exact le_rfl
  · rw [sub_neg_eq_add]; exact apart.trans (le_abs_self _)
  · rw [← neg_add', abs_neg]; exact apart.trans (le_abs_self _)
  · rw [neg_sub_neg, abs_sub_comm]

theorem sign_mul_sub (neg : Bool) (x y : ℚ) : |(if neg then -1 else 1) * x - (if neg then -1 else 1) * y| = |x - y| := by
  cases neg
  · simp
  · simp only [if_true, neg_one_mul]
    rw [neg_sub_neg, abs_sub_comm]

/-- Every encoding lies at or below `t`, or a unit above it or more. -/
theorem le_abs_sub_magnitude {f : FFmt} {t : Nat} {x b : ℚ} (low : b ≤ x - magnitude f t)
    (high : b ≤ magnitude f t + ulp f t - x) (u : Nat) : b ≤ |x - magnitude f u| := by
  rcases le_or_gt u t with c | c
  · have := (magnitude_strictMono f).monotone c
    exact le_trans (by linarith) (le_abs_self _)
  · have := (magnitude_strictMono f).monotone (Nat.succ_le_of_lt c)
    rw [Nat.succ_eq_add_one, magnitude_succ] at this
    exact le_trans (by linarith) (neg_le_abs _)

/-- Under .rne no finite number is nearer than a finite result. -/
theorem nearest_of_roundsTo {f : FFmt} {draw w : Nat} {neg : Bool} {x q : ℚ} (h : RoundsTo f .rne draw neg (x : ℝ) w) (hq : ratOf f w = some q)
    {w' : Nat} {p : ℚ} (hp : ratOf f w' = some p) : |(if neg then -1 else 1) * x - q| ≤ |(if neg then -1 else 1) * x - p| := by
  obtain ⟨t, r, top, le, lt, rfl, below, above, tie⟩ := h
  have le : magnitude f t ≤ x := by exact_mod_cast le
  have lt : t + 1 < finf f → x < magnitude f t + ulp f t := fun c => by rw [← magnitude_succ]; exact_mod_cast lt c
  have below : 2 * (x - magnitude f t) < ulp f t → r = t := fun c => below (by exact_mod_cast c)
  have above : ulp f t < 2 * (x - magnitude f t) → r = t + 1 := fun c => above (by exact_mod_cast c)
  have tie : 2 * (x - magnitude f t) = ulp f t → r = t + t % 2 := fun c => tie (by exact_mod_cast c)
  obtain ⟨n, u, -, rfl⟩ := number_of_ratOf hp
  have nonneg := (magnitude_nonneg f t).trans le
  have step : r = t ∧ 2 * (x - magnitude f t) ≤ ulp f t ∨ r = t + 1 ∧ ulp f t ≤ 2 * (x - magnitude f t) := by
    rcases lt_trichotomy (2 * (x - magnitude f t)) (ulp f t) with c | c | c
    · exact .inl ⟨below c, c.le⟩
    · rcases Nat.mod_two_eq_zero_or_one t with even | odd
      · exact .inl ⟨by rw [tie c, even, add_zero], c.le⟩
      · exact .inr ⟨by rw [tie c, odd], c.ge⟩
    · exact .inr ⟨above c, c.le⟩
  rw [ratOf_signed neg (by have := finf_lt_fsign f; omega)] at hq
  split at hq
  · rename_i finite
    obtain rfl := Option.some.inj hq
    refine le_trans ?_ (sub_le_sub_of_signs neg n nonneg (magnitude_nonneg f u))
    rw [sign_mul_sub]
    apply le_abs_sub_magnitude (t := t)
    all_goals rcases step with ⟨rfl, half⟩ | ⟨rfl, half⟩
    · rw [abs_of_nonneg (by linarith)]
    · have := lt finite
      rw [magnitude_succ, abs_of_nonpos (by linarith)]
      linarith
    · rw [abs_of_nonneg (by linarith)]
      linarith
    · have := lt finite
      rw [magnitude_succ, abs_of_nonpos (by linarith)]
      linarith
  · cases hq

/-! ### What the format holds -/

/-- A magnitude of the format stays as it is in every mode. -/
theorem eq_of_roundsTo_magnitude {f : FFmt} {mode : Rnd} {draw u w : Nat} {neg : Bool} (hd : draw < 2 ^ 16) (hu : u < finf f)
    (h : RoundsTo f mode draw neg (magnitude f u : ℝ) w) : w = (if neg then fsign f else 0) + u := by
  obtain ⟨t, r, top, le, lt, rfl, choice⟩ := h
  have mono := magnitude_strictMono f
  have tu : t ≤ u := mono.le_iff_le.1 (by exact_mod_cast le)
  have ut : u ≤ t := by
    by_cases c : t + 1 < finf f
    · exact Nat.lt_succ_iff.1 (mono.lt_iff_lt.1 (by exact_mod_cast lt c))
    · omega
  obtain rfl : t = u := le_antisymm tu ut
  have unit : (0 : ℝ) < ulp f t := by exact_mod_cast ulp_pos f t
  have stays : r = t := by
    cases mode with
    | rtz => exact choice
    | rto => exact choice.1 rfl
    | rne => exact choice.1 (by simpa using unit)
    | rsr => exact choice.1 (by simpa using hd)
  rw [stays]

/-- A value that the format holds is the result, in every mode. -/
theorem fround_exact {f : FFmt} (hf : HasBits f) (mode : Rnd) {draw : Nat} {neg : Bool} {m : Nat} {e : Int} (hd : draw < 2 ^ 16) {w : Nat} {p : ℚ}
    (held : ratOf f w = some p) (value : p = (if neg then -1 else 1) * m * (2 : ℚ) ^ e) :
    ratOf f (fround f mode draw (.fin neg m e)) = some p := by
  obtain ⟨n, u, hu, number⟩ := number_of_ratOf held
  have sign : ∀ b : Bool, |(if b then -1 else 1 : ℚ)| = 1 := by decide
  have same : (m : ℚ) * 2 ^ e = magnitude f u := by
    calc (m : ℚ) * 2 ^ e = |p| := by rw [value, mul_assoc, abs_mul, sign, one_mul, abs_of_nonneg (by positivity)]
      _ = magnitude f u := by rw [number, abs_mul, sign, one_mul, abs_of_nonneg (magnitude_nonneg f u)]
  have rounded := fround_roundsTo hf mode neg m e hd
  rw [same] at rounded
  rw [eq_of_roundsTo_magnitude hd hu rounded, ratOf_signed neg (hu.trans (finf_lt_fsign f)), if_pos hu, value, mul_assoc, same]

/-- Settles O12: the exact sum and product, and one rounding of them, from which nearness and exactness follow. -/
theorem roundIsCorrect : Obligations.RoundIsCorrect := by
  refine ⟨exact_arithmetic, fun ty neg m e draw hd => ⟨fun mode => ?_, fun q finite w p held => ?_, fun mode w p => ?_⟩⟩
  · exact fround_roundsTo (hasBits_ftypeFmt ty) mode neg m e hd
  · rw [mul_assoc]
    exact nearest_of_roundsTo (fround_roundsTo (hasBits_ftypeFmt ty) .rne neg m e hd) finite held
  · exact fround_exact (hasBits_ftypeFmt ty) mode hd

end Sys2Proof.FloatLaws
end

section
/-! PROOFS. Reading and writing the fields of an instruction word (03 R52, R53, R66). -/

namespace Sys2Proof.FieldLaws

/-! ### One field -/

theorem bits_lt (w lo n : Nat) : bits w lo n < 2 ^ n := Nat.mod_lt _ (by positivity)

@[simp] theorem toNat_fld (w lo n : Nat) : (fld w lo n).toNat = bits w lo n := by
  simp [fld, Nat.mod_eq_of_lt (bits_lt w lo n)]

/-! ### Placing operands in a word -/

/-- Operands of an instruction word: the values, each of which fits the place that it has, a bit and a width. -/
inductive Operands : List (Nat × Nat) → List Nat → Prop where
  | nil : Operands [] []
  | put (lo : Nat) {n v : Nat} {ps : List (Nat × Nat)} {vs : List Nat} (fits : v < 2 ^ n) (rest : Operands ps vs) :
      Operands ((lo, n) :: ps) (v :: vs)

/-- A constant with operands added to it at their places, as the encoder writes a word. -/
def word (k : Nat) : List (Nat × Nat) → List Nat → Nat
  | p :: ps, v :: vs => word (k + v * 2 ^ p.1) ps vs
  | _, _ => k

/-- The two places have no bit in common. -/
def apart (p q : Nat × Nat) : Bool := Nat.ble (p.1 + p.2) q.1 || Nat.ble (q.1 + q.2) p.1

/-- There is room at the places: the constant is 0 there, and they are apart. -/
def room (k : Nat) : List (Nat × Nat) → Bool
  | [] => true
  | p :: ps => Nat.beq (bits k p.1 p.2) 0 && ps.all (apart p) && room k ps

/-- What stands at the place `q` of such a word `w`: an operand, or bits of the constant. -/
def look (w k : Nat) : List (Nat × Nat) → List Nat → Nat × Nat → Nat
  | p :: ps, v :: vs, q =>
    bif Nat.beq p.1 q.1 && Nat.beq p.2 q.2 then v else bif apart p q then look w k ps vs q else bits w q.1 q.2
  | _, _, q => k / 2 ^ q.1 % 2 ^ q.2

theorem apart_iff {p q : Nat × Nat} : apart p q = true ↔ p.1 + p.2 ≤ q.1 ∨ q.1 + q.2 ≤ p.1 := by
  simp [apart]

theorem apart_symm {p q : Nat × Nat} (h : apart p q = true) : apart q p = true := apart_iff.2 (apart_iff.1 h).symm

theorem room_cons {k : Nat} {p : Nat × Nat} {ps : List (Nat × Nat)} :
    room k (p :: ps) = true ↔ bits k p.1 p.2 = 0 ∧ (∀ q ∈ ps, apart p q = true) ∧ room k ps = true := by
  simp [room, and_assoc]

/-- An operand placed where the word is 0 is read back. -/
theorem bits_place_same {w v : Nat} {p : Nat × Nat} (fits : v < 2 ^ p.2) (empty : bits w p.1 p.2 = 0) :
    bits (w + v * 2 ^ p.1) p.1 p.2 = v := by
  unfold bits at *
  rw [Nat.add_mul_div_right _ _ (by positivity), Nat.add_mod, empty, Nat.zero_add, Nat.mod_mod, Nat.mod_eq_of_lt fits]

/-- An operand placed where the word is 0 leaves every place apart from it. -/
theorem bits_place_apart {w v : Nat} {p q : Nat × Nat} (fits : v < 2 ^ p.2) (empty : bits w p.1 p.2 = 0) (h : apart p q = true) :
    bits (w + v * 2 ^ p.1) q.1 q.2 = bits w q.1 q.2 := by
  unfold bits at *
  obtain above | below := apart_iff.1 h
  · obtain ⟨r, e⟩ := Nat.exists_eq_add_of_le above
    have nocarry : (w / 2 ^ p.1 + v) / 2 ^ p.2 = w / 2 ^ p.1 / 2 ^ p.2 := by
      have whole := Nat.div_add_mod (w / 2 ^ p.1) (2 ^ p.2)
      rw [empty, Nat.add_zero] at whole
      rw [← whole, Nat.mul_add_div (by positivity), Nat.div_eq_of_lt fits, whole, Nat.add_zero]
    have split : ∀ x : Nat, x / 2 ^ q.1 = x / 2 ^ p.1 / 2 ^ p.2 / 2 ^ r := fun x => by
      rw [e, pow_add, pow_add, Nat.div_div_eq_div_mul, Nat.div_div_eq_div_mul, Nat.mul_assoc]
    rw [split, Nat.add_mul_div_right _ _ (by positivity), nocarry, ← split]
  · obtain ⟨r, e⟩ := Nat.exists_eq_add_of_le below
    have multiple : v * 2 ^ p.1 = v * 2 ^ r * 2 ^ q.2 * 2 ^ q.1 := by rw [e]; ring
    rw [multiple, Nat.add_mul_div_right _ _ (by positivity), Nat.add_mul_mod_self_right]

theorem room_place {k v : Nat} {p : Nat × Nat} {ps : List (Nat × Nat)} (fits : v < 2 ^ p.2) (h : room k (p :: ps) = true) :
    room (k + v * 2 ^ p.1) ps = true := by
  obtain ⟨empty, free, rest⟩ := room_cons.1 h
  clear h
  induction ps with
  | nil => rfl
  | cons q qs ih =>
    obtain ⟨emptyq, freeq, restq⟩ := room_cons.1 rest
    refine room_cons.2 ⟨?_, freeq, ih (fun x hx => free x (List.mem_cons_of_mem _ hx)) restq⟩
    rw [bits_place_apart fits empty (free q (List.mem_cons_self ..)), emptyq]

/-- Operands leave every place apart from theirs as the constant has it. -/
theorem bits_word_apart {k : Nat} {ps : List (Nat × Nat)} {vs : List Nat} (ops : Operands ps vs) (free : room k ps = true) {q : Nat × Nat}
    (far : ∀ p ∈ ps, apart p q = true) : bits (word k ps vs) q.1 q.2 = bits k q.1 q.2 := by
  induction ops generalizing k with
  | nil => rfl
  | put lo fits rest ih =>
    exact (ih (room_place fits free) fun x hx => far x (List.mem_cons_of_mem _ hx)).trans
      (bits_place_apart fits (room_cons.1 free).1 (far _ (List.mem_cons_self ..)))

/-- A place apart from an operand looks the same whether the operand is part of the constant or not. -/
theorem look_place {w k v : Nat} {p q : Nat × Nat} (ps : List (Nat × Nat)) (vs : List Nat) (fits : v < 2 ^ p.2) (empty : bits k p.1 p.2 = 0)
    (far : apart p q = true) : look w (k + v * 2 ^ p.1) ps vs q = look w k ps vs q := by
  induction ps generalizing vs with
  | nil => exact bits_place_apart fits empty far
  | cons p ps ih =>
    cases vs with
    | nil => exact bits_place_apart fits empty far
    | cons v vs => simp only [look, ih]

/-- What is read from a word with operands placed in it. -/
theorem bits_word {k : Nat} {ps : List (Nat × Nat)} {vs : List Nat} (ops : Operands ps vs) (free : room k ps = true) :
    bits (word k ps vs) = fun lo n => look (word k ps vs) k ps vs (lo, n) := by
  suffices general : ∀ w, word k ps vs = w → ∀ q : Nat × Nat, bits w q.1 q.2 = look w k ps vs q from
    funext₂ fun lo n => general _ rfl (lo, n)
  intro w e q
  induction ops generalizing k with
  | nil => rw [← e]; rfl
  | @put lo n v ps vs fits rest ih =>
    obtain ⟨empty, away, -⟩ := room_cons.1 free
    unfold look
    cases exact : Nat.beq lo q.1 && Nat.beq n q.2 with
    | true =>
      obtain ⟨rfl, rfl⟩ : lo = q.1 ∧ n = q.2 := by simpa using exact
      rw [← e]
      exact (bits_word_apart rest (room_place fits free) fun x hx => apart_symm (away x hx)).trans (bits_place_same fits empty)
    | false =>
      cases far : apart (lo, n) q with
      | true =>
        simp only [cond_true, cond_false]
        rw [ih (room_place fits free) e, look_place ps vs fits empty far]
      | false => simp only [cond_false]

/-! ### A word from its fields -/

/-- Every bit of a word of `n` bits is at one of the places. -/
def covers (n : Nat) (qs : List (Nat × Nat)) : Bool :=
  (List.range n).all fun b => qs.any fun q => Nat.ble q.1 b && Nat.ble (b + 1) (q.1 + q.2)

/-- Words with the same fields at places that cover them are the same. -/
theorem eq_of_bits {x w n : Nat} {qs : List (Nat × Nat)} (cover : covers n qs = true) (hx : x < 2 ^ n) (hw : w < 2 ^ n)
    (same : ∀ q ∈ qs, bits x q.1 q.2 = bits w q.1 q.2) : x = w := by
  refine Nat.eq_of_testBit_eq fun b => ?_
  obtain hb | hb := Nat.lt_or_ge b n
  case inr =>
    have whole := Nat.pow_le_pow_right (n := 2) (by decide) hb
    rw [Nat.testBit_lt_two_pow (hx.trans_le whole), Nat.testBit_lt_two_pow (hw.trans_le whole)]
  obtain ⟨q, hq, low, high⟩ : ∃ q ∈ qs, q.1 ≤ b ∧ b + 1 ≤ q.1 + q.2 := by
    simpa using List.any_eq_true.1 (List.all_eq_true.1 cover b (List.mem_range.2 hb))
  have inside : b - q.1 < q.2 := by omega
  have bit := congrArg (Nat.testBit · (b - q.1)) (same q hq)
  simpa [bits, Nat.testBit_mod_two_pow, Nat.testBit_div_two_pow, inside, low] using bit

/-- Operands that are the fields of `w` at their places. -/
inductive Fields (w : Nat) : List (Nat × Nat) → List Nat → Prop where
  | nil : Fields w [] []
  | put {lo n v : Nat} {ps : List (Nat × Nat)} {vs : List Nat} (field : v = bits w lo n) (rest : Fields w ps vs) :
      Fields w ((lo, n) :: ps) (v :: vs)

/-- The constant has the fields of `w` at the places. -/
inductive Agree (w k : Nat) : List (Nat × Nat) → Prop where
  | nil : Agree w k []
  | put {lo n : Nat} {cs : List (Nat × Nat)} (field : bits w lo n = bits k lo n) (rest : Agree w k cs) : Agree w k ((lo, n) :: cs)

/-- Operands at the places `ps` and the constant at the places `cs` make up a word of `n` bits. -/
def fills (n k : Nat) (ps cs : List (Nat × Nat)) : Bool :=
  Nat.ble (k + 1) (2 ^ n) && room k ps && ps.all (fun p => Nat.ble (p.1 + p.2) n && cs.all (apart p)) && covers n (ps ++ cs)

theorem Fields.operands {w : Nat} {ps : List (Nat × Nat)} {vs : List Nat} (ops : Fields w ps vs) : Operands ps vs := by
  induction ops with
  | nil => exact .nil
  | put field rest ih => exact .put _ (field ▸ bits_lt ..) ih

theorem Agree.bits_eq {w k : Nat} {cs : List (Nat × Nat)} (consts : Agree w k cs) {q : Nat × Nat} (hq : q ∈ cs) :
    bits w q.1 q.2 = bits k q.1 q.2 := by
  induction consts with
  | nil => cases hq
  | put field rest ih =>
    cases hq with
    | head => exact field
    | tail _ hq => exact ih hq

theorem word_lt {k n : Nat} {ps : List (Nat × Nat)} {vs : List Nat} (ops : Operands ps vs) (free : room k ps = true) (lt : k < 2 ^ n)
    (inside : ∀ p ∈ ps, p.1 + p.2 ≤ n) : word k ps vs < 2 ^ n := by
  have high := bits_word_apart ops free (q := (n, word k ps vs)) fun p hp => apart_iff.2 (.inl (inside p hp))
  have small : word k ps vs / 2 ^ n < 2 ^ word k ps vs := (Nat.div_le_self ..).trans_lt Nat.lt_two_pow_self
  rw [bits, bits, Nat.div_eq_of_lt lt, Nat.zero_mod, Nat.mod_eq_of_lt small] at high
  exact (Nat.div_eq_zero_iff_lt (by positivity)).1 high

theorem bits_word_of_fields {w k : Nat} {ps : List (Nat × Nat)} {vs : List Nat} (ops : Fields w ps vs) (free : room k ps = true) {q : Nat × Nat}
    (hq : q ∈ ps) : bits (word k ps vs) q.1 q.2 = bits w q.1 q.2 := by
  induction ops generalizing k with
  | nil => cases hq
  | put field rest ih =>
    obtain ⟨empty, away, -⟩ := room_cons.1 free
    have fits := field ▸ bits_lt ..
    cases hq with
    | head =>
      exact (bits_word_apart rest.operands (room_place fits free) fun x hx => apart_symm (away x hx)).trans
        ((bits_place_same fits empty).trans field)
    | tail _ hq => exact ih (room_place fits free) hq

/-- A word that has the constant and the operands as its fields is made of them. -/
theorem word_eq {w k n : Nat} {ps cs : List (Nat × Nat)} {vs : List Nat} (lt : w < 2 ^ n) (ops : Fields w ps vs) (consts : Agree w k cs)
    (full : fills n k ps cs = true) : word k ps vs = w := by
  simp only [fills, Bool.and_eq_true, List.all_eq_true, Nat.ble_eq] at full
  obtain ⟨⟨⟨small, free⟩, inside⟩, cover⟩ := full
  refine eq_of_bits cover (word_lt ops.operands free small fun p hp => (inside p hp).1) lt fun q hq => ?_
  obtain hq | hq := List.mem_append.1 hq
  · exact bits_word_of_fields ops free hq
  · exact (bits_word_apart ops.operands free fun p hp => (inside p hp).2 q hq).trans (consts.bits_eq hq).symm

end Sys2Proof.FieldLaws
end

section
/-! PROOFS. The codes of fields: each fits its field, stands for what it was written for, and is what it was read from (03 R55, R63, R64). -/

namespace Sys2Proof

theorem Size.code_lt (c : Size) : c.code < 2 ^ 2 := Nat.lt_succ_of_le (Laws.Size_code_le c)
theorem Scope.code_lt (c : Scope) : c.code < 2 ^ 2 := Nat.lt_succ_of_le (Laws.Scope_code_le c)
theorem Rnd.code_lt (c : Rnd) : c.code < 2 ^ 2 := Nat.lt_succ_of_le (Laws.Rnd_code_le c)
theorem IType.code_lt (c : IType) : c.code < 2 ^ 2 := Nat.lt_succ_of_le (Laws.IType_code_le c)
theorem FType.code_lt (c : FType) : c.code < 2 ^ 2 := Nat.lt_succ_of_le (Laws.FType_code_le c)
theorem CFmt.code_lt (c : CFmt) : c.code < 2 ^ 3 := Nat.lt_succ_of_le (Laws.CFmt_code_le c)
theorem FSize.code_lt (c : FSize) : c.code < 2 ^ 2 := Nat.lt_succ_of_le (Laws.FSize_code_le c)
theorem ASize.code_lt (c : ASize) : c.code < 2 ^ 2 := (Laws.ASize_code_le c).trans_lt (by decide)
theorem MType.code_lt (c : MType) : c.code < 2 ^ 2 := (Laws.MType_code_le c).trans_lt (by decide)
theorem Pair.code_lt (c : Pair) : c.code < 2 ^ 5 := (Laws.Pair_code_le c).trans_lt (by decide)

@[simp] theorem Size.ofCode_code (c : Size) : ofCode c.code = c := by cases c <;> rfl
@[simp] theorem Scope.ofCode_code (c : Scope) : ofCode c.code = c := by cases c <;> rfl
@[simp] theorem Rnd.ofCode_code (c : Rnd) : ofCode c.code = c := by cases c <;> rfl
@[simp] theorem IType.ofCode_code (c : IType) : ofCode c.code = c := by cases c <;> rfl
@[simp] theorem FType.ofCode_code (c : FType) : ofCode c.code = c := by cases c <;> rfl
@[simp] theorem CFmt.ofCode_code (c : CFmt) : ofCode c.code = c := by cases c <;> rfl
@[simp] theorem FSize.ofCode?_code (c : FSize) : ofCode? c.code = some c := by cases c <;> rfl
@[simp] theorem ASize.ofCode?_code (c : ASize) : ofCode? c.code = some c := by cases c <;> rfl
@[simp] theorem MType.ofCode?_code (c : MType) : ofCode? c.code = some c := by cases c <;> rfl
@[simp] theorem Pair.ofCode?_code (c : Pair) : ofCode? c.code = some c := by cases c <;> rfl

theorem Size.code_ofCode {n : Nat} (h : n < 2 ^ 2) : (ofCode n).code = n := by interval_cases n <;> rfl
theorem Scope.code_ofCode {n : Nat} (h : n < 2 ^ 2) : (ofCode n).code = n := by interval_cases n <;> rfl
theorem Rnd.code_ofCode {n : Nat} (h : n < 2 ^ 2) : (ofCode n).code = n := by interval_cases n <;> rfl
theorem IType.code_ofCode {n : Nat} (h : n < 2 ^ 2) : (ofCode n).code = n := by interval_cases n <;> rfl
theorem FType.code_ofCode {n : Nat} (h : n < 2 ^ 2) : (ofCode n).code = n := by interval_cases n <;> rfl
theorem CFmt.code_ofCode {n : Nat} (h : n < 2 ^ 3) : (ofCode n).code = n := by interval_cases n <;> rfl
theorem FSize.code_of_ofCode? {n : Nat} {c : FSize} (h : ofCode? n = some c) : c.code = n := by
  unfold ofCode? at h; split at h <;> cases h <;> rfl
theorem ASize.code_of_ofCode? {n : Nat} {c : ASize} (h : ofCode? n = some c) : c.code = n := by
  unfold ofCode? at h; split at h <;> cases h <;> rfl
theorem MType.code_of_ofCode? {n : Nat} {c : MType} (h : ofCode? n = some c) : c.code = n := by
  unfold ofCode? at h; split at h <;> cases h <;> rfl
theorem Pair.code_of_ofCode? {n : Nat} {c : Pair} (h : ofCode? n = some c) : c.code = n := by
  unfold ofCode? at h; split at h <;> cases h <;> rfl

end Sys2Proof
end

section
/-! PROOFS. Every instruction is read back from the word that the encoder writes for it (03 R51, R53).

A word is a constant with operands placed in it (`word`), so every field that a decoder reads is known (`bits_word`): an operand, or bits of the
constant. The decoders look at the fields of a word and at nothing else (`readFull`, `readCompact`), so they can be run on these known fields. -/

namespace Sys2Proof.DecodeLaws

open FieldLaws

/-- The decoders give the instruction back from its word. -/
def ReadsBack (i : Instr) : Prop :=
  ∀ n w, i.wellFormed = true → encode i = some (n, w) → (n = 4 → decodeFull w = some i) ∧ (n = 2 → decodeCompact w = some i)

/-- The decoder of four bytes as a function of the fields of the word: its own body, with the reader of fields in the place of `bits w`. It is
for proofs alone and not compiled. -/
noncomputable def readFull : { read : (Nat → Nat → Nat) → Option Instr // ∀ w, decodeFull w = read (bits w) } := by
  refine ⟨?read, fun w => ?same⟩
  case same =>
    delta decodeFull decodeAlu decodeAlu1 decodeShi decodeBr decodeJmp decodeLdg decodeStg decodeAtom decodeFop decodeFmadd decodeFnmadd decodeXidx
      decodeSpr decodeSys decodeMsg decodeFab decodeVint decodeVfp decodeVfma decodeVcmp decodeVperm decodeVmask decodeVmem decodeVgs decodeMxc
      decodeCp fld
    generalize bits w = read
    rfl

/-- The same for the decoder of two bytes. -/
noncomputable def readCompact : { read : (Nat → Nat → Nat) → Option Instr // ∀ w, decodeCompact w = read (bits w) } := by
  refine ⟨?read, fun w => ?same⟩
  case same =>
    delta decodeCompact fld
    generalize bits w = read
    rfl

/-- From the operands of a word of 32 bits, the room for them in its constant, and what the decoder makes of its fields. -/
theorem ReadsBack.of_word {i : Instr} {k : Nat} {ps : List (Nat × Nat)} {vs : List Nat} (ops : Operands ps vs)
    (e : encode i = some (4, word k ps vs)) (free : room k ps = true)
    (h : i.wellFormed = true → ∀ w, readFull.val (fun lo n => look w k ps vs (lo, n)) = some i) : ReadsBack i := by
  intro n w wf e'
  rw [e] at e'
  cases e'
  exact ⟨fun _ => by rw [readFull.property, bits_word ops free, h wf], nofun⟩

/-- The same for a compact instruction. -/
theorem ReadsBack.of_parcel {i : Instr} {k : Nat} {ps : List (Nat × Nat)} {vs : List Nat} (ops : Operands ps vs)
    (e : encode i = some (2, word k ps vs)) (free : room k ps = true)
    (h : ∀ w, readCompact.val (fun lo n => look w k ps vs (lo, n)) = some i) : ReadsBack i := by
  intro n w _ e'
  rw [e] at e'
  cases e'
  exact ⟨nofun, fun _ => by rw [readCompact.property, bits_word ops free, h]⟩

theorem ReadsBack.of_none {i : Instr} (e : encode i = none) : ReadsBack i := by
  intro n w _ e'
  rw [e] at e'
  cases e'

/-- An ordering bit fits its field. -/
theorem flag_lt (b : Bool) : b.toNat < 2 ^ 1 := b.toNat_lt

theorem flag_join (b : Bool) : (b.toNat == 1) = b := by cases b <;> rfl

theorem ofNat_toNat_self {n : Nat} (v : BitVec n) : BitVec.ofNat n v.toNat = v := by simp

/-- The two parts of a branch offset make it up (03 Table 3-2, B). -/
theorem offset_join (off : BitVec 12) : BitVec.ofNat 12 (off.toNat / 4 % 1024 * 4 + off.toNat % 4) = off := by
  apply BitVec.eq_of_toNat_eq
  rw [BitVec.toNat_ofNat]
  omega

/-- The two parts of a tile number make it up (03 R64). -/
theorem tile_join (n : BitVec 6) : BitVec.ofNat 6 (n.toNat / 32 % 2 * 32 + n.toNat % 32) = n := by
  apply BitVec.eq_of_toNat_eq
  rw [BitVec.toNat_ofNat]
  omega

theorem keep_of_wellFormed {i j : Instr} (e : j = i) (h : i.wellFormed = true) : keep j = some i := by
  rw [e, keep, if_pos h]

theorem bind_eq_of_some {α β : Type} {o : Option α} {a : α} {f : α → Option β} {r : Option β} (h : o = some a) (e : f a = r) :
    o.bind f = r := by
  rw [h, Option.bind_some, e]

/-! ### Two formats of many instructions -/

theorem ReadsBack.of_registers {f : BitVec 5 → BitVec 5 → BitVec 5 → Instr} {k : Nat} (d a b : BitVec 5)
    (e : encode (f d a b) = some (4, word k [(7, 5), (12, 5), (17, 5)] [d.toNat, a.toNat, b.toNat]))
    (free : room k [(7, 5), (12, 5), (17, 5)] = true)
    (h : ∀ w, readFull.val (fun lo n => look w k [(7, 5), (12, 5), (17, 5)] [d.toNat, a.toNat, b.toNat] (lo, n)) =
      some (f (.ofNat 5 d.toNat) (.ofNat 5 a.toNat) (.ofNat 5 b.toNat))) : ReadsBack (f d a b) := by
  simp only [ofNat_toNat_self] at h
  exact .of_word (.put 7 d.isLt <| .put 12 a.isLt <| .put 17 b.isLt .nil) e free fun _ => h

theorem ReadsBack.of_lanes {f : BitVec 5 → BitVec 5 → BitVec 5 → IType → BitVec 3 → Instr} {k : Nat} (d a b : BitVec 5) (ty : IType)
    (mask : BitVec 3)
    (e : encode (f d a b ty mask) =
      some (4, word k [(7, 5), (12, 5), (17, 5), (25, 2), (22, 3)] [d.toNat, a.toNat, b.toNat, ty.code, mask.toNat]))
    (free : room k [(7, 5), (12, 5), (17, 5), (25, 2), (22, 3)] = true)
    (h : ∀ w, readFull.val (fun lo n => look w k [(7, 5), (12, 5), (17, 5), (25, 2), (22, 3)]
        [d.toNat, a.toNat, b.toNat, ty.code, mask.toNat] (lo, n)) =
      some (f (.ofNat 5 d.toNat) (.ofNat 5 a.toNat) (.ofNat 5 b.toNat) (.ofCode ty.code) (.ofNat 3 mask.toNat))) :
    ReadsBack (f d a b ty mask) := by
  simp only [ofNat_toNat_self, IType.ofCode_code] at h
  exact .of_word (.put 7 d.isLt <| .put 12 a.isLt <| .put 17 b.isLt <| .put 25 ty.code_lt <| .put 22 mask.isLt .nil) e free fun _ => h

/-! ### Operations on the same operands

Instructions that have the same operands at the same places are read back by the same argument, which names the places. -/

theorem readsBack_alu (d a b : BitVec 5) : ∀ f ∈ [Instr.add, .sub, .and, .or, .xor, .andn, .orn, .xnor, .sll, .srl, .sra, .rol, .ror, .slt, .sltu,
    .seq, .min, .max, .minu, .maxu, .mul, .mulh, .mulhu, .div, .divu, .rem, .remu], ReadsBack (f d a b) := by
  rw [← List.forall_iff_forall_mem]
  and_intros
  all_goals exact .of_registers d a b rfl rfl fun _ => rfl

theorem readsBack_alu1 (d a : BitVec 5) : ∀ f ∈ [Instr.clz, .ctz, .popc, .sextB, .sextH, .sextW, .zextW, .brev, .abs], ReadsBack (f d a) := by
  rw [← List.forall_iff_forall_mem]
  and_intros
  all_goals exact .of_word (.put 7 d.isLt <| .put 12 a.isLt .nil) rfl rfl fun _ _ => congrArg some (by congr 1 <;> exact ofNat_toNat_self _)

theorem readsBack_immediate (d a : BitVec 5) (imm : BitVec 15) : ∀ f ∈ [Instr.addi, .andi, .ori, .xori, .slti, .sltiu], ReadsBack (f d a imm) := by
  rw [← List.forall_iff_forall_mem]
  and_intros
  all_goals
    exact .of_word
        (.put 7 d.isLt <| .put 12 a.isLt <| .put 17 imm.isLt .nil)
        rfl rfl fun _ _ => congrArg some (by congr 1 <;> exact ofNat_toNat_self _)

theorem readsBack_br (a b : BitVec 5) (off : BitVec 12) : ∀ f ∈ [Instr.bEq, .bNe, .bLt, .bGe, .bLtu, .bGeu], ReadsBack (f a b off) := by
  rw [← List.forall_iff_forall_mem]
  and_intros
  all_goals
    exact .of_word
        (.put 12 a.isLt <| .put 17 b.isLt <| .put 22 (Nat.mod_lt (off.toNat / 4) (by decide : 0 < 2 ^ 10)) <|
         .put 10 (Nat.mod_lt off.toNat (by decide : 0 < 2 ^ 2)) .nil)
        rfl rfl fun _ _ => congrArg some (by congr 1 <;> apply_rules [ofNat_toNat_self, offset_join])

theorem readsBack_fop_exact (d a b : BitVec 5) (ty : FType) : ∀ f ∈ [Instr.fmin, .fmax, .fsgnj, .fsgnjn, .fsgnjx, .feq, .flt, .fle],
    ReadsBack (f d a b ty) := by
  rw [← List.forall_iff_forall_mem]
  and_intros
  all_goals
    exact .of_word
        (.put 7 d.isLt <| .put 12 a.isLt <| .put 17 b.isLt <| .put 25 ty.code_lt .nil)
        rfl rfl fun _ _ => congrArg some (by congr 1 <;> apply_rules [ofNat_toNat_self, FType.ofCode_code])

theorem readsBack_sys_plain  : ∀ f ∈ [Instr.nop, .tret, .wfe, .commit, .abort, .split], ReadsBack (f ) := by
  rw [← List.forall_iff_forall_mem]
  and_intros
  all_goals exact .of_word .nil rfl rfl fun _ _ => rfl

theorem readsBack_atom (d a b : BitVec 5) (ar : Bool) (sz : ASize) (scope : Scope) : ∀ f ∈ [Instr.atomAdd, .atomAnd, .atomOr, .atomXor, .atomMin,
    .atomMax, .atomMinu, .atomMaxu, .atomSwap, .atomCas], ReadsBack (f d a b ar sz scope) := by
  rw [← List.forall_iff_forall_mem]
  and_intros
  all_goals
    exact .of_word
        (.put 7 d.isLt <| .put 12 a.isLt <| .put 17 b.isLt <| .put 22 (flag_lt ar) <| .put 25 sz.code_lt <|
         .put 23 scope.code_lt .nil)
        rfl rfl fun wf _ =>
          bind_eq_of_some (ASize.ofCode?_code sz) (keep_of_wellFormed (by congr 1 <;> apply_rules [ofNat_toNat_self, flag_join, Scope.ofCode_code]) wf)

theorem readsBack_vint (d a b : BitVec 5) (ty : IType) (mask : BitVec 3) : ∀ f ∈ [Instr.vadd, .vsub, .vmul, .vmulh, .vmulhu, .vmin, .vmax, .vminu,
    .vmaxu, .vand, .vor, .vxor, .vsll, .vsrl, .vsra, .vadds, .vsubs], ReadsBack (f d a b ty mask) := by
  rw [← List.forall_iff_forall_mem]
  and_intros
  all_goals exact .of_lanes d a b ty mask rfl rfl fun _ => rfl

theorem readsBack_vfp (d a b : BitVec 5) (ty : FType) (mask : BitVec 3) : ∀ f ∈ [Instr.vfadd, .vfsub, .vfmul, .vfdiv, .vfmin, .vfmax, .vfmadd,
    .vfmsub, .vfnmadd, .vfnmsub], ReadsBack (f d a b ty mask) := by
  rw [← List.forall_iff_forall_mem]
  and_intros
  all_goals
    exact .of_word
        (.put 7 d.isLt <| .put 12 a.isLt <| .put 17 b.isLt <| .put 25 ty.code_lt <| .put 22 mask.isLt .nil)
        rfl rfl fun _ _ => congrArg some (by congr 1 <;> apply_rules [ofNat_toNat_self, FType.ofCode_code])

theorem readsBack_vcmp_int (d : BitVec 3) (a b : BitVec 5) (ty : IType) (mask : BitVec 3) : ∀ f ∈ [Instr.vceq, .vcne, .vclt, .vcle, .vcltu, .vcleu],
    ReadsBack (f d a b ty mask) := by
  rw [← List.forall_iff_forall_mem]
  and_intros
  all_goals
    exact .of_word
        (.put 7 d.isLt <| .put 12 a.isLt <| .put 17 b.isLt <| .put 25 ty.code_lt <| .put 22 mask.isLt .nil)
        rfl rfl fun _ _ => congrArg some (by congr 1 <;> apply_rules [ofNat_toNat_self, IType.ofCode_code])

theorem readsBack_vperm (d a b : BitVec 5) (ty : IType) (mask : BitVec 3) : ∀ f ∈ [Instr.vsel, .vperm, .vslup, .vsldn, .vgather, .vscatter],
    ReadsBack (f d a b ty mask) := by
  rw [← List.forall_iff_forall_mem]
  and_intros
  all_goals exact .of_lanes d a b ty mask rfl rfl fun _ => rfl

theorem readsBack_vpack (d a b : BitVec 5) (rnd : Rnd) : ∀ f ∈ [Instr.vpackM8, .vpackE43, .vpackE52, .vpackE23, .vpackE32, .vpackE21, .vpackI8],
    ReadsBack (f d a b rnd) := by
  rw [← List.forall_iff_forall_mem]
  and_intros
  all_goals
    exact .of_word
        (.put 7 d.isLt <| .put 12 a.isLt <| .put 17 b.isLt <| .put 24 rnd.code_lt .nil)
        rfl rfl fun _ _ => congrArg some (by congr 1 <;> apply_rules [ofNat_toNat_self, Rnd.ofCode_code])

theorem readsBack_compact (d s : BitVec 5) : ∀ f ∈ [Instr.addCX0, .addC, .subC, .andC, .orC, .xorC, .ldDC, .stDC, .ldWC, .stWC, .faddSC, .fmulSC],
    ReadsBack (f d s) := by
  rw [← List.forall_iff_forall_mem]
  and_intros
  all_goals exact .of_parcel (.put 6 d.isLt <| .put 1 s.isLt .nil) rfl rfl fun _ => congrArg some (by congr 1 <;> exact ofNat_toNat_self _)

/-! ### Every instruction -/

theorem readsBack (i : Instr) : ReadsBack i := by
  cases i with
  -- Integer and control-transfer majors (03 R57, R58)
  | add d a b | sub d a b | and d a b | or d a b | xor d a b | andn d a b | orn d a b | xnor d a b | sll d a b | srl d a b | sra d a b | rol d a b
    | ror d a b | slt d a b | sltu d a b | seq d a b | min d a b | max d a b | minu d a b | maxu d a b | mul d a b | mulh d a b | mulhu d a b
    | div d a b | divu d a b | rem d a b | remu d a b =>
    exact readsBack_alu d a b _ (by repeat constructor)
  | csel d a b c =>
    exact .of_word
        (.put 7 d.isLt <| .put 12 a.isLt <| .put 17 b.isLt <| .put 22 c.isLt .nil)
        rfl rfl fun _ _ => congrArg some (by congr 1 <;> exact ofNat_toNat_self _)
  | clz d a | ctz d a | popc d a | sextB d a | sextH d a | sextW d a | zextW d a | brev d a | abs d a =>
    exact readsBack_alu1 d a _ (by repeat constructor)
  | addsl d a b n =>
    exact .of_word
        (.put 7 d.isLt <| .put 12 a.isLt <| .put 17 b.isLt <| .put 22 n.isLt .nil)
        rfl rfl fun _ _ => congrArg some (by congr 1 <;> exact ofNat_toNat_self _)
  | addi d a imm | andi d a imm | ori d a imm | xori d a imm | slti d a imm | sltiu d a imm =>
    exact readsBack_immediate d a imm _ (by repeat constructor)
  | slli d a n | srli d a n | srai d a n | roli d a n | rori d a n =>
    exact .of_word (.put 7 d.isLt <| .put 12 a.isLt <| .put 22 n.isLt .nil) rfl rfl fun _ _ => congrArg some (by congr 1 <;> exact ofNat_toNat_self _)
  | lih d imm | lia d imm =>
    exact .of_word (.put 7 d.isLt <| .put 12 imm.isLt .nil) rfl rfl fun _ _ => congrArg some (by congr 1 <;> exact ofNat_toNat_self _)
  | bEq a b off | bNe a b off | bLt a b off | bGe a b off | bLtu a b off | bGeu a b off =>
    exact readsBack_br a b off _ (by repeat constructor)
  | j off =>
    exact .of_word (.put 7 off.isLt .nil) rfl rfl fun _ _ => congrArg some (by congr 1; exact ofNat_toNat_self _)
  | call off k =>
    exact .of_word (.put 12 off.isLt <| .put 7 k.isLt .nil) rfl rfl fun wf _ => keep_of_wellFormed (by congr 1 <;> exact ofNat_toNat_self _) wf
  | jr a =>
    exact .of_word (.put 12 a.isLt .nil) rfl rfl fun _ _ => congrArg some (by congr 1; exact ofNat_toNat_self _)
  | callr a k =>
    exact .of_word (.put 12 a.isLt <| .put 22 k.isLt .nil) rfl rfl fun wf _ => keep_of_wellFormed (by congr 1 <;> exact ofNat_toNat_self _) wf
  | ret =>
    exact .of_word .nil rfl rfl fun _ _ => rfl
  | loop a len =>
    exact .of_word (.put 12 a.isLt <| .put 17 len.isLt .nil) rfl rfl fun _ _ => congrArg some (by congr 1 <;> exact ofNat_toNat_self _)
  | loopi count len =>
    exact .of_word (.put 20 count.isLt <| .put 9 len.isLt .nil) rfl rfl fun _ _ => congrArg some (by congr 1 <;> exact ofNat_toNat_self _)
  -- Local memory (03 R56)
  | ld d a imm sz | st d a imm sz =>
    exact .of_word
        (.put 7 d.isLt <| .put 12 a.isLt <| .put 19 imm.isLt <| .put 17 sz.code_lt .nil)
        rfl rfl fun _ _ => congrArg some (by congr 1 <;> apply_rules [ofNat_toNat_self, Size.ofCode_code])
  | fld d a imm sz | fst d a imm sz =>
    exact .of_word
        (.put 7 d.isLt <| .put 12 a.isLt <| .put 19 imm.isLt <| .put 17 sz.code_lt .nil)
        rfl rfl fun _ _ => bind_eq_of_some (FSize.ofCode?_code sz) (congrArg some (by congr 1 <;> exact ofNat_toNat_self _))
  -- Floating point (03 R59)
  | fadd d a b ty rnd | fsub d a b ty rnd | fmul d a b ty rnd | fdiv d a b ty rnd =>
    exact .of_word
        (.put 7 d.isLt <| .put 12 a.isLt <| .put 17 b.isLt <| .put 25 ty.code_lt <| .put 23 rnd.code_lt .nil)
        rfl rfl fun _ _ => congrArg some (by congr 1 <;> apply_rules [ofNat_toNat_self, FType.ofCode_code, Rnd.ofCode_code])
  | fsqrt d a ty rnd | fcvtI d a ty rnd | fcvtFromI d a ty rnd =>
    exact .of_word
        (.put 7 d.isLt <| .put 12 a.isLt <| .put 25 ty.code_lt <| .put 23 rnd.code_lt .nil)
        rfl rfl fun _ _ => congrArg some (by congr 1 <;> apply_rules [ofNat_toNat_self, FType.ofCode_code, Rnd.ofCode_code])
  | fmin d a b ty | fmax d a b ty | fsgnj d a b ty | fsgnjn d a b ty | fsgnjx d a b ty | feq d a b ty | flt d a b ty | fle d a b ty =>
    exact readsBack_fop_exact d a b ty _ (by repeat constructor)
  | fclass d a ty | fmvX d a ty | fmvF d a ty =>
    exact .of_word
        (.put 7 d.isLt <| .put 12 a.isLt <| .put 25 ty.code_lt .nil)
        rfl rfl fun _ _ => congrArg some (by congr 1 <;> apply_rules [ofNat_toNat_self, FType.ofCode_code])
  | fcvt d a src ty rnd =>
    exact .of_word
        (.put 7 d.isLt <| .put 12 a.isLt <| .put 17 src.code_lt <| .put 25 ty.code_lt <| .put 23 rnd.code_lt .nil)
        rfl rfl fun wf _ => keep_of_wellFormed (by congr 1 <;> apply_rules [ofNat_toNat_self, FType.ofCode_code, Rnd.ofCode_code]) wf
  | fmadd d a b c ty rnd | fmsub d a b c ty rnd | fnmadd d a b c ty rnd | fnmsub d a b c ty rnd =>
    exact .of_word
        (.put 7 d.isLt <| .put 12 a.isLt <| .put 17 b.isLt <| .put 22 c.isLt <| .put 30 ty.code_lt <| .put 28 rnd.code_lt .nil)
        rfl rfl fun _ _ => congrArg some (by congr 1 <;> apply_rules [ofNat_toNat_self, FType.ofCode_code, Rnd.ofCode_code])
  -- Slot control, messages and release groups (03 R60, R61)
  | fgetx d a b | fputx d a b | xgetx d a b | xputx d a b =>
    exact .of_registers d a b rfl rfl fun _ => rfl
  | gets d n =>
    exact .of_word (.put 7 d.isLt <| .put 20 n.isLt .nil) rfl rfl fun _ _ => congrArg some (by congr 1 <;> exact ofNat_toNat_self _)
  | puts a n =>
    exact .of_word (.put 12 a.isLt <| .put 20 n.isLt .nil) rfl rfl fun _ _ => congrArg some (by congr 1 <;> exact ofNat_toNat_self _)
  | nop | tret | wfe | commit | abort | split =>
    exact readsBack_sys_plain  _ (by repeat constructor)
  | trap imm | brk imm | texit imm =>
    exact .of_word (.put 12 imm.isLt .nil) rfl rfl fun _ _ => congrArg some (by congr 1; exact ofNat_toNat_self _)
  | sev a =>
    exact .of_word (.put 12 a.isLt .nil) rfl rfl fun _ _ => congrArg some (by congr 1; exact ofNat_toNat_self _)
  | popev d =>
    exact .of_word (.put 7 d.isLt .nil) rfl rfl fun _ _ => congrArg some (by congr 1; exact ofNat_toNat_self _)
  | region msk =>
    exact .of_word (.put 12 msk.isLt .nil) rfl rfl fun wf _ => keep_of_wellFormed (by congr 1; exact ofNat_toNat_self _) wf
  | gang n =>
    exact .of_word (.put 12 n.isLt .nil) rfl rfl fun wf _ => keep_of_wellFormed (by congr 1; exact ofNat_toNat_self _) wf
  | fence scope =>
    exact .of_word (.put 12 scope.code_lt .nil) rfl rfl fun _ _ => congrArg some (by congr 1; exact Scope.ofCode_code _)
  | probe d a =>
    exact .of_word (.put 7 d.isLt <| .put 12 a.isLt .nil) rfl rfl fun _ _ => congrArg some (by congr 1 <;> exact ofNat_toNat_self _)
  | send a b =>
    exact .of_word (.put 12 a.isLt <| .put 17 b.isLt .nil) rfl rfl fun _ _ => congrArg some (by congr 1 <;> exact ofNat_toNat_self _)
  | recv d =>
    exact .of_word (.put 7 d.isLt .nil) rfl rfl fun _ _ => congrArg some (by congr 1; exact ofNat_toNat_self _)
  | grp grp =>
    exact .of_word (.put 17 grp.isLt .nil) rfl rfl fun wf _ => keep_of_wellFormed (by congr 1; exact ofNat_toNat_self _) wf
  | rel a b =>
    exact .of_word (.put 12 a.isLt <| .put 17 b.isLt .nil) rfl rfl fun wf _ => keep_of_wellFormed (by congr 1 <;> exact ofNat_toNat_self _) wf
  | grpq d grp =>
    exact .of_word (.put 7 d.isLt <| .put 17 grp.isLt .nil) rfl rfl fun wf _ => keep_of_wellFormed (by congr 1 <;> exact ofNat_toNat_self _) wf
  -- Global memory, atomics and waits (03 R56)
  | ldG d a imm sz | stG d a imm sz =>
    exact .of_word
        (.put 7 d.isLt <| .put 12 a.isLt <| .put 23 imm.isLt <| .put 21 sz.code_lt .nil)
        rfl rfl fun _ _ => congrArg some (by congr 1 <;> apply_rules [ofNat_toNat_self, Size.ofCode_code])
  | ldAcq d a imm sz scope | stRel d a imm sz scope =>
    exact .of_word
        (.put 7 d.isLt <| .put 12 a.isLt <| .put 23 imm.isLt <| .put 21 sz.code_lt <| .put 19 scope.code_lt .nil)
        rfl rfl fun _ _ => congrArg some (by congr 1 <;> apply_rules [ofNat_toNat_self, Size.ofCode_code, Scope.ofCode_code])
  | atomAdd d a b ar sz scope | atomAnd d a b ar sz scope | atomOr d a b ar sz scope | atomXor d a b ar sz scope | atomMin d a b ar sz scope
    | atomMax d a b ar sz scope | atomMinu d a b ar sz scope | atomMaxu d a b ar sz scope | atomSwap d a b ar sz scope | atomCas d a b ar sz scope
    =>
    exact readsBack_atom d a b ar sz scope _ (by repeat constructor)
  | atomFaddS d a b ar scope | atomFminS d a b ar scope | atomFmaxS d a b ar scope =>
    exact .of_word
        (.put 7 d.isLt <| .put 12 a.isLt <| .put 17 b.isLt <| .put 22 (flag_lt ar) <| .put 23 scope.code_lt .nil)
        rfl rfl fun wf _ => keep_of_wellFormed (by congr 1 <;> apply_rules [ofNat_toNat_self, flag_join, Scope.ofCode_code]) wf
  | wait ld st cp mx =>
    exact .of_word
        (.put 16 ld.isLt <| .put 20 st.isLt <| .put 24 cp.isLt <| .put 28 mx.isLt .nil)
        rfl rfl fun _ _ => congrArg some (by congr 1 <;> exact ofNat_toNat_self _)
  -- Vector majors (03 R62, R63)
  | vadd d a b ty mask | vsub d a b ty mask | vmul d a b ty mask | vmulh d a b ty mask | vmulhu d a b ty mask | vmin d a b ty mask
    | vmax d a b ty mask | vminu d a b ty mask | vmaxu d a b ty mask | vand d a b ty mask | vor d a b ty mask | vxor d a b ty mask
    | vsll d a b ty mask | vsrl d a b ty mask | vsra d a b ty mask | vadds d a b ty mask | vsubs d a b ty mask =>
    exact readsBack_vint d a b ty mask _ (by repeat constructor)
  | vabs d a ty mask | vneg d a ty mask | vdup d a ty mask =>
    exact .of_word
        (.put 7 d.isLt <| .put 12 a.isLt <| .put 25 ty.code_lt <| .put 22 mask.isLt .nil)
        rfl rfl fun _ _ => congrArg some (by congr 1 <;> apply_rules [ofNat_toNat_self, IType.ofCode_code])
  | vfadd d a b ty mask | vfsub d a b ty mask | vfmul d a b ty mask | vfdiv d a b ty mask | vfmin d a b ty mask | vfmax d a b ty mask
    | vfmadd d a b ty mask | vfmsub d a b ty mask | vfnmadd d a b ty mask | vfnmsub d a b ty mask =>
    exact readsBack_vfp d a b ty mask _ (by repeat constructor)
  | vfsqrt d a ty mask | vfabs d a ty mask | vfneg d a ty mask | vfdup d a ty mask =>
    exact .of_word
        (.put 7 d.isLt <| .put 12 a.isLt <| .put 25 ty.code_lt <| .put 22 mask.isLt .nil)
        rfl rfl fun _ _ => congrArg some (by congr 1 <;> apply_rules [ofNat_toNat_self, FType.ofCode_code])
  | vceq d a b ty mask | vcne d a b ty mask | vclt d a b ty mask | vcle d a b ty mask | vcltu d a b ty mask | vcleu d a b ty mask =>
    exact readsBack_vcmp_int d a b ty mask _ (by repeat constructor)
  | vfceq d a b ty mask | vfclt d a b ty mask | vfcle d a b ty mask =>
    exact .of_word
        (.put 7 d.isLt <| .put 12 a.isLt <| .put 17 b.isLt <| .put 25 ty.code_lt <| .put 22 mask.isLt .nil)
        rfl rfl fun _ _ => congrArg some (by congr 1 <;> apply_rules [ofNat_toNat_self, FType.ofCode_code])
  | vsel d a b ty mask | vperm d a b ty mask | vslup d a b ty mask | vsldn d a b ty mask | vgather d a b ty mask | vscatter d a b ty mask =>
    exact readsBack_vperm d a b ty mask _ (by repeat constructor)
  | vrsum d a ty mask | vrmin d a ty mask | vrmax d a ty mask =>
    exact .of_word
        (.put 7 d.isLt <| .put 12 a.isLt <| .put 25 ty.code_lt <| .put 22 mask.isLt .nil)
        rfl rfl fun _ _ => congrArg some (by congr 1 <;> apply_rules [ofNat_toNat_self, IType.ofCode_code])
  | vfrsum d a ty mask | vfrmin d a ty mask | vfrmax d a ty mask =>
    exact .of_word
        (.put 7 d.isLt <| .put 12 a.isLt <| .put 25 ty.code_lt <| .put 22 mask.isLt .nil)
        rfl rfl fun _ _ => congrArg some (by congr 1 <;> apply_rules [ofNat_toNat_self, FType.ofCode_code])
  | vext d a b ty | vins d a b ty =>
    exact .of_word
        (.put 7 d.isLt <| .put 12 a.isLt <| .put 17 b.isLt <| .put 25 ty.code_lt .nil)
        rfl rfl fun _ _ => congrArg some (by congr 1 <;> apply_rules [ofNat_toNat_self, IType.ofCode_code])
  | vcvt d a src dst rnd mask =>
    exact .of_word
        (.put 7 d.isLt <| .put 12 a.isLt <| .put 26 src.code_lt <| .put 29 dst.code_lt <| .put 24 rnd.code_lt <|
         .put 21 mask.isLt .nil)
        rfl rfl fun wf _ => keep_of_wellFormed (by congr 1 <;> apply_rules [ofNat_toNat_self, CFmt.ofCode_code, Rnd.ofCode_code]) wf
  | mand d a b | mor d a b | mxor d a b | mandn d a b =>
    exact .of_word (.put 7 d.isLt <| .put 12 a.isLt <| .put 17 b.isLt .nil) rfl rfl fun _ _ => congrArg some (by congr 1 <;> exact ofNat_toNat_self _)
  | mnot d a =>
    exact .of_word (.put 7 d.isLt <| .put 12 a.isLt .nil) rfl rfl fun _ _ => congrArg some (by congr 1 <;> exact ofNat_toNat_self _)
  | mpopc d a | mfirst d a | mtox d a =>
    exact .of_word (.put 7 d.isLt <| .put 12 a.isLt .nil) rfl rfl fun _ _ => congrArg some (by congr 1 <;> exact ofNat_toNat_self _)
  | mfromx d a =>
    exact .of_word (.put 7 d.isLt <| .put 12 a.isLt .nil) rfl rfl fun _ _ => congrArg some (by congr 1 <;> exact ofNat_toNat_self _)
  | vld d a off mask | vst d a off mask =>
    exact .of_word
        (.put 7 d.isLt <| .put 12 a.isLt <| .put 25 off.isLt <| .put 22 mask.isLt .nil)
        rfl rfl fun _ _ => congrArg some (by congr 1 <;> exact ofNat_toNat_self _)
  -- Matrix and copy majors (03 R64, R65)
  | mmaLo a b f n pair | mmaHi a b f n pair =>
    exact .of_word
        (.put 12 a.isLt <| .put 17 b.isLt <| .put 22 f.isLt <| .put 7 n.isLt <| .put 27 pair.code_lt .nil)
        rfl rfl fun _ _ => bind_eq_of_some (Pair.ofCode?_code pair) (congrArg some (by congr 1 <;> exact ofNat_toNat_self _))
  | mclr n =>
    exact .of_word
        (.put 26 (Nat.mod_lt (n.toNat / 32) (by decide : 0 < 2 ^ 1)) <| .put 7 (Nat.mod_lt n.toNat (by decide : 0 < 2 ^ 5)) .nil)
        rfl rfl fun _ _ => congrArg some (by congr 1; exact tile_join _)
  | mld n a ty =>
    exact .of_word
        (.put 26 (Nat.mod_lt (n.toNat / 32) (by decide : 0 < 2 ^ 1)) <| .put 7 (Nat.mod_lt n.toNat (by decide : 0 < 2 ^ 5)) <|
         .put 12 a.isLt <| .put 22 ty.code_lt .nil)
        rfl rfl fun _ _ => bind_eq_of_some (MType.ofCode?_code ty) (congrArg some (by congr 1 <;> apply_rules [tile_join, ofNat_toNat_self]))
  | mst n a ty rnd =>
    exact .of_word
        (.put 26 (Nat.mod_lt (n.toNat / 32) (by decide : 0 < 2 ^ 1)) <| .put 7 (Nat.mod_lt n.toNat (by decide : 0 < 2 ^ 5)) <|
         .put 12 a.isLt <| .put 22 ty.code_lt <| .put 24 rnd.code_lt .nil)
        rfl rfl fun wf _ =>
          bind_eq_of_some (MType.ofCode?_code ty) (keep_of_wellFormed (by congr 1 <;> apply_rules [tile_join, ofNat_toNat_self, Rnd.ofCode_code]) wf)
  | mcfg a n =>
    exact .of_word (.put 12 a.isLt <| .put 17 n.isLt .nil) rfl rfl fun _ _ => congrArg some (by congr 1 <;> exact ofNat_toNat_self _)
  | vpackM8 d a b rnd | vpackE43 d a b rnd | vpackE52 d a b rnd | vpackE23 d a b rnd | vpackE32 d a b rnd | vpackE21 d a b rnd | vpackI8 d a b rnd
    =>
    exact readsBack_vpack d a b rnd _ (by repeat constructor)
  | cp a b ch | cpMc a b ch | cpDec a b ch | subscr a b ch | chinit a b ch =>
    exact .of_word
        (.put 12 a.isLt <| .put 17 b.isLt <| .put 22 ch.isLt .nil)
        rfl rfl fun _ _ => congrArg some (by congr 1 <;> exact ofNat_toNat_self _)
  | srel a ch =>
    exact .of_word (.put 12 a.isLt <| .put 22 ch.isLt .nil) rfl rfl fun _ _ => congrArg some (by congr 1 <;> exact ofNat_toNat_self _)
  | chq d ch =>
    exact .of_word (.put 7 d.isLt <| .put 22 ch.isLt .nil) rfl rfl fun _ _ => congrArg some (by congr 1 <;> exact ofNat_toNat_self _)
  | cpcfg a n =>
    exact .of_word (.put 12 a.isLt <| .put 17 n.isLt .nil) rfl rfl fun _ _ => congrArg some (by congr 1 <;> exact ofNat_toNat_self _)
  | waitc ch =>
    exact .of_word (.put 22 ch.isLt .nil) rfl rfl fun _ _ => congrArg some (by congr 1; exact ofNat_toNat_self _)
  -- Compact instructions (03 R66, R67)
  | nopC | retC | texitC | wfeC =>
    exact .of_parcel .nil rfl rfl fun _ => rfl
  | addCX0 d s | addC d s | subC d s | andC d s | orC d s | xorC d s | ldDC d s | stDC d s | ldWC d s | stWC d s | faddSC d s | fmulSC d s =>
    exact readsBack_compact d s _ (by repeat constructor)
  | addiC d imm | addiCX0 d imm =>
    exact .of_parcel (.put 6 d.isLt <| .put 1 imm.isLt .nil) rfl rfl fun _ => congrArg some (by congr 1 <;> exact ofNat_toNat_self _)
  | slliC d n | srliC d n | sraiC d n =>
    exact .of_parcel (.put 6 d.isLt <| .put 1 n.isLt .nil) rfl rfl fun _ => congrArg some (by congr 1 <;> exact ofNat_toNat_self _)
  | jrC s =>
    exact .of_parcel (.put 1 s.isLt .nil) rfl rfl fun _ => congrArg some (by congr 1; exact ofNat_toNat_self _)
  -- What is no instruction has no word.
  | illegalInstruction _ | fetchFault _ _ | deviceReset | doorbell | ringReset | capsuleAcceptance | codeVerdict | placeGroup | priorityAging
    | deficitCharge | cohortReservation | parkCapsule | parkCaptureEnd | resumeCapsule | capsuleCompletion | capsuleFault | messageArrival
    | overflowActivation | sevArrival | remoteAccessArrival | accessResponse | responseTimeout | atsTranslationComplete | atsInvalidation
    | hostMemoryAccess | heldWriteDepart | relFlagDepart | engineCommandStart | engineCommandRetire | copyCommandAccept | copyPieceServe | decCopy
    | channelCount | copyPieceLost | subscriptionStart | switchForward | linkFlitReceive | flitReplay | linkDown | laneLoss | portPacketReceive
    | countedPacketArrival | arrivalTimeout | arrivalOrphan | rosterInstall | fmkeyWrite | cellarDoorbell | cellarStep | cellarPacketDepart | clip
    | promote | rootSign | egressTokenTick | hostReadWithheld | jconsumedWrite | firmwareUpdate | firmwareRestart | cxlPortConfig | registerWrite
    | debugRead | powerLimitControl | thermalThrottle | thermalShutdown | tdispStateChange | expanderFailure | storeBufferPerform
    | releaseConditionMet | softError | linkRetrainComplete | cxlLinkState | hostAtomicop | ideKeyProgramming | thermalThrottleEnd =>
    exact .of_none rfl

end Sys2Proof.DecodeLaws
end

section
/-! PROOFS. The length of what the encoder writes, for every instruction (03 R50). -/

namespace Sys2Proof.Laws.EncodedLength

theorem encodedLength (i : Instr) : Statement i :=
  i.casesOn add sub and or xor andn orn xnor sll srl sra rol ror slt sltu seq min max minu maxu csel mul mulh mulhu div divu rem remu clz ctz
    popc sextB sextH sextW zextW brev abs addsl addi andi ori xori slti sltiu slli srli srai roli rori lih lia bEq bNe bLt bGe bLtu bGeu j call jr
    callr loop loopi ld st fld fst fadd fsub fmul fdiv fsqrt fmin fmax fsgnj fsgnjn fsgnjx feq flt fle fclass fcvt fcvtI fcvtFromI fmvX fmvF fmadd
    fmsub fnmadd fnmsub fgetx fputx xgetx xputx gets puts trap brk texit sev popev region gang fence probe send recv grp rel grpq ldG ldAcq stG
    stRel atomAdd atomAnd atomOr atomXor atomMin atomMax atomMinu atomMaxu atomSwap atomCas atomFaddS atomFminS atomFmaxS wait vadd vsub vmul vmulh
    vmulhu vmin vmax vminu vmaxu vand vor vxor vsll vsrl vsra vadds vsubs vabs vneg vdup vfadd vfsub vfmul vfdiv vfsqrt vfmin vfmax vfabs vfneg
    vfdup vfmadd vfmsub vfnmadd vfnmsub vceq vcne vclt vcle vcltu vcleu vfceq vfclt vfcle vsel vperm vslup vsldn vrsum vrmin vrmax vfrsum vfrmin
    vfrmax vext vins vcvt mand mor mxor mandn mnot mpopc mfirst mfromx mtox vld vst vgather vscatter mmaLo mmaHi mclr mld mst mcfg vpackM8 vpackE43
    vpackE52 vpackE23 vpackE32 vpackE21 vpackI8 cp cpMc cpDec subscr srel chinit chq cpcfg waitc addCX0 addC subC andC orC xorC addiC addiCX0 slliC
    srliC sraiC ldDC stDC ldWC stWC jrC faddSC fmulSC illegalInstruction fetchFault ret nop tret wfe commit abort split nopC retC texitC wfeC
    deviceReset doorbell ringReset capsuleAcceptance codeVerdict placeGroup priorityAging deficitCharge cohortReservation parkCapsule parkCaptureEnd
    resumeCapsule capsuleCompletion capsuleFault messageArrival overflowActivation sevArrival remoteAccessArrival accessResponse responseTimeout
    atsTranslationComplete atsInvalidation hostMemoryAccess heldWriteDepart relFlagDepart engineCommandStart engineCommandRetire copyCommandAccept
    copyPieceServe decCopy channelCount copyPieceLost subscriptionStart switchForward linkFlitReceive flitReplay linkDown laneLoss portPacketReceive
    countedPacketArrival arrivalTimeout arrivalOrphan rosterInstall fmkeyWrite cellarDoorbell cellarStep cellarPacketDepart clip promote rootSign
    egressTokenTick hostReadWithheld jconsumedWrite firmwareUpdate firmwareRestart cxlPortConfig registerWrite debugRead powerLimitControl
    thermalThrottle thermalShutdown tdispStateChange expanderFailure storeBufferPerform releaseConditionMet softError linkRetrainComplete
    cxlLinkState hostAtomicop ideKeyProgramming thermalThrottleEnd

end Sys2Proof.Laws.EncodedLength
end

section
/-! PROOFS. Decoding the bytes of a word, and the words that chapter 03 works out (03 R50, R51). -/

namespace Sys2Proof.DecodeLaws

open FieldLaws

/-! ### Bytes and numbers (00 R6) -/

theorem leNat_leBytes (n v : Nat) : leNat (leBytes n v) = v % 256 ^ n := by
  induction n generalizing v with
  | zero => simp [leBytes, leNat, Nat.mod_one]
  | succ n ih => rw [leBytes, leNat, ih, BitVec.toNat_ofNat, pow_succ' 256 n, Nat.mod_mul]

theorem leBytes_leNat (bs : List Byte) : leBytes bs.length (leNat bs) = bs := by
  induction bs with
  | nil => rfl
  | cons b bs ih =>
    have low : BitVec.ofNat 8 (b.toNat + 256 * leNat bs) = b := by
      apply BitVec.eq_of_toNat_eq
      rw [BitVec.toNat_ofNat]
      omega
    rw [List.length_cons, leNat, leBytes, low, Nat.add_mul_div_left _ _ (by decide), Nat.div_eq_of_lt b.isLt, Nat.zero_add, ih]

/-! ### Words that fill their bytes -/

theorem decode_of_full {b0 b1 b2 b3 : Byte} {rest : List Byte} {i : Instr} (odd : b0.toNat % 2 = 1)
    (h : decodeFull (leNat [b0, b1, b2, b3]) = some i) : decode (b0 :: b1 :: b2 :: b3 :: rest) = .ok (i, rest) := by
  have long : ¬ b0.toNat % 2 = 0 := by omega
  simp only [decode, if_neg long, h]

theorem decode_of_compact {b0 b1 : Byte} {rest : List Byte} {i : Instr} (even : b0.toNat % 2 = 0)
    (h : decodeCompact (leNat [b0, b1]) = some i) : decode (b0 :: b1 :: rest) = .ok (i, rest) := by
  simp only [decode, if_pos even, h]

theorem decodeTableWord_of_full {w : Nat} {i : Instr} (odd : w % 2 = 1) (lt : w < 2 ^ 32) (h : decodeFull w = some i) :
    decodeTableWord 32 w = some i := by
  have whole : leNat (leBytes 4 w) = w := (leNat_leBytes 4 w).trans (Nat.mod_eq_of_lt lt)
  have parcel : (BitVec.ofNat 8 w).toNat % 2 = 1 := by rw [BitVec.toNat_ofNat]; omega
  have decoded : decode (leBytes 4 w ++ [0, 0]) = .ok (i, [0, 0]) := decode_of_full parcel (whole.symm ▸ h)
  simp only [decodeTableWord, Nat.reduceDiv, decoded]

theorem decodeTableWord_of_compact {w : Nat} {i : Instr} (even : w % 2 = 0) (lt : w < 2 ^ 16) (h : decodeCompact w = some i) :
    decodeTableWord 16 w = some i := by
  have whole : leNat (leBytes 2 w) = w := (leNat_leBytes 2 w).trans (Nat.mod_eq_of_lt lt)
  have parcel : (BitVec.ofNat 8 w).toNat % 2 = 0 := by rw [BitVec.toNat_ofNat]; omega
  have decoded : decode (leBytes 2 w ++ [0, 0]) = .ok (i, [0, 0]) := decode_of_compact parcel (whole.symm ▸ h)
  simp only [decodeTableWord, Nat.reduceDiv, decoded]

/-- Settles O42: each instruction is read back from the constant and the operands that its word is made of. -/
theorem decodeOfEncode : Obligations.DecodeOfEncode := by
  intro i n w wf e
  obtain ⟨full, compact⟩ := readsBack i n w wf e
  obtain ⟨rfl, even, lt⟩ | ⟨rfl, odd, lt⟩ := Laws.EncodedLength.encodedLength i n w e
  · exact decodeTableWord_of_compact even lt (compact rfl)
  · exact decodeTableWord_of_full odd lt (full rfl)

/-- Settles O46: each word is decoded by evaluation. -/
theorem sampleWords : Obligations.SampleWords := by
  refine ⟨rfl, rfl, rfl, rfl, rfl, rfl, rfl, rfl, rfl, rfl, rfl⟩

end Sys2Proof.DecodeLaws
end

section
/-! PROOFS. What the decoders read from a word is well formed, and its encoding is that word (03 R51, R68).

In each arm of a decoder the opcode, the minor and the reserved fields are known and the others are the operands. The word that the encoder makes of
the operands has the same fields, and these cover it (`word_eq`). After `split`, case `h_n` is the n-th arm of the decoder. -/

namespace Sys2Proof.DecodeLaws

open FieldLaws

/-- What the decoder answers, if it answers an instruction, is well formed and has the word `w` of `n` bytes. -/
def Yields (n w : Nat) (o : Option Instr) : Prop :=
  ∀ i, o = some i → i.wellFormed = true ∧ encode i = some (n, w)

theorem Yields.of_none {n w : Nat} : Yields n w none := by
  rintro i ⟨⟩

theorem Yields.of_some {n w : Nat} {i : Instr} (wf : i.wellFormed = true) (e : encode i = some (n, w)) : Yields n w (some i) := by
  rintro _ ⟨⟩
  exact ⟨wf, e⟩

theorem encode_of_fields {n w k : Nat} {ps cs : List (Nat × Nat)} {vs : List Nat} {i : Instr} (lt : w < 2 ^ (8 * n)) (ops : Fields w ps vs)
    (e : encode i = some (n, word k ps vs)) (consts : Agree w k cs) (full : fills (8 * n) k ps cs = true) : encode i = some (n, w) := by
  rw [e, word_eq lt ops consts full]

/-- From the operands that are read, the word that the encoder makes of them, and the fields of the word that are known. -/
theorem Yields.of_fields {n w k : Nat} {ps cs : List (Nat × Nat)} {vs : List Nat} {i : Instr} (lt : w < 2 ^ (8 * n)) (ops : Fields w ps vs)
    (e : encode i = some (n, word k ps vs)) (consts : Agree w k cs) (full : fills (8 * n) k ps cs = true) (wf : i.wellFormed = true) :
    Yields n w (some i) :=
  .of_some wf (encode_of_fields lt ops e consts full)

/-- The same for an instruction that is kept if it is well formed. -/
theorem Yields.of_kept {n w k : Nat} {ps cs : List (Nat × Nat)} {vs : List Nat} {i : Instr} (lt : w < 2 ^ (8 * n)) (ops : Fields w ps vs)
    (e : encode i = some (n, word k ps vs)) (consts : Agree w k cs) (full : fills (8 * n) k ps cs = true) : Yields n w (keep i) := by
  unfold Sys2Proof.keep
  split
  · next wf => exact .of_fields lt ops e consts full wf
  · exact .of_none

theorem Yields.of_ite {n w : Nat} {p : Prop} [Decidable p] {o : Option Instr} (h : p → Yields n w o) : Yields n w (if p then o else none) := by
  split
  · next c => exact h c
  · exact .of_none

theorem Yields.of_bind {n w : Nat} {α : Type} {o : Option α} {f : α → Option Instr} (h : ∀ a, o = some a → Yields n w (f a)) :
    Yields n w (o.bind f) := by
  cases o with
  | none => exact .of_none
  | some a => exact h a rfl

/-! ### What the encoder writes of fields that were read -/

theorem flag_of_bit (w lo : Nat) : (bits w lo 1 == 1).toNat = bits w lo 1 := by
  have := bits_lt w lo 1
  interval_cases bits w lo 1 <;> rfl

theorem offset_high (w : Nat) : (BitVec.ofNat 12 (bits w 22 10 * 4 + bits w 10 2)).toNat / 4 % 1024 = bits w 22 10 := by
  have := bits_lt w 22 10
  have := bits_lt w 10 2
  rw [BitVec.toNat_ofNat]
  omega

theorem offset_low (w : Nat) : (BitVec.ofNat 12 (bits w 22 10 * 4 + bits w 10 2)).toNat % 4 = bits w 10 2 := by
  have := bits_lt w 10 2
  rw [BitVec.toNat_ofNat]
  omega

theorem tile_high (w : Nat) : (BitVec.ofNat 6 (bits w 26 1 * 32 + bits w 7 5)).toNat / 32 % 2 = bits w 26 1 := by
  have := bits_lt w 26 1
  have := bits_lt w 7 5
  rw [BitVec.toNat_ofNat]
  omega

theorem tile_low (w : Nat) : (BitVec.ofNat 6 (bits w 26 1 * 32 + bits w 7 5)).toNat % 32 = bits w 7 5 := by
  have := bits_lt w 7 5
  rw [BitVec.toNat_ofNat]
  omega

theorem size_of_bits (w lo : Nat) : (Size.ofCode (bits w lo 2)).code = bits w lo 2 := Size.code_ofCode (bits_lt w lo 2)
theorem scope_of_bits (w lo : Nat) : (Scope.ofCode (bits w lo 2)).code = bits w lo 2 := Scope.code_ofCode (bits_lt w lo 2)
theorem rnd_of_bits (w lo : Nat) : (Rnd.ofCode (bits w lo 2)).code = bits w lo 2 := Rnd.code_ofCode (bits_lt w lo 2)
theorem itype_of_bits (w lo : Nat) : (IType.ofCode (bits w lo 2)).code = bits w lo 2 := IType.code_ofCode (bits_lt w lo 2)
theorem ftype_of_bits (w lo : Nat) : (FType.ofCode (bits w lo 2)).code = bits w lo 2 := FType.code_ofCode (bits_lt w lo 2)
theorem cfmt_of_bits (w lo : Nat) : (CFmt.ofCode (bits w lo 3)).code = bits w lo 3 := CFmt.code_ofCode (bits_lt w lo 3)

/-! ### Each major with minors -/

theorem decodeAlu_yields {w : Nat} (lt : w < 2 ^ 32) (major : bits w 0 7 = 3) : Yields 4 w (decodeAlu w) := by
  unfold decodeAlu
  split
  case h_21 minor =>
    exact .of_fields lt
      (.put (toNat_fld w 7 5) <| .put (toNat_fld w 12 5) <| .put (toNat_fld w 17 5) <| .put (toNat_fld w 22 5) .nil)
      rfl (.put major <| .put minor .nil) rfl rfl
  case h_29 => exact .of_none
  all_goals next minor =>
    exact .of_ite fun zero => .of_fields lt
      (.put (toNat_fld w 7 5) <| .put (toNat_fld w 12 5) <| .put (toNat_fld w 17 5) .nil)
      rfl (.put major <| .put minor <| .put zero .nil) rfl rfl

theorem decodeAlu1_yields {w : Nat} (lt : w < 2 ^ 32) (major : bits w 0 7 = 5) : Yields 4 w (decodeAlu1 w) := by
  unfold decodeAlu1
  split
  case h_10 => exact .of_none
  all_goals next minor =>
    exact .of_ite fun zero => .of_fields lt
      (.put (toNat_fld w 7 5) <| .put (toNat_fld w 12 5) .nil)
      rfl (.put major <| .put minor <| .put zero .nil) rfl rfl

theorem decodeShi_yields {w : Nat} (lt : w < 2 ^ 32) (major : bits w 0 7 = 21) : Yields 4 w (decodeShi w) := by
  unfold decodeShi
  split
  case h_6 => exact .of_none
  all_goals next minor =>
    exact .of_ite fun zero => .of_fields lt
      (.put (toNat_fld w 7 5) <| .put (toNat_fld w 12 5) <| .put (toNat_fld w 22 6) .nil)
      rfl (.put major <| .put minor <| .put zero .nil) rfl rfl

theorem decodeBr_yields {w : Nat} (lt : w < 2 ^ 32) (major : bits w 0 7 = 33) : Yields 4 w (decodeBr w) := by
  unfold decodeBr
  split
  case h_7 => exact .of_none
  all_goals next minor =>
    exact .of_fields lt
      (.put (toNat_fld w 12 5) <| .put (toNat_fld w 17 5) <| .put (offset_high w) <| .put (offset_low w) .nil)
      rfl (.put major <| .put minor .nil) rfl rfl

theorem decodeJmp_yields {w : Nat} (lt : w < 2 ^ 32) (major : bits w 0 7 = 39) : Yields 4 w (decodeJmp w) := by
  unfold decodeJmp
  split
  case h_2 minor =>
    exact .of_ite fun ⟨zero1, zero2⟩ => .of_kept lt
      (.put (toNat_fld w 12 5) <| .put (toNat_fld w 22 5) .nil)
      rfl (.put major <| .put minor <| .put zero1 <| .put zero2 .nil) rfl
  case h_3 minor => exact .of_ite fun zero => .of_fields lt .nil rfl (.put major <| .put minor <| .put zero .nil) rfl rfl
  case h_4 => exact .of_none
  case h_1 minor =>
    exact .of_ite fun ⟨zero1, zero2⟩ => .of_fields lt
      (.put (toNat_fld w 12 5) .nil)
      rfl (.put major <| .put minor <| .put zero1 <| .put zero2 .nil) rfl rfl

theorem decodeFop_yields {w : Nat} (lt : w < 2 ^ 32) (major : bits w 0 7 = 65) : Yields 4 w (decodeFop w) := by
  unfold decodeFop
  split
  case h_1 minor | h_2 minor | h_3 minor | h_4 minor =>
    exact .of_ite fun zero => .of_fields lt
      (.put (toNat_fld w 7 5) <| .put (toNat_fld w 12 5) <| .put (toNat_fld w 17 5) <| .put (ftype_of_bits w 25) <| .put (rnd_of_bits w 23) .nil)
      rfl (.put major <| .put minor <| .put zero .nil) rfl rfl
  case h_5 minor | h_16 minor | h_17 minor =>
    exact .of_ite fun zero => .of_fields lt
      (.put (toNat_fld w 7 5) <| .put (toNat_fld w 12 5) <| .put (ftype_of_bits w 25) <| .put (rnd_of_bits w 23) .nil)
      rfl (.put major <| .put minor <| .put zero .nil) rfl rfl
  case h_14 minor | h_18 minor | h_19 minor =>
    exact .of_ite fun zero => .of_fields lt
      (.put (toNat_fld w 7 5) <| .put (toNat_fld w 12 5) <| .put (ftype_of_bits w 25) .nil)
      rfl (.put major <| .put minor <| .put zero .nil) rfl rfl
  case h_15 minor =>
    exact .of_ite fun zero => .of_kept lt
      (.put (toNat_fld w 7 5) <| .put (toNat_fld w 12 5) <| .put (ftype_of_bits w 17) <| .put (ftype_of_bits w 25) <| .put (rnd_of_bits w 23) .nil)
      rfl (.put major <| .put minor <| .put zero .nil) rfl
  case h_20 => exact .of_none
  all_goals next minor =>
    exact .of_ite fun zero => .of_fields lt
      (.put (toNat_fld w 7 5) <| .put (toNat_fld w 12 5) <| .put (toNat_fld w 17 5) <| .put (ftype_of_bits w 25) .nil)
      rfl (.put major <| .put minor <| .put zero .nil) rfl rfl

theorem decodeFmadd_yields {w : Nat} (lt : w < 2 ^ 32) (major : bits w 0 7 = 67) : Yields 4 w (decodeFmadd w) := by
  unfold decodeFmadd
  split
  case h_3 => exact .of_none
  all_goals next minor =>
    exact .of_fields lt
      (.put (toNat_fld w 7 5) <| .put (toNat_fld w 12 5) <| .put (toNat_fld w 17 5) <| .put (toNat_fld w 22 5) <|
       .put (ftype_of_bits w 30) <| .put (rnd_of_bits w 28) .nil)
      rfl (.put major <| .put minor .nil) rfl rfl

theorem decodeFnmadd_yields {w : Nat} (lt : w < 2 ^ 32) (major : bits w 0 7 = 69) : Yields 4 w (decodeFnmadd w) := by
  unfold decodeFnmadd
  split
  case h_3 => exact .of_none
  all_goals next minor =>
    exact .of_fields lt
      (.put (toNat_fld w 7 5) <| .put (toNat_fld w 12 5) <| .put (toNat_fld w 17 5) <| .put (toNat_fld w 22 5) <|
       .put (ftype_of_bits w 30) <| .put (rnd_of_bits w 28) .nil)
      rfl (.put major <| .put minor .nil) rfl rfl

theorem decodeXidx_yields {w : Nat} (lt : w < 2 ^ 32) (major : bits w 0 7 = 71) : Yields 4 w (decodeXidx w) := by
  unfold decodeXidx
  split
  case h_5 => exact .of_none
  all_goals next minor =>
    exact .of_ite fun zero => .of_fields lt
      (.put (toNat_fld w 7 5) <| .put (toNat_fld w 12 5) <| .put (toNat_fld w 17 5) .nil)
      rfl (.put major <| .put minor <| .put zero .nil) rfl rfl

theorem decodeSpr_yields {w : Nat} (lt : w < 2 ^ 32) (major : bits w 0 7 = 73) : Yields 4 w (decodeSpr w) := by
  unfold decodeSpr
  split
  case h_2 minor =>
    exact .of_ite fun zero => .of_fields lt
      (.put (toNat_fld w 12 5) <| .put (toNat_fld w 20 12) .nil)
      rfl (.put major <| .put minor <| .put zero .nil) rfl rfl
  case h_3 => exact .of_none
  case h_1 minor =>
    exact .of_ite fun zero => .of_fields lt
      (.put (toNat_fld w 7 5) <| .put (toNat_fld w 20 12) .nil)
      rfl (.put major <| .put minor <| .put zero .nil) rfl rfl

theorem decodeSys_yields {w : Nat} (lt : w < 2 ^ 32) (major : bits w 0 7 = 75) : Yields 4 w (decodeSys w) := by
  unfold decodeSys
  split
  case h_2 minor | h_3 minor | h_5 minor =>
    exact .of_ite fun zero => .of_fields lt (.put (toNat_fld w 12 15) .nil) rfl (.put major <| .put minor <| .put zero .nil) rfl rfl
  case h_7 minor =>
    exact .of_ite fun ⟨zero1, zero2⟩ => .of_fields lt
      (.put (toNat_fld w 12 5) .nil)
      rfl (.put major <| .put minor <| .put zero1 <| .put zero2 .nil) rfl rfl
  case h_8 minor => exact .of_ite fun zero => .of_fields lt (.put (toNat_fld w 7 5) .nil) rfl (.put major <| .put minor <| .put zero .nil) rfl rfl
  case h_9 minor =>
    exact .of_ite fun ⟨zero1, zero2⟩ => .of_kept lt
      (.put (toNat_fld w 12 11) .nil)
      rfl (.put major <| .put minor <| .put zero1 <| .put zero2 .nil) rfl
  case h_12 minor => exact .of_ite fun zero => .of_kept lt (.put (toNat_fld w 12 15) .nil) rfl (.put major <| .put minor <| .put zero .nil) rfl
  case h_14 minor =>
    exact .of_ite fun ⟨zero1, zero2⟩ => .of_fields lt
      (.put (scope_of_bits w 12) .nil)
      rfl (.put major <| .put minor <| .put zero1 <| .put zero2 .nil) rfl rfl
  case h_15 minor =>
    exact .of_ite fun zero => .of_fields lt
      (.put (toNat_fld w 7 5) <| .put (toNat_fld w 12 5) .nil)
      rfl (.put major <| .put minor <| .put zero .nil) rfl rfl
  case h_16 => exact .of_none
  all_goals next minor => exact .of_ite fun zero => .of_fields lt .nil rfl (.put major <| .put minor <| .put zero .nil) rfl rfl

theorem decodeMsg_yields {w : Nat} (lt : w < 2 ^ 32) (major : bits w 0 7 = 77) : Yields 4 w (decodeMsg w) := by
  unfold decodeMsg
  split
  case h_2 minor => exact .of_ite fun zero => .of_fields lt (.put (toNat_fld w 7 5) .nil) rfl (.put major <| .put minor <| .put zero .nil) rfl rfl
  case h_3 => exact .of_none
  case h_1 minor =>
    exact .of_ite fun ⟨zero1, zero2⟩ => .of_fields lt
      (.put (toNat_fld w 12 5) <| .put (toNat_fld w 17 5) .nil)
      rfl (.put major <| .put minor <| .put zero1 <| .put zero2 .nil) rfl rfl

theorem decodeFab_yields {w : Nat} (lt : w < 2 ^ 32) (major : bits w 0 7 = 79) : Yields 4 w (decodeFab w) := by
  unfold decodeFab
  split
  case h_2 minor =>
    exact .of_ite fun ⟨zero1, zero2⟩ => .of_kept lt
      (.put (toNat_fld w 12 5) <| .put (toNat_fld w 17 5) .nil)
      rfl (.put major <| .put minor <| .put zero1 <| .put zero2 .nil) rfl
  case h_3 minor =>
    exact .of_ite fun ⟨zero1, zero2⟩ => .of_kept lt
      (.put (toNat_fld w 7 5) <| .put (toNat_fld w 17 5) .nil)
      rfl (.put major <| .put minor <| .put zero1 <| .put zero2 .nil) rfl
  case h_4 => exact .of_none
  case h_1 minor =>
    exact .of_ite fun ⟨zero1, zero2⟩ => .of_kept lt (.put (toNat_fld w 17 5) .nil) rfl (.put major <| .put minor <| .put zero1 <| .put zero2 .nil) rfl

theorem decodeLdg_yields {w : Nat} (lt : w < 2 ^ 32) (major : bits w 0 7 = 57) : Yields 4 w (decodeLdg w) := by
  unfold decodeLdg
  split
  case h_2 minor =>
    exact .of_fields lt
      (.put (toNat_fld w 7 5) <| .put (toNat_fld w 12 5) <| .put (toNat_fld w 23 9) <| .put (size_of_bits w 21) <| .put (scope_of_bits w 19) .nil)
      rfl (.put major <| .put minor .nil) rfl rfl
  case h_3 => exact .of_none
  case h_1 minor =>
    exact .of_ite fun zero => .of_fields lt
      (.put (toNat_fld w 7 5) <| .put (toNat_fld w 12 5) <| .put (toNat_fld w 23 9) <| .put (size_of_bits w 21) .nil)
      rfl (.put major <| .put minor <| .put zero .nil) rfl rfl

theorem decodeStg_yields {w : Nat} (lt : w < 2 ^ 32) (major : bits w 0 7 = 59) : Yields 4 w (decodeStg w) := by
  unfold decodeStg
  split
  case h_2 minor =>
    exact .of_fields lt
      (.put (toNat_fld w 7 5) <| .put (toNat_fld w 12 5) <| .put (toNat_fld w 23 9) <| .put (size_of_bits w 21) <| .put (scope_of_bits w 19) .nil)
      rfl (.put major <| .put minor .nil) rfl rfl
  case h_3 => exact .of_none
  case h_1 minor =>
    exact .of_ite fun zero => .of_fields lt
      (.put (toNat_fld w 7 5) <| .put (toNat_fld w 12 5) <| .put (toNat_fld w 23 9) <| .put (size_of_bits w 21) .nil)
      rfl (.put major <| .put minor <| .put zero .nil) rfl rfl

theorem decodeAtom_yields {w : Nat} (lt : w < 2 ^ 32) (major : bits w 0 7 = 61) : Yields 4 w (decodeAtom w) := by
  unfold decodeAtom
  split
  case h_11 minor | h_12 minor | h_13 minor =>
    exact .of_ite fun zero => .of_kept lt
      (.put (toNat_fld w 7 5) <| .put (toNat_fld w 12 5) <| .put (toNat_fld w 17 5) <| .put (flag_of_bit w 22) <| .put (scope_of_bits w 23) .nil)
      rfl (.put major <| .put minor <| .put zero .nil) rfl
  case h_14 => exact .of_none
  all_goals next minor =>
    exact .of_bind fun _ code => .of_kept lt
      (.put (toNat_fld w 7 5) <| .put (toNat_fld w 12 5) <| .put (toNat_fld w 17 5) <| .put (flag_of_bit w 22) <|
       .put (ASize.code_of_ofCode? code) <| .put (scope_of_bits w 23) .nil)
      rfl (.put major <| .put minor .nil) rfl

theorem decodeVint_yields {w : Nat} (lt : w < 2 ^ 32) (major : bits w 0 7 = 81) : Yields 4 w (decodeVint w) := by
  unfold decodeVint
  split
  case h_18 minor | h_19 minor | h_20 minor =>
    exact .of_ite fun zero => .of_fields lt
      (.put (toNat_fld w 7 5) <| .put (toNat_fld w 12 5) <| .put (itype_of_bits w 25) <| .put (toNat_fld w 22 3) .nil)
      rfl (.put major <| .put minor <| .put zero .nil) rfl rfl
  case h_21 => exact .of_none
  all_goals next minor =>
    exact .of_fields lt
      (.put (toNat_fld w 7 5) <| .put (toNat_fld w 12 5) <| .put (toNat_fld w 17 5) <| .put (itype_of_bits w 25) <| .put (toNat_fld w 22 3) .nil)
      rfl (.put major <| .put minor .nil) rfl rfl

theorem decodeVfp_yields {w : Nat} (lt : w < 2 ^ 32) (major : bits w 0 7 = 83) : Yields 4 w (decodeVfp w) := by
  unfold decodeVfp
  split
  case h_5 minor | h_8 minor | h_9 minor | h_10 minor =>
    exact .of_ite fun zero => .of_fields lt
      (.put (toNat_fld w 7 5) <| .put (toNat_fld w 12 5) <| .put (ftype_of_bits w 25) <| .put (toNat_fld w 22 3) .nil)
      rfl (.put major <| .put minor <| .put zero .nil) rfl rfl
  case h_11 => exact .of_none
  all_goals next minor =>
    exact .of_fields lt
      (.put (toNat_fld w 7 5) <| .put (toNat_fld w 12 5) <| .put (toNat_fld w 17 5) <| .put (ftype_of_bits w 25) <| .put (toNat_fld w 22 3) .nil)
      rfl (.put major <| .put minor .nil) rfl rfl

theorem decodeVfma_yields {w : Nat} (lt : w < 2 ^ 32) (major : bits w 0 7 = 85) : Yields 4 w (decodeVfma w) := by
  unfold decodeVfma
  split
  case h_5 => exact .of_none
  all_goals next minor =>
    exact .of_fields lt
      (.put (toNat_fld w 7 5) <| .put (toNat_fld w 12 5) <| .put (toNat_fld w 17 5) <| .put (ftype_of_bits w 25) <| .put (toNat_fld w 22 3) .nil)
      rfl (.put major <| .put minor .nil) rfl rfl

theorem decodeVcmp_yields {w : Nat} (lt : w < 2 ^ 32) (major : bits w 0 7 = 87) : Yields 4 w (decodeVcmp w) := by
  unfold decodeVcmp
  split
  case h_7 minor | h_8 minor | h_9 minor =>
    exact .of_ite fun zero => .of_fields lt
      (.put (toNat_fld w 7 3) <| .put (toNat_fld w 12 5) <| .put (toNat_fld w 17 5) <| .put (ftype_of_bits w 25) <| .put (toNat_fld w 22 3) .nil)
      rfl (.put major <| .put minor <| .put zero .nil) rfl rfl
  case h_10 => exact .of_none
  all_goals next minor =>
    exact .of_ite fun zero => .of_fields lt
      (.put (toNat_fld w 7 3) <| .put (toNat_fld w 12 5) <| .put (toNat_fld w 17 5) <| .put (itype_of_bits w 25) <| .put (toNat_fld w 22 3) .nil)
      rfl (.put major <| .put minor <| .put zero .nil) rfl rfl

theorem decodeVperm_yields {w : Nat} (lt : w < 2 ^ 32) (major : bits w 0 7 = 89) : Yields 4 w (decodeVperm w) := by
  unfold decodeVperm
  split
  case h_5 minor | h_6 minor | h_7 minor =>
    exact .of_ite fun zero => .of_fields lt
      (.put (toNat_fld w 7 5) <| .put (toNat_fld w 12 5) <| .put (itype_of_bits w 25) <| .put (toNat_fld w 22 3) .nil)
      rfl (.put major <| .put minor <| .put zero .nil) rfl rfl
  case h_8 minor | h_9 minor | h_10 minor =>
    exact .of_ite fun zero => .of_fields lt
      (.put (toNat_fld w 7 5) <| .put (toNat_fld w 12 5) <| .put (ftype_of_bits w 25) <| .put (toNat_fld w 22 3) .nil)
      rfl (.put major <| .put minor <| .put zero .nil) rfl rfl
  case h_11 minor | h_12 minor =>
    exact .of_ite fun zero => .of_fields lt
      (.put (toNat_fld w 7 5) <| .put (toNat_fld w 12 5) <| .put (toNat_fld w 17 5) <| .put (itype_of_bits w 25) .nil)
      rfl (.put major <| .put minor <| .put zero .nil) rfl rfl
  case h_13 => exact .of_none
  all_goals next minor =>
    exact .of_fields lt
      (.put (toNat_fld w 7 5) <| .put (toNat_fld w 12 5) <| .put (toNat_fld w 17 5) <| .put (itype_of_bits w 25) <| .put (toNat_fld w 22 3) .nil)
      rfl (.put major <| .put minor .nil) rfl rfl

theorem decodeVmask_yields {w : Nat} (lt : w < 2 ^ 32) (major : bits w 0 7 = 93) : Yields 4 w (decodeVmask w) := by
  unfold decodeVmask
  split
  case h_5 minor =>
    exact .of_ite fun ⟨zero1, zero2⟩ => .of_fields lt
      (.put (toNat_fld w 7 3) <| .put (toNat_fld w 12 3) .nil)
      rfl (.put major <| .put minor <| .put zero1 <| .put zero2 .nil) rfl rfl
  case h_6 minor | h_7 minor | h_9 minor =>
    exact .of_ite fun zero => .of_fields lt
      (.put (toNat_fld w 7 5) <| .put (toNat_fld w 12 3) .nil)
      rfl (.put major <| .put minor <| .put zero .nil) rfl rfl
  case h_8 minor =>
    exact .of_ite fun ⟨zero1, zero2⟩ => .of_fields lt
      (.put (toNat_fld w 7 3) <| .put (toNat_fld w 12 5) .nil)
      rfl (.put major <| .put minor <| .put zero1 <| .put zero2 .nil) rfl rfl
  case h_10 => exact .of_none
  all_goals next minor =>
    exact .of_ite fun ⟨zero1, zero2, zero3⟩ => .of_fields lt
      (.put (toNat_fld w 7 3) <| .put (toNat_fld w 12 3) <| .put (toNat_fld w 17 3) .nil)
      rfl (.put major <| .put minor <| .put zero1 <| .put zero2 <| .put zero3 .nil) rfl rfl

theorem decodeVmem_yields {w : Nat} (lt : w < 2 ^ 32) (major : bits w 0 7 = 95) : Yields 4 w (decodeVmem w) := by
  unfold decodeVmem
  split
  case h_3 => exact .of_none
  all_goals next minor =>
    exact .of_ite fun zero => .of_fields lt
      (.put (toNat_fld w 7 5) <| .put (toNat_fld w 12 5) <| .put (toNat_fld w 25 7) <| .put (toNat_fld w 22 3) .nil)
      rfl (.put major <| .put minor <| .put zero .nil) rfl rfl

theorem decodeVgs_yields {w : Nat} (lt : w < 2 ^ 32) (major : bits w 0 7 = 97) : Yields 4 w (decodeVgs w) := by
  unfold decodeVgs
  split
  case h_3 => exact .of_none
  all_goals next minor =>
    exact .of_fields lt
      (.put (toNat_fld w 7 5) <| .put (toNat_fld w 12 5) <| .put (toNat_fld w 17 5) <| .put (itype_of_bits w 25) <| .put (toNat_fld w 22 3) .nil)
      rfl (.put major <| .put minor .nil) rfl rfl

theorem decodeMxc_yields {w : Nat} (lt : w < 2 ^ 32) (major : bits w 0 7 = 105) : Yields 4 w (decodeMxc w) := by
  unfold decodeMxc
  split
  case h_1 minor =>
    exact .of_ite fun zero => .of_fields lt (.put (tile_high w) <| .put (tile_low w) .nil) rfl (.put major <| .put minor <| .put zero .nil) rfl rfl
  case h_2 minor =>
    exact .of_ite fun ⟨zero1, zero2⟩ => .of_bind fun _ code => .of_fields lt
      (.put (tile_high w) <| .put (tile_low w) <| .put (toNat_fld w 12 5) <| .put (MType.code_of_ofCode? code) .nil)
      rfl (.put major <| .put minor <| .put zero1 <| .put zero2 .nil) rfl rfl
  case h_3 minor =>
    exact .of_ite fun zero => .of_bind fun _ code => .of_kept lt
      (.put (tile_high w) <| .put (tile_low w) <| .put (toNat_fld w 12 5) <| .put (MType.code_of_ofCode? code) <| .put (rnd_of_bits w 24) .nil)
      rfl (.put major <| .put minor <| .put zero .nil) rfl
  case h_4 minor =>
    exact .of_ite fun ⟨zero1, zero2⟩ => .of_fields lt
      (.put (toNat_fld w 12 5) <| .put (toNat_fld w 17 5) .nil)
      rfl (.put major <| .put minor <| .put zero1 <| .put zero2 .nil) rfl rfl
  case h_12 => exact .of_none
  all_goals next minor =>
    exact .of_ite fun ⟨zero1, zero2⟩ => .of_fields lt
      (.put (toNat_fld w 7 5) <| .put (toNat_fld w 12 5) <| .put (toNat_fld w 17 5) <| .put (rnd_of_bits w 24) .nil)
      rfl (.put major <| .put minor <| .put zero1 <| .put zero2 .nil) rfl rfl

theorem decodeCp_yields {w : Nat} (lt : w < 2 ^ 32) (major : bits w 0 7 = 107) : Yields 4 w (decodeCp w) := by
  unfold decodeCp
  split
  case h_5 minor =>
    exact .of_ite fun ⟨zero1, zero2, zero3⟩ => .of_fields lt
      (.put (toNat_fld w 12 5) <| .put (toNat_fld w 22 4) .nil)
      rfl (.put major <| .put minor <| .put zero1 <| .put zero2 <| .put zero3 .nil) rfl rfl
  case h_7 minor =>
    exact .of_ite fun ⟨zero1, zero2⟩ => .of_fields lt
      (.put (toNat_fld w 7 5) <| .put (toNat_fld w 22 4) .nil)
      rfl (.put major <| .put minor <| .put zero1 <| .put zero2 .nil) rfl rfl
  case h_8 minor =>
    exact .of_ite fun ⟨zero1, zero2⟩ => .of_fields lt
      (.put (toNat_fld w 12 5) <| .put (toNat_fld w 17 5) .nil)
      rfl (.put major <| .put minor <| .put zero1 <| .put zero2 .nil) rfl rfl
  case h_9 minor =>
    exact .of_ite fun ⟨zero1, zero2⟩ => .of_fields lt
      (.put (toNat_fld w 22 4) .nil)
      rfl (.put major <| .put minor <| .put zero1 <| .put zero2 .nil) rfl rfl
  case h_10 => exact .of_none
  all_goals next minor =>
    exact .of_ite fun ⟨zero1, zero2⟩ => .of_fields lt
      (.put (toNat_fld w 12 5) <| .put (toNat_fld w 17 5) <| .put (toNat_fld w 22 4) .nil)
      rfl (.put major <| .put minor <| .put zero1 <| .put zero2 .nil) rfl rfl

/-! ### Every word -/

theorem decodeFull_yields {w : Nat} (lt : w < 2 ^ 32) : Yields 4 w (decodeFull w) := by
  unfold decodeFull
  split
  case h_3 major =>
    exact .of_ite fun zero => .of_fields lt
      (.put (toNat_fld w 7 5) <| .put (toNat_fld w 12 5) <| .put (toNat_fld w 17 5) <| .put (toNat_fld w 22 5) .nil)
      rfl (.put major <| .put zero .nil) rfl rfl
  case h_4 major | h_5 major | h_6 major | h_7 major | h_8 major | h_9 major =>
    exact .of_fields lt (.put (toNat_fld w 7 5) <| .put (toNat_fld w 12 5) <| .put (toNat_fld w 17 15) .nil) rfl (.put major .nil) rfl rfl
  case h_11 major | h_12 major => exact .of_fields lt (.put (toNat_fld w 7 5) <| .put (toNat_fld w 12 20) .nil) rfl (.put major .nil) rfl rfl
  case h_14 major => exact .of_fields lt (.put (toNat_fld w 7 25) .nil) rfl (.put major .nil) rfl rfl
  case h_15 major => exact .of_kept lt (.put (toNat_fld w 12 20) <| .put (toNat_fld w 7 5) .nil) rfl (.put major .nil) rfl
  case h_17 major =>
    exact .of_ite fun ⟨zero1, zero2⟩ => .of_fields lt
      (.put (toNat_fld w 12 5) <| .put (toNat_fld w 17 11) .nil)
      rfl (.put major <| .put zero1 <| .put zero2 .nil) rfl rfl
  case h_18 major =>
    exact .of_ite fun zero => .of_fields lt (.put (toNat_fld w 20 12) <| .put (toNat_fld w 9 11) .nil) rfl (.put major <| .put zero .nil) rfl rfl
  case h_19 major | h_20 major =>
    exact .of_fields lt
      (.put (toNat_fld w 7 5) <| .put (toNat_fld w 12 5) <| .put (toNat_fld w 19 13) <| .put (size_of_bits w 17) .nil)
      rfl (.put major .nil) rfl rfl
  case h_21 major | h_22 major =>
    exact .of_bind fun _ code => .of_fields lt
      (.put (toNat_fld w 7 5) <| .put (toNat_fld w 12 5) <| .put (toNat_fld w 19 13) <| .put (FSize.code_of_ofCode? code) .nil)
      rfl (.put major .nil) rfl rfl
  case h_26 major =>
    exact .of_ite fun zero => .of_fields lt
      (.put (toNat_fld w 16 4) <| .put (toNat_fld w 20 4) <| .put (toNat_fld w 24 4) <| .put (toNat_fld w 28 4) .nil)
      rfl (.put major <| .put zero .nil) rfl rfl
  case h_40 major =>
    exact .of_ite fun zero => .of_kept lt
      (.put (toNat_fld w 7 5) <| .put (toNat_fld w 12 5) <| .put (cfmt_of_bits w 26) <| .put (cfmt_of_bits w 29) <|
       .put (rnd_of_bits w 24) <| .put (toNat_fld w 21 3) .nil)
      rfl (.put major <| .put zero .nil) rfl
  case h_44 major | h_45 major =>
    exact .of_bind fun _ code => .of_fields lt
      (.put (toNat_fld w 12 5) <| .put (toNat_fld w 17 5) <| .put (toNat_fld w 22 5) <| .put (toNat_fld w 7 5) <|
       .put (Pair.code_of_ofCode? code) .nil)
      rfl (.put major .nil) rfl rfl
  case h_1 major => exact decodeAlu_yields lt major
  case h_2 major => exact decodeAlu1_yields lt major
  case h_10 major => exact decodeShi_yields lt major
  case h_13 major => exact decodeBr_yields lt major
  case h_16 major => exact decodeJmp_yields lt major
  case h_23 major => exact decodeLdg_yields lt major
  case h_24 major => exact decodeStg_yields lt major
  case h_25 major => exact decodeAtom_yields lt major
  case h_27 major => exact decodeFop_yields lt major
  case h_28 major => exact decodeFmadd_yields lt major
  case h_29 major => exact decodeFnmadd_yields lt major
  case h_30 major => exact decodeXidx_yields lt major
  case h_31 major => exact decodeSpr_yields lt major
  case h_32 major => exact decodeSys_yields lt major
  case h_33 major => exact decodeMsg_yields lt major
  case h_34 major => exact decodeFab_yields lt major
  case h_35 major => exact decodeVint_yields lt major
  case h_36 major => exact decodeVfp_yields lt major
  case h_37 major => exact decodeVfma_yields lt major
  case h_38 major => exact decodeVcmp_yields lt major
  case h_39 major => exact decodeVperm_yields lt major
  case h_41 major => exact decodeVmask_yields lt major
  case h_42 major => exact decodeVmem_yields lt major
  case h_43 major => exact decodeVgs_yields lt major
  case h_46 major => exact decodeMxc_yields lt major
  case h_47 major => exact decodeCp_yields lt major
  case h_48 => exact .of_none

theorem decodeCompact_yields {w : Nat} (lt : w < 2 ^ 16) (even : w % 2 = 0) : Yields 2 w (decodeCompact w) := by
  have low : bits w 0 1 = 0 := by simpa [bits] using even
  unfold decodeCompact
  split
  case h_1 minor | h_18 minor | h_19 minor | h_20 minor =>
    exact .of_ite fun zero => .of_fields lt .nil rfl (.put low <| .put minor <| .put zero .nil) rfl rfl
  case h_17 minor => exact .of_ite fun zero => .of_fields lt (.put (toNat_fld w 1 5) .nil) rfl (.put low <| .put minor <| .put zero .nil) rfl rfl
  case h_23 => exact .of_none
  all_goals next minor => exact .of_fields lt (.put (toNat_fld w 6 5) <| .put (toNat_fld w 1 5) .nil) rfl (.put low <| .put minor .nil) rfl rfl

/-! ### Every sequence of bytes -/

/-- Decoding answers what one of the two decoders reads from the first bytes, and the bytes after them. -/
theorem decode_cases {bs rest : List Byte} {i : Instr} (h : decode bs = .ok (i, rest)) :
    (∃ b0 b1, bs = b0 :: b1 :: rest ∧ b0.toNat % 2 = 0 ∧ decodeCompact (leNat [b0, b1]) = some i) ∨
    ∃ b0 b1 b2 b3, bs = b0 :: b1 :: b2 :: b3 :: rest ∧ b0.toNat % 2 ≠ 0 ∧ decodeFull (leNat [b0, b1, b2, b3]) = some i := by
  unfold decode at h
  split at h
  · next b0 b1 more =>
    split at h
    · next even =>
      dsimp only at h
      split at h
      · next found => cases h; exact .inl ⟨b0, b1, rfl, even, found⟩
      · cases h
    · next odd =>
      split at h
      · next b2 b3 more' =>
        dsimp only at h
        split at h
        · next found => cases h; exact .inr ⟨b0, b1, b2, b3, rfl, odd, found⟩
        · cases h
      · cases h
  · cases h

/-- Settles O43: every arm of the decoders yields an instruction whose word has the fields that the arm has read. -/
theorem encodeOfDecode : Obligations.EncodeOfDecode := by
  intro bs rest i h
  obtain ⟨b0, b1, rfl, even, found⟩ | ⟨b0, b1, b2, b3, rfl, -, found⟩ := decode_cases h
  · have parity : leNat [b0, b1] % 2 = 0 := by rw [leNat]; omega
    have lt : leNat [b0, b1] < 2 ^ 16 := by simp only [leNat]; omega
    obtain ⟨wf, word⟩ := decodeCompact_yields lt parity i found
    exact ⟨wf, 2, _, word, congrArg (· ++ rest) (leBytes_leNat [b0, b1]).symm⟩
  · have lt : leNat [b0, b1, b2, b3] < 2 ^ 32 := by simp only [leNat]; omega
    obtain ⟨wf, word⟩ := decodeFull_yields lt i found
    exact ⟨wf, 4, _, word, congrArg (· ++ rest) (leBytes_leNat [b0, b1, b2, b3]).symm⟩

end Sys2Proof.DecodeLaws
end

section
/-! PROOFS. Integer arithmetic: what the machine's operations give as numbers, and the instructions that rest on them (04 R71 to R78; 03 R67). -/

namespace Sys2Proof.IntegerLaws

open Sys2Proof.Machine Sys2Proof.Safety Sys2Proof.Laws

/-! ### The shared forms of the integer instructions -/

/-- An instruction with two sources at hand writes its function of them and changes nothing else. -/
theorem aluOp_result (len : Word) (f : Word → Word → Word) (d : BitVec 5) {a b : BitVec 5} {s : State} (ha : XReady s a) (hb : XReady s b) :
    XResult s len d (f (xval s.slot a) (xval s.slot b)) 0 (aluOp len f d a b s) := by
  unfold aluOp
  rw [withReady_ready s _ _ (by simp [ha, hb]), withX_ready s a _ ha, withX_ready s b _ hb]
  exact done_setX s len d _

theorem unOp_result (len : Word) (f : Word → Word) (d : BitVec 5) {a : BitVec 5} {s : State} (ha : XReady s a) :
    XResult s len d (f (xval s.slot a)) 0 (unOp len f d a s) := by
  unfold unOp
  rw [withX_ready s a _ ha]
  exact done_setX s len d _

/-- Equal functions make equal instructions. -/
theorem aluOp_congr {f g : Word → Word → Word} (h : ∀ x y, f x y = g x y) (len : Word) (d a b : BitVec 5) (s : State) :
    aluOp len f d a b s = aluOp len g d a b s := by
  rw [funext fun x => funext (h x)]

theorem unOp_congr {f g : Word → Word} (h : ∀ x, f x = g x) (len : Word) (d a : BitVec 5) (s : State) :
    unOp len f d a s = unOp len g d a s := by
  rw [funext h]

/-! ### Words as numbers (04 Table 4-2) -/

theorem add_eq_ofNat (x y : Word) : x + y = BitVec.ofNat 64 (x.toNat + y.toNat) := rfl

theorem add_eq_ofInt (x y : Word) : x + y = BitVec.ofInt 64 (x.toInt + y.toInt) := by
  rw [BitVec.ofInt_add, BitVec.ofInt_toInt, BitVec.ofInt_toInt]

theorem sub_eq_ofInt (x y : Word) : x - y = BitVec.ofInt 64 (x.toInt - y.toInt) :=
  BitVec.eq_of_toInt_eq (by rw [BitVec.toInt_sub, BitVec.toInt_ofInt])

theorem mul_eq_ofInt (x y : Word) : x * y = BitVec.ofInt 64 (x.toInt * y.toInt) := by
  rw [BitVec.ofInt_mul, BitVec.ofInt_toInt, BitVec.ofInt_toInt]

theorem shiftLeft_eq_ofNat (x : Word) (n : Nat) : x <<< n = BitVec.ofNat 64 (x.toNat * 2 ^ n) :=
  BitVec.eq_of_toNat_eq (by rw [BitVec.toNat_shiftLeft, Nat.shiftLeft_eq, BitVec.toNat_ofNat])

theorem ushiftRight_eq_ofNat (x : Word) (n : Nat) : x >>> n = BitVec.ofNat 64 (x.toNat / 2 ^ n) := by
  rw [← Nat.shiftRight_eq_div_pow, ← BitVec.toNat_ushiftRight, BitVec.ofNat_toNat, BitVec.setWidth_eq]

theorem sshiftRight_eq_ofInt (x : Word) (n : Nat) : x.sshiftRight n = BitVec.ofInt 64 (x.toInt / 2 ^ n) := by
  simp [BitVec.sshiftRight, Int.shiftRight_eq_div_pow]

theorem oneIf_slt (x y : Word) : oneIf (x.slt y) = if x.toInt < y.toInt then 1 else 0 := by
  simp [oneIf, BitVec.slt]

theorem oneIf_ult (x y : Word) : oneIf (x.ult y) = if x.toNat < y.toNat then 1 else 0 := by
  simp [oneIf, BitVec.ult]

theorem oneIf_beq (x y : Word) : oneIf (x == y) = if x = y then 1 else 0 := by
  simp [oneIf]

theorem smin_eq_ofInt (x y : Word) : (if x.sle y then x else y) = BitVec.ofInt 64 (Min.min x.toInt y.toInt) := by
  by_cases h : x.toInt ≤ y.toInt
  · simp [BitVec.sle, h]
  · simp [BitVec.sle, h, min_eq_right (le_of_not_ge h)]

theorem smax_eq_ofInt (x y : Word) : (if x.sle y then y else x) = BitVec.ofInt 64 (Max.max x.toInt y.toInt) := by
  by_cases h : x.toInt ≤ y.toInt
  · simp [BitVec.sle, h]
  · simp [BitVec.sle, h, max_eq_left (le_of_not_ge h)]

theorem umin_eq_ofNat (x y : Word) : (if x.ule y then x else y) = BitVec.ofNat 64 (Min.min x.toNat y.toNat) := by
  by_cases h : x.toNat ≤ y.toNat
  · simp [BitVec.ule, h]
  · simp [BitVec.ule, h, min_eq_right (le_of_not_ge h)]

theorem umax_eq_ofNat (x y : Word) : (if x.ule y then y else x) = BitVec.ofNat 64 (Max.max x.toNat y.toNat) := by
  by_cases h : x.toNat ≤ y.toNat
  · simp [BitVec.ule, h]
  · simp [BitVec.ule, h, max_eq_left (le_of_not_ge h)]

theorem add_shiftLeft_eq_ofNat (x y : Word) (n : Nat) : x + (y <<< n) = BitVec.ofNat 64 (x.toNat + y.toNat * 2 ^ n) := by
  rw [shiftLeft_eq_ofNat, BitVec.ofNat_add, BitVec.ofNat_toNat, BitVec.setWidth_eq]

/-! ### Division (04 R73) -/

/-- The one quotient that overflows wraps to the dividend: there the spec's value is that of the division. -/
theorem ofInt_tdiv_overflow {x y : Word} (h : x.toInt = -2 ^ 63 ∧ y.toInt = -1) : BitVec.ofInt 64 (x.toInt.tdiv y.toInt) = x := by
  have hx : x = BitVec.ofInt 64 (-2 ^ 63) := by rw [← h.1, BitVec.ofInt_toInt]
  rw [h.1, h.2, hx]
  decide

theorem ofInt_tmod_overflow {x y : Word} (h : x.toInt = -2 ^ 63 ∧ y.toInt = -1) : BitVec.ofInt 64 (x.toInt.tmod y.toInt) = 0 := by
  rw [h.1, h.2]
  decide

theorem divS_eq (x y : Word) : divS x y = if y = 0 then BitVec.allOnes 64
    else if x.toInt = -2 ^ 63 ∧ y.toInt = -1 then x else BitVec.ofInt 64 (x.toInt.tdiv y.toInt) := by
  unfold divS
  split
  · rfl
  · split
    · next h => exact ofInt_tdiv_overflow h
    · rfl

theorem remS_eq (x y : Word) : remS x y = if y = 0 then x
    else if x.toInt = -2 ^ 63 ∧ y.toInt = -1 then 0 else BitVec.ofInt 64 (x.toInt.tmod y.toInt) := by
  unfold remS
  split
  · rfl
  · split
    · next h => exact ofInt_tmod_overflow h
    · rfl

/-! ### One source (04 Table 4-4, R76, R77) -/

theorem sext_eq_ofInt {n : Nat} (x : BitVec n) : sext x = BitVec.ofInt 64 x.toInt := rfl

theorem popcW_eq (x : Word) : popcW x = BitVec.ofNat 64 ((List.range 64).filter fun i => x.getLsbD i).length := by
  rw [popcW, List.countP_eq_length_filter]

theorem zextW_eq (x : Word) : (x.setWidth 32).setWidth 64 = BitVec.ofNat 64 (x.toNat % 2 ^ 32) :=
  BitVec.eq_of_toNat_eq (by simp)

theorem reverse_eq (x : Word) : x.reverse = BitVec.ofFnLE fun i : Fin 64 => x.getLsbD (63 - i) := by
  apply BitVec.eq_of_getLsbD_eq
  intro i hi
  rw [BitVec.getLsbD_reverse, BitVec.getMsbD]
  simp [hi]

theorem absW_eq (x : Word) : absW x = BitVec.ofNat 64 x.toInt.natAbs := by
  unfold absW
  rw [BitVec.msb_eq_toInt, ← BitVec.ofInt_natCast]
  by_cases neg : x.toInt < 0
  · rw [decide_eq_true neg, if_pos rfl, Int.ofNat_natAbs_of_nonpos neg.le, BitVec.ofInt_neg, BitVec.ofInt_toInt]
  · rw [decide_eq_false neg, if_neg Bool.false_ne_true, Int.natAbs_of_nonneg (not_lt.1 neg), BitVec.ofInt_toInt]

theorem add_sext_eq_ofInt {n : Nat} (x : Word) (imm : BitVec n) : x + sext imm = BitVec.ofInt 64 (x.toInt + imm.toInt) := by
  rw [sext_eq_ofInt, BitVec.ofInt_add, BitVec.ofInt_toInt]

theorem oneIf_slt_sext (x : Word) (imm : BitVec 15) : oneIf (x.slt (sext imm)) = if x.toInt < imm.toInt then 1 else 0 := by
  rw [oneIf_slt, sext, BitVec.toInt_signExtend_of_le (by decide)]

theorem clzW_eq (x : Word) : clzW x = BitVec.ofNat 64 (if x = 0 then 64 else 63 - Nat.log 2 x.toNat) := by
  rw [clzW, Nat.log2_eq_log_two]

theorem ofInt_two_pow (n : Nat) : BitVec.ofInt 64 (2 ^ n) = BitVec.twoPow 64 n := by
  apply BitVec.eq_of_toNat_eq
  simp only [BitVec.toNat_twoPow, BitVec.toNat_ofInt]
  norm_cast

theorem sext_shiftLeft_eq_ofInt (imm : BitVec 20) (n : Nat) : sext imm <<< n = BitVec.ofInt 64 (imm.toInt * 2 ^ n) := by
  rw [sext_eq_ofInt, BitVec.ofInt_mul, BitVec.shiftLeft_eq_mul_twoPow]
  congr 1
  exact (ofInt_two_pow n).symm

theorem csel_result (d : BitVec 5) {a b c : BitVec 5} {s : State} (ha : XReady s a) (hb : XReady s b) (hc : XReady s c) :
    XResult s 4 d (if xval s.slot c = 0 then xval s.slot b else xval s.slot a) 0 (exec (.csel d a b c) s) := by
  rw [exec_csel, execCsel, withReady_ready s _ _ (by simp [ha, hb, hc]), withX_ready s a _ ha, withX_ready s b _ hb,
    withX_ready s c _ hc, ← ite_not]
  exact done_setX s 4 d _

theorem lih_result (d : BitVec 5) (imm : BitVec 20) (s : State) :
    XResult s 4 d (BitVec.ofInt 64 (imm.toInt * 2 ^ 12)) 0 (exec (.lih d imm) s) := by
  rw [← sext_shiftLeft_eq_ofInt]
  exact done_setX s 4 d _

theorem lia_result (d : BitVec 5) (imm : BitVec 20) (s : State) :
    XResult s 4 d (s.slot.pc + BitVec.ofInt 64 (imm.toInt * 2 ^ 12)) 0 (exec (.lia d imm) s) := by
  rw [← sext_shiftLeft_eq_ofInt]
  exact done_setX s 4 d _

end Sys2Proof.IntegerLaws
end

section
/-! PROOFS. Branches, jumps and hardware loops (04 R79 to R81, R86 to R89), `nop` and `tret` (04 R106, R108). -/

namespace Sys2Proof.ControlLaws

open Sys2Proof.Machine Sys2Proof.Safety Sys2Proof.Laws

/-! ### What one loop makes of a next pc (04 R87 to R89) -/

/-- The retired instruction ends the loop: it jumps out of the body, or stands before its end at the last trip. -/
def EndsLoop (l : Loop) (at0 n : Word) (jump : Bool) : Prop :=
  (jump = true ∧ LeavesBody l at0 n) ∨ (jump = false ∧ n = l.stop ∧ l.cnt.toNat ≤ 1)

/-- The retired instruction leaves the loop as it is: it jumps within the body or from outside it, or does not come to its end. -/
def KeepsLoop (l : Loop) (at0 n : Word) (jump : Bool) : Prop :=
  (jump = true ∧ ¬ LeavesBody l at0 n) ∨ (jump = false ∧ n ≠ l.stop)

theorem loopStep_ends {l : Loop} {at0 n : Word} {jump : Bool} (h : EndsLoop l at0 n jump) : loopStep l at0 n jump = (none, n, false) := by
  unfold loopStep
  obtain ⟨rfl, inside, outside⟩ | ⟨rfl, stop, last⟩ := h
  · simp [inside, outside]
  · rw [if_neg (by simp), if_pos ⟨stop, rfl⟩, if_pos (BitVec.le_def.2 last)]

theorem loopStep_keeps {l : Loop} {at0 n : Word} {jump : Bool} (h : KeepsLoop l at0 n jump) :
    loopStep l at0 n jump = (some l, n, false) := by
  unfold loopStep
  obtain ⟨rfl, within⟩ | ⟨rfl, before⟩ := h
  · rw [if_neg (by simpa [LeavesBody] using within), if_neg (by simp)]
  · rw [if_neg (by simp), if_neg (by simp [before])]

theorem loopStep_again {l : Loop} {at0 n : Word} (stop : n = l.stop) (more : 1 < l.cnt.toNat) :
    loopStep l at0 n false = (some { l with cnt := l.cnt - 1 }, l.start, true) := by
  unfold loopStep
  rw [if_neg (by simp), if_pos ⟨stop, rfl⟩, if_neg fun last => Nat.not_le.2 more (BitVec.le_def.1 last)]

/-- With one loop the next pc is what that loop makes of it. -/
theorem loopNext_one {s : Slot} {l : Loop} (outer : s.outer = some l) (inner : s.inner = none) (n : Word) (jump : Bool) :
    loopNext s n jump = ((loopStep l s.pc n jump).1, none, (loopStep l s.pc n jump).2.1) := by
  simp [loopNext, outer, inner]

theorem loopNext_two_again {s : Slot} {o l : Loop} (outer : s.outer = some o) (inner : s.inner = some l) {n : Word} (stop : n = l.stop)
    (more : 1 < l.cnt.toNat) : loopNext s n false = (some o, some { l with cnt := l.cnt - 1 }, l.start) := by
  simp [loopNext, outer, inner, loopStep_again stop more]

/-- An inner loop that ends leaves the rest to the outer one. -/
theorem loopNext_two_ends {s : Slot} {o l : Loop} (outer : s.outer = some o) (inner : s.inner = some l) {n : Word} {jump : Bool}
    (ends : EndsLoop l s.pc n jump) : loopNext s n jump = loopNext { s with inner := none } n jump := by
  rw [loopNext_one (s := { s with inner := none }) outer rfl]
  simp only [loopNext, outer, inner, loopStep_ends ends]
  cases (loopStep o s.pc n jump).1 <;> rfl

theorem loopNext_two_keeps {s : Slot} {o l : Loop} (outer : s.outer = some o) (inner : s.inner = some l) {n : Word} {jump : Bool}
    (keeps : KeepsLoop l s.pc n jump) : loopNext s n jump =
      match loopStep o s.pc n jump with
      | (none, n', _) => (some l, none, n')
      | (some o', n', _) => (some o', some l, n') := by
  simp only [loopNext, outer, inner, loopStep_keeps keeps]
  rcases loopStep o s.pc n jump with ⟨_ | o', n', _⟩ <;> rfl

/-- Settles O6: each loop ends, goes on or is kept, the inner one first. -/
theorem loopEnds : Obligations.LoopEnds := by
  intro s t n jump goes
  have next : (t.slot.outer, t.slot.inner, t.slot.pc) = loopNext s.slot n jump := goes.2
  refine ⟨fun outer => ?_, fun l outer inner => ?_, fun o l outer inner => ⟨?_, fun ends => ?_, fun keeps => ⟨fun ends => ?_, ?_, fun kept => ?_⟩⟩⟩
  · rw [loopNext_out _ _ _ outer] at next
    simpa using next
  · rw [loopNext_one outer inner] at next
    simp only [Prod.mk.injEq] at next
    obtain ⟨o, i, p⟩ := next
    refine ⟨i, ?_, ?_, ?_, ?_, ?_⟩
    · rintro rfl leaves
      rw [o, p, loopStep_ends (.inl ⟨rfl, leaves⟩)]
      exact ⟨rfl, rfl⟩
    · rintro rfl within
      rw [o, p, loopStep_keeps (.inl ⟨rfl, within⟩)]
      exact ⟨rfl, rfl⟩
    · rintro rfl stop last
      rw [o, p, loopStep_ends (.inr ⟨rfl, stop, last⟩)]
      exact ⟨rfl, rfl⟩
    · rintro rfl stop more
      rw [o, p, loopStep_again stop more]
      exact ⟨rfl, rfl⟩
    · rintro rfl before
      rw [o, p, loopStep_keeps (.inr ⟨rfl, before⟩)]
      exact ⟨rfl, rfl⟩
  · rintro rfl stop more
    rw [loopNext_two_again outer inner stop more] at next
    simpa using next
  · exact ⟨goes.1, next.trans (loopNext_two_ends outer inner ends)⟩
  · rw [loopNext_two_keeps outer inner keeps, loopStep_ends ends] at next
    simpa using next
  · rintro rfl stop more
    rw [loopNext_two_keeps outer inner keeps, loopStep_again stop more] at next
    simpa using next
  · rw [loopNext_two_keeps outer inner keeps, loopStep_keeps kept] at next
    simpa using next

/-- Before the end of its one loop, an instruction goes on where it says. -/
theorem retireTo_before_stop {s : State} {l : Loop} (outer : s.slot.outer = some l) (inner : s.slot.inner = none) {n : Word}
    (before : n ≠ l.stop) : (retireTo n false s).slot.retired = s.slot.retired + 1 ∧ (retireTo n false s).slot.inner = none ∧
      (retireTo n false s).slot.outer = some l ∧ (retireTo n false s).slot.pc = n := by
  obtain ⟨left, -, -, -, -, kept⟩ := (loopEnds s _ n false (retireTo_goes ..)).2.1 l outer inner
  exact ⟨rfl, left, kept rfl before⟩

/-! ### Branches and jumps (04 R79 to R81) -/

theorem two_mul_sext {n : Nat} (off : BitVec n) : 2 * sext off = BitVec.ofInt 64 (2 * off.toInt) := by
  rw [BitVec.ofInt_mul]
  rfl

/-- A branch whose registers are at hand goes to its target or behind itself, as its condition says. -/
theorem branchOp_goes {cond : Word → Word → Bool} {a b : BitVec 5} {off : BitVec 12} {s : State} (ha : LeadReady s a) (hb : LeadReady s b) :
    ∃ t, branchOp cond a b off s = .next t ∧ Control s t ∧
      (cond (leadX s a) (leadX s b) = true → GoesTo s t (s.slot.pc + BitVec.ofInt 64 (2 * off.toInt)) true) ∧
      (cond (leadX s a) (leadX s b) = false → Retires s t 4) := by
  unfold branchOp
  rw [withLeaderReady_ready s _ _ (by simp [ha, hb]), withLeaderX_ready s a _ ha, withLeaderX_ready s b _ hb, two_mul_sext]
  cases cond (leadX s a) (leadX s b)
  · exact ⟨_, rfl, retireTo_control .., nofun, fun _ => retireTo_goes ..⟩
  · exact ⟨_, rfl, retireTo_control .., fun _ => retireTo_goes .., nofun⟩

theorem condGe_iff (x y : Word) : condGe x y = true ↔ y.toInt ≤ x.toInt := by simp [condGe, BitVec.slt]

theorem condGeu_iff (x y : Word) : condGeu x y = true ↔ y.toNat ≤ x.toNat := by simp [condGeu, BitVec.ult]

theorem evenAddr_eq (x : Word) : evenAddr x = BitVec.ofNat 64 (x.toNat / 2 * 2) := SpecialLaws.and_not_one x

theorem jrOp_goes {a : BitVec 5} {s : State} (h : LeadReady s a) :
    ∃ t, jrOp a s = .next t ∧ Control s t ∧ GoesTo s t (BitVec.ofNat 64 ((leadX s a).toNat / 2 * 2)) true := by
  unfold jrOp
  rw [withLeaderX_ready s a _ h, evenAddr_eq]
  exact ⟨_, rfl, retireTo_control .., retireTo_goes ..⟩

/-- Settles O5: a jump only retires, to its target. -/
theorem jumps : Obligations.Jumps := by
  refine ⟨fun off s => ?_, ?_⟩
  · rw [exec_j, execJ, two_mul_sext]
    exact ⟨_, rfl, retireTo_control .., retireTo_goes ..⟩
  · rintro i a s (rfl | rfl) ready
    · exact jrOp_goes ready
    · exact jrOp_goes ready

/-! ### `loop` and `loopi` (04 R86) -/

/-- The end of a loop body of length field `len` at `start`. -/
theorem loopStop_eq (start : Word) (len : BitVec 11) :
    start + 2 * (BitVec.ofNat 64 len.toNat + 1) = start + BitVec.ofNat 64 (2 * (len.toNat + 1)) := by
  rw [BitVec.ofNat_mul, BitVec.ofNat_add]
  rfl

/-- A loop body is not empty. -/
theorem start_ne_loopStop (start : Word) (len : BitVec 11) : start ≠ start + BitVec.ofNat 64 (2 * (len.toNat + 1)) := by
  have lt := len.isLt
  intro h
  have zero : BitVec.ofNat 64 (2 * (len.toNat + 1)) = 0 := by simpa using h
  have := congrArg BitVec.toNat zero
  rw [BitVec.toNat_ofNat, Nat.mod_eq_of_lt (by omega)] at this
  simp at this

theorem loopStart_full {s : State} (full : s.slot.inner.isSome = true) (count : Word) (len : BitVec 11) :
    loopStart count len s = trap .loop 0 s := if_pos full

theorem loopStart_skips {s : State} (room : s.slot.inner = none) (len : BitVec 11) :
    loopStart 0 len s = .next (retireTo (s.slot.pc + 4 + BitVec.ofNat 64 (2 * (len.toNat + 1))) false s) := by
  unfold loopStart
  rw [room, if_neg (by simp), if_pos rfl, loopStop_eq]

/-- With no loop active the new one is the outer loop, and with one the inner; nothing else changes. -/
theorem activate_outer {l : Slot} (h : l.outer = none) (p : Loop) :
    (activate l p).outer = some p ∧ (activate l p).inner = l.inner ∧ (activate l p).retired = l.retired := by
  unfold activate; rw [h]; exact ⟨rfl, rfl, rfl⟩

theorem activate_inner_goes {s : State} {o : Loop} (h : s.slot.outer = some o) (p : Loop) (n : Word) (jump : Bool) :
    GoesTo { s with slot := { s.slot with inner := some p } } (retireTo n jump (onSlot s fun l => activate l p)) n jump := by
  show GoesTo _ (retireTo n jump (onSlot s fun _ => activate s.slot p)) n jump
  unfold activate; split
  · next none => rw [h] at none; cases none
  · exact ⟨rfl, rfl⟩

theorem activate_control (s : State) (p : Loop) (n : Word) (jump : Bool) :
    Control s (retireTo n jump (onSlot s fun l => activate l p)) := by
  show Control s (retireTo n jump (onSlot s fun _ => activate s.slot p))
  unfold activate; split <;> rfl

theorem loopStart_enters {s : State} (room : s.slot.inner = none) {count : Word} (trips : count ≠ 0) (len : BitVec 11) :
    loopStart count len s = .next (retireTo (s.slot.pc + 4) false (onSlot s fun l =>
      activate l ⟨s.slot.pc + 4, s.slot.pc + 4 + BitVec.ofNat 64 (2 * (len.toNat + 1)), count⟩)) := by
  unfold loopStart
  rw [room, if_neg (by simp), if_neg trips, loopStop_eq]

/-- Both forms are LoopStart with their count. -/
theorem exec_of_isLoop {i : Instr} {count : Word} {len : BitVec 11} {s : State} (h : IsLoop i count len s) :
    exec i s = loopStart count len s := by
  obtain ⟨a, rfl, ready, rfl⟩ | ⟨c, rfl, rfl⟩ := h
  · rw [exec_loop, execLoop, withLeaderX_ready s a _ ready]
  · rfl

/-- Settles O9: LoopStart traps, skips the body or enters it. -/
theorem loops : Obligations.Loops := by
  intro i count len s loop
  rw [exec_of_isLoop loop]
  refine ⟨fun full => loopStart_full full count len, fun room => ?_⟩
  by_cases zero : count = 0
  · subst zero
    rw [loopStart_skips room]
    exact ⟨_, rfl, retireTo_control .., fun _ => retireTo_goes .., absurd rfl, absurd rfl⟩
  rw [loopStart_enters room zero]
  refine ⟨_, rfl, activate_control .., fun c => absurd c zero, fun _ none => ?_, fun _ o some => activate_inner_goes some ..⟩
  obtain ⟨outer, inner, retired⟩ := activate_outer none ⟨s.slot.pc + 4, s.slot.pc + 4 + BitVec.ofNat 64 (2 * (len.toNat + 1)), count⟩
  rw [← retired]
  apply retireTo_before_stop
  · exact outer
  · exact inner.trans room
  · exact start_ne_loopStop _ len

/-! ### `nop` and `tret` (04 R106, R108) -/

/-- Settles O24: both forms only retire. -/
theorem nopOnlyAdvances : Obligations.NopOnlyAdvances := fun s => ⟨done_control 4 s, done_control 2 s⟩

/-- Clearing a bit that is set takes its weight away. -/
theorem and_not_of_and_eq {x m : Word} (h : x &&& m = m) : x &&& ~~~m = BitVec.ofNat 64 (x.toNat - m.toNat) := by
  have apart : (x &&& ~~~m) &&& m = 0#64 := by
    rw [BitVec.and_assoc, BitVec.and_comm (~~~m), BitVec.and_not_self]
    exact BitVec.and_zero
  have whole : (x &&& ~~~m) ||| m = x := by
    apply BitVec.eq_of_getLsbD_eq
    intro i hi
    have bit : (x.getLsbD i && m.getLsbD i) = m.getLsbD i := by rw [← BitVec.getLsbD_and, h]
    rw [BitVec.getLsbD_or, BitVec.getLsbD_and, BitVec.getLsbD_not, decide_eq_true hi, ← bit]
    cases x.getLsbD i <;> cases m.getLsbD i <;> rfl
  have sum : x.toNat = (x &&& ~~~m).toNat + m.toNat := by
    rw [← BitVec.toNat_add_of_and_eq_zero apart, BitVec.add_eq_or_of_and_eq_zero _ _ apart, whole]
  rw [sum, Nat.add_sub_cancel, BitVec.ofNat_toNat, BitVec.setWidth_eq]

theorem trapActive_and {l : Slot} (active : trapActive l = true) : l.trCause &&& 0x80000000 = 0x80000000 := by
  have h := BitVec.and_twoPow l.trCause 31
  rw [show l.trCause.getLsbD 31 = true from active] at h
  exact h

/-- Settles O25: with ACTIVE set the trap is left and control goes to tr.pc; else the word traps. -/
theorem returnFromTrap : Obligations.ReturnFromTrap := by
  intro s
  rw [exec_tret]
  refine ⟨fun active => ?_, fun idle => ?_⟩
  · rw [execTret, if_pos active]
    exact ⟨_, rfl, ⟨rfl, rfl⟩, and_not_of_and_eq (trapActive_and active), rfl⟩
  · rw [execTret, if_neg (by simp [idle])]
    exact trap_next ..

end Sys2Proof.ControlLaws
end

section
/-! PROOFS. Scalar floating instructions: what each writes, and what the compares, classes, signs and integers that they name are (04 R95 to
R103). -/

namespace Sys2Proof.FloatLaws

open Sys2Proof.Machine Sys2Proof.Safety Sys2Proof.Laws

/-! ### Instructions that round -/

/-- A rounded result completes, with one draw where its mode draws. -/
theorem putRounded_result (len : Word) (rnd : Rnd) (d : BitVec 5) (v : Nat) (s : State) :
    FResult s len d (BitVec.ofNat 64 v) (oneDraw rnd) (putRounded len rnd d v s) :=
  done_setF s len d _ rnd 1

theorem fcvtFromI_result {d a : BitVec 5} {ty : FType} {rnd : Rnd} {s : State} (h : XReady s a) :
    FResult s 4 d (BitVec.ofNat 64 (ofInteger (ftypeFmt ty) rnd (drawOf rnd s 0) (xval s.slot a).toInt)) (oneDraw rnd)
      (exec (.fcvtFromI d a ty rnd) s) := by
  rw [exec_fcvtFromI, execFcvtFromI, withX_ready s a _ h]
  exact putRounded_result ..

/-! ### Instructions that do not round -/

theorem putF_result (len : Word) (d : BitVec 5) (v : Nat) (s : State) :
    FResult s len d (BitVec.ofNat 64 v) 0 (putF len d v s) :=
  done_setF s len d _ .rne 1

/-- The state with `n` more draws taken. -/
noncomputable def drawsTaken (n : Nat) (t : State) : State := onSlot t fun l => { l with draws := l.draws + BitVec.ofNat 64 n }

/-- Draws taken beside a result. -/
theorem keeps_drawsTaken {s t : State} {xs fs vs ms : List Nat} (h : Keeps s t xs fs vs ms 0) (n : Nat) :
    Keeps s (drawsTaken n t) xs fs vs ms n where
  rest := congrArg (drawsTaken n) h.rest
  x := h.x
  f := h.f
  v := h.v
  m := h.m
  pending := h.pending
  draws := congrArg (· + BitVec.ofNat 64 n) (h.draws.trans (BitVec.add_zero _))

theorem done_takeDraws (s : State) (len : Word) (rnd : Rnd) (f : Slot → Slot) :
    done len (onSlot s fun l => takeDraws rnd 1 (f l)) = .next (drawsTaken (oneDraw rnd) (retire len (onSlot s f))) := by
  simp only [takeDraws_eq]
  rfl

theorem done_setX_draws (s : State) (len : Word) (d : BitVec 5) (v : Word) (rnd : Rnd) :
    XResult s len d v (oneDraw rnd) (done len (onSlot s fun l => takeDraws rnd 1 (setX l d v))) := by
  obtain ⟨t, next, retires, keeps, value⟩ := done_setX s len d v
  cases next
  exact ⟨_, done_takeDraws .., retires, keeps_drawsTaken keeps _, value⟩

theorem fmin2_eq (f : FFmt) (a b : Nat) : fmin2 f a b =
    if fdecode f a = .nan ∨ fdecode f b = .nan then fnan f
    else if flt2 f a b = true ∨ (feq2 f a b = true ∧ signBit f a = true) then a % 2 ^ fwidth f else b % 2 ^ fwidth f := by
  simp [fmin2, isNaN]

theorem fmax2_eq (f : FFmt) (a b : Nat) : fmax2 f a b =
    if fdecode f a = .nan ∨ fdecode f b = .nan then fnan f
    else if flt2 f b a = true ∨ (feq2 f a b = true ∧ signBit f a = false) then a % 2 ^ fwidth f else b % 2 ^ fwidth f := by
  simp [fmax2, isNaN]

theorem oneIf_feq2 (f : FFmt) (a b : Nat) : oneIf (feq2 f a b) =
    if fleVal (fdecode f a) (fdecode f b) = true ∧ fleVal (fdecode f b) (fdecode f a) = true then 1 else 0 := by
  simp [oneIf, feq2, fle2]

theorem oneIf_flt2 (f : FFmt) (a b : Nat) : oneIf (flt2 f a b) =
    if fleVal (fdecode f a) (fdecode f b) = true ∧ fleVal (fdecode f b) (fdecode f a) = false then 1 else 0 := by
  simp [oneIf, flt2, fle2]

theorem one_shiftLeft (n : Nat) : (1 : Word) <<< n = BitVec.ofNat 64 (2 ^ n) := by
  rw [IntegerLaws.shiftLeft_eq_ofNat, show (1 : Word).toNat = 1 from rfl, one_mul]

theorem fmvF_result {d a : BitVec 5} {ty : FType} {s : State} (h : XReady s a) :
    FResult s 4 d (BitVec.ofNat 64 (rawOf ty (xval s.slot a))) 0 (exec (.fmvF d a ty) s) := by
  rw [exec_fmvF, execFmvF, withX_ready s a _ h]
  exact putF_result ..

end Sys2Proof.FloatLaws
end

section
/-! PROOFS. Instructions that trap by their nature, and the registers that an instruction reads (04 R107, R110; 03 R68; 10 R209). -/

namespace Sys2Proof.SourceLaws

open Sys2Proof.Machine Sys2Proof.Safety Sys2Proof.Laws

/-! ### Registers read in order -/

/-- The first marked register of those that are read, none of which is awaited, traps. -/
def MarksTrap (s : State) (rs : List (BitVec 5)) (o : Out) : Prop :=
  ∀ (k : Nat) (r : BitVec 5) (ea : Word), (∀ q ∈ rs, ¬ xWaits s q) → rs[k]? = some r → r ≠ 0 → sfind s.slot.xPoison (xKey s.slot r) = some ea →
    (∀ j q, j < k → rs[j]? = some q → q = 0 ∨ sfind s.slot.xPoison (xKey s.slot q) = none) → Traps s .poison ea o

/-- `o` is what an instruction does that reads the registers `rs`: it waits for their data and traps at their marks. -/
def Reads (s : State) (rs : List (BitVec 5)) (o : Out) : Prop := ((∃ r ∈ rs, xWaits s r) → Waits s o) ∧ MarksTrap s rs o

theorem marksTrap_nil (s : State) (o : Out) : MarksTrap s [] o := fun k _ _ _ found => by cases found

theorem not_awaited {s : State} {n : BitVec 5} (h : ¬ xWaits s n) (nonzero : n ≠ 0) : awaited s.slot (xKey s.slot n) = false :=
  Bool.eq_false_iff.2 fun c => h ⟨nonzero, c⟩

/-- A register is read before those that follow it. -/
theorem marksTrap_cons {s : State} {n : BitVec 5} {rs : List (BitVec 5)} {k : Word → Out} (h : ∀ v, MarksTrap s rs (k v)) :
    MarksTrap s (n :: rs) (withX n s k) := by
  intro i r ea waits found nonzero mark first
  have here := waits n List.mem_cons_self
  cases i with
  | zero =>
    cases found
    exact withX_poison s n k ea nonzero (not_awaited here nonzero) mark
  | succ i =>
    have ready : XReady s n := or_iff_not_imp_left.2 fun z => ⟨not_awaited here z, (first 0 n (Nat.succ_pos _) rfl).resolve_left z⟩
    rw [withX_ready s n k ready]
    exact h _ i r ea (fun q hq => waits q (List.mem_cons_of_mem _ hq)) found nonzero mark fun j q hj hq => first (j + 1) q (Nat.succ_lt_succ hj) hq

theorem marksTrap_one (s : State) (n : BitVec 5) (k : Word → Out) : MarksTrap s [n] (withX n s k) := marksTrap_cons fun _ => marksTrap_nil s _

theorem marksTrap_two (s : State) (a b : BitVec 5) (k : Word → Word → Out) : MarksTrap s [a, b] (withX a s fun x => withX b s (k x)) :=
  marksTrap_cons fun _ => marksTrap_one s b _

theorem marksTrap_pair {s : State} {n : BitVec 5} {sz : ASize} {rs : List (BitVec 5)} {k : Nat → Out} (h : ∀ v, MarksTrap s rs (k v)) :
    MarksTrap s (operandRegs sz n ++ rs) (withPair n sz s k) := by
  unfold withPair
  by_cases pair : sz = .q
  · simp only [operandRegs, if_pos pair]
    exact marksTrap_cons fun _ => marksTrap_cons fun _ => h _
  · simp only [operandRegs, if_neg pair]
    exact marksTrap_cons fun _ => h _

/-- All of them have their data before one is looked at. -/
theorem reads_withReady {s : State} {rs : List (BitVec 5)} {o : Out} (h : MarksTrap s rs o) : Reads s rs (withReady rs s o) := by
  have all : (rs.any fun n => n != 0 && awaited s.slot (xKey s.slot n)) = true ↔ ∃ r ∈ rs, xWaits s r := by
    simp [List.any_eq_true, xWaits]
  unfold withReady
  refine ⟨fun waits => if_pos (all.2 waits), fun k r ea waits found nonzero mark first => ?_⟩
  rw [if_neg fun c => by obtain ⟨q, hq, w⟩ := all.1 c; exact waits q hq w]
  exact h k r ea waits found nonzero mark first

theorem reads_one (s : State) (n : BitVec 5) (k : Word → Out) : Reads s [n] (withX n s k) := by
  refine ⟨fun ⟨r, mem, nonzero, waits⟩ => ?_, marksTrap_one s n k⟩
  obtain rfl := List.mem_singleton.1 mem
  unfold withX
  rw [if_neg nonzero, if_pos waits]
  rfl

theorem reads_two (s : State) (a b : BitVec 5) (k : Word → Word → Out) :
    Reads s [a, b] (withReady [a, b] s (withX a s fun x => withX b s (k x))) := reads_withReady (marksTrap_two s a b k)

theorem reads_fmvF (d a : BitVec 5) (ty : FType) (s : State) : Reads s [a] (execFmvF d a ty s) := reads_one ..

theorem reads_fcvtFromI (d a : BitVec 5) (ty : FType) (rnd : Rnd) (s : State) : Reads s [a] (execFcvtFromI d a ty rnd s) := reads_one ..

theorem reads_loadOp (len : Word) (w : Nat) (put : Slot → Nat → Slot) (a : BitVec 5) (imm : BitVec 13) (s : State) :
    Reads s [a] (loadOp len w put a imm s) := reads_one ..

theorem reads_storeOp (len : Word) (w v : Nat) (a : BitVec 5) (imm : BitVec 13) (s : State) : Reads s [a] (storeOp len w v a imm s) := reads_one ..

theorem reads_withIndex (a b : BitVec 5) (s : State) (k : BitVec 5 → Out) : Reads s [a] (withIndex a b s k) := reads_one ..

theorem reads_globalLoad (d a : BitVec 5) (imm : BitVec 9) (w : Nat) (acq : Option Scope) (s : State) :
    Reads s [a] (globalLoad d a imm w acq s) := reads_one ..

theorem reads_csel (d a b c : BitVec 5) (s : State) : Reads s [a, b, c] (execCsel d a b c s) :=
  reads_withReady (marksTrap_cons fun _ => marksTrap_two s b c _)

theorem reads_atomOp (op : AtomOp) (fp : Bool) (d a b : BitVec 5) (ar : Bool) (sz : ASize) (sc : Scope) (s : State) :
    Reads s (atomSources sz a b) (atomOp op fp d a b ar sz sc s) := by
  refine reads_withReady (marksTrap_cons fun _ => ?_)
  exact List.append_nil (operandRegs sz b) ▸ marksTrap_pair fun _ => marksTrap_nil s _

theorem reads_cas (d a b : BitVec 5) (ar : Bool) (sz : ASize) (sc : Scope) (s : State) :
    Reads s (atomSources sz a b ++ operandRegs sz d) (execAtomCas d a b ar sz sc s) :=
  reads_withReady (marksTrap_cons fun _ => marksTrap_pair fun _ =>
    List.append_nil (operandRegs sz d) ▸ marksTrap_pair fun _ => marksTrap_nil s _)

/-! ### Registers that decide control: the slot's own outside a gang -/

theorem reads_leader {s : State} (h : s.slot.gangPos = 0) (n : BitVec 5) (k : Word → Out) : Reads s [n] (withLeaderX n s k) := by
  unfold withLeaderX
  rw [if_pos h]
  exact reads_one s n k

theorem reads_jrOp {s : State} (h : s.slot.gangPos = 0) (n : BitVec 5) : Reads s [n] (jrOp n s) := reads_leader h n _

theorem reads_leader_two {s : State} (h : s.slot.gangPos = 0) (a b : BitVec 5) (k : Word → Word → Out) :
    Reads s [a, b] (withLeaderReady [a, b] s (withLeaderX a s fun x => withLeaderX b s (k x))) := by
  unfold withLeaderReady withLeaderX
  simp only [if_pos h]
  exact reads_two s a b k

/-- The special registers that a loop counter is hold the leader's value. -/
theorem reads_puts {s : State} {n : BitVec 12} (h : ¬ ((n = 0x030 ∨ n = 0x031) ∧ s.slot.gangPos ≠ 0)) (a : BitVec 5) :
    Reads s [a] (execPuts a n s) := by
  have own (c : n = 0x030 ∨ n = 0x031) : s.slot.gangPos = 0 := not_not.1 fun g => h ⟨c, g⟩
  unfold execPuts
  split
  · exact reads_one ..
  · next outer => exact reads_leader (own (.inl (BitVec.eq_of_toNat_eq outer))) ..
  · next inner => exact reads_leader (own (.inr (BitVec.eq_of_toNat_eq inner))) ..
  · exact reads_one ..

/-! ### Each instruction -/

/-- What holds of an instruction's registers where it reads some. -/
theorem reads_if {s : State} {c : Prop} [Decidable c] {rs : List (BitVec 5)} {o : Out} (h : c → Reads s rs o) :
    (if c then some rs else none).elim True fun rs => Reads s rs o := by
  by_cases hc : c
  · rw [if_pos hc]
    exact h hc
  · rw [if_neg hc]
    trivial

theorem reads_unless {s : State} {c : Prop} [Decidable c] {rs : List (BitVec 5)} {o : Out} (h : ¬ c → Reads s rs o) :
    (if c then none else some rs).elim True fun rs => Reads s rs o := by
  by_cases hc : c
  · rw [if_pos hc]
    trivial
  · rw [if_neg hc]
    exact h hc

theorem reads_withRoom {s : State} {rs : List (BitVec 5)} {o : Out} (h : Reads s rs o) :
    (if mxRoom s then some rs else none).elim True fun rs => Reads s rs (withRoom s o) :=
  reads_if fun room => by unfold withRoom; rwa [if_pos room]

/-! ### Traps by nature -/

theorem setWidth_eq_ofNat {n : Nat} (v : BitVec n) : v.setWidth 64 = BitVec.ofNat 64 v.toNat := (BitVec.ofNat_toNat 64 v).symm

end Sys2Proof.SourceLaws
end

section
/-! PROOFS. Local loads and stores (04 R90 to R94; 10 R212, R219; 11 R224). -/

namespace Sys2Proof.LocalLaws

open Sys2Proof.Machine Sys2Proof.Safety Sys2Proof.Laws

/-! ### What the checks of a local access do -/

theorem localOff_eq {s : State} {ea : Word} {n off : Nat} (h : localOff s ea n = some off) : off = bits ea.toNat 0 19 := by
  unfold localOff at h
  dsimp only at h
  split_ifs at h
  split at h
  · obtain ⟨_, _, rfl⟩ := Option.map_eq_some_iff.1 h
    rfl
  · cases h

theorem withPool_checked (s : State) (ea : Word) (off w : Nat) (store : Bool) (k : Out) : Checked s ea off w store (withPool s ea off w store k) := by
  unfold withPool
  refine ⟨fun lock => if_pos lock, fun free => ?_⟩
  rw [if_neg (Bool.eq_false_iff.1 free)]
  refine ⟨fun ch view => ?_, fun view => ?_, fun view => ?_⟩
  · rw [view]
    rfl
  · rw [view]
    rfl
  · rw [view]
    refine ⟨fun poison => if_pos poison, fun st clean busy => ?_⟩
    subst st
    dsimp only
    rw [if_pos rfl, if_neg (Bool.eq_false_iff.1 clean), busy]
    rfl

/-- A local access that nothing holds back is looked up, and then checked. -/
theorem withLocal_found {s : State} {ea : Word} {n off : Nat} {store : Bool} (k : Nat → Out) (free : memBlocked s = false)
    (room : store = true ∨ noEntries s 1 = false) (found : localOff s ea n = some off) :
    withLocal s ea n store k = withPool s ea off n store (k off) := by
  have unheld : (memBlocked s || (!store && noEntries s 1)) = false := by rcases room with h | h <;> simp [free, h]
  unfold withLocal
  rw [if_neg (Bool.eq_false_iff.1 unheld), found]

theorem withLocal_missing {s : State} {ea : Word} {n : Nat} {store : Bool} (k : Nat → Out) (free : memBlocked s = false)
    (room : store = true ∨ noEntries s 1 = false) (missing : localOff s ea n = none) :
    Traps s .rights ea (withLocal s ea n store k) := by
  have unheld : (memBlocked s || (!store && noEntries s 1)) = false := by rcases room with h | h <;> simp [free, h]
  unfold withLocal
  rw [if_neg (Bool.eq_false_iff.1 unheld), missing]
  rfl

theorem withLocal_held {s : State} (ea : Word) (n : Nat) {store : Bool} (k : Nat → Out)
    (held : memBlocked s = true ∨ (store = false ∧ noEntries s 1 = true)) : Waits s (withLocal s ea n store k) := by
  have shut : (memBlocked s || (!store && noEntries s 1)) = true := by
    rcases held with h | ⟨load, h⟩
    · rw [h, Bool.true_or]
    · rw [h, load, Bool.and_true, Bool.not_false, Bool.or_true]
  exact if_pos shut

/-! ### Loads -/

/-- A load whose first part is still to be read goes through the checks. -/
theorem loadOp_first {len : Word} {w : Nat} {put : Slot → Nat → Slot} {a : BitVec 5} {imm : BitVec 13} {s : State} (ready : XReady s a)
    (first : secondPart s (bits (localEa (xval s.slot a) imm).toNat 0 19) w = false) : loadOp len w put a imm s =
      withLocal s (localEa (xval s.slot a) imm) w false fun off => inParts s off w (fun o n => (poolRead s n o, false)) fun r =>
        done len (onSlot s fun l => put l (leNat r.1)) := by
  unfold loadOp
  rw [withX_ready s a _ ready]
  exact if_neg (Bool.eq_false_iff.1 first)

theorem loadOp_second {len : Word} {w : Nat} {put : Slot → Nat → Slot} {a : BitVec 5} {imm : BitVec 13} {s : State} (ready : XReady s a)
    (second : secondPart s (bits (localEa (xval s.slot a) imm).toNat 0 19) w = true) : loadOp len w put a imm s =
      inParts s (bits (localEa (xval s.slot a) imm).toNat 0 19) w (fun o n => (poolRead s n o, false)) fun r =>
        done len (onSlot s fun l => put l (leNat r.1)) := by
  unfold loadOp
  rw [withX_ready s a _ ready]
  exact if_pos second

theorem inParts_one (s : State) {off n : Nat} (read : Nat → Nat → List Byte × Bool) (k : List Byte × Bool → Out) (h : off % 64 + n ≤ 64) :
    inParts s off n read k = k (read off n) :=
  if_pos (Nat.le_sub_of_add_le' h)

theorem inParts_two {s : State} {off n : Nat} (read : Nat → Nat → List Byte × Bool) (k : List Byte × Bool → Out) (h : 64 < off % 64 + n) :
    inParts s off n read k = match s.slot.half with
      | none => stall (onSlot s fun l => { l with half := some (read off (64 - off % 64)) })
      | some (bs, bad) => k (bs ++ (read (off + (64 - off % 64)) (n - (64 - off % 64))).1,
          bad || (read (off + (64 - off % 64)) (n - (64 - off % 64))).2) := by
  have beyond : ¬ n ≤ 64 - off % 64 := Nat.not_le.2 (Nat.sub_lt_left_of_lt_add (Nat.mod_lt _ (by decide)).le h)
  unfold inParts
  exact (if_neg beyond).trans rfl

theorem secondPart_of_within {s : State} {off n : Nat} (h : off % 64 + n ≤ 64) : secondPart s off n = false := by
  rw [secondPart, decide_eq_false (Nat.not_lt.2 h), Bool.and_false]

/-- A load comes to its bytes in one part or two. -/
theorem loadOp_loads {len : Word} {w : Nat} {put : Slot → Nat → Slot} {a : BitVec 5} {imm : BitVec 13} {s : State} {res : List Byte → Out → Prop}
    (ready : XReady s a) (completes : ∀ bs, res bs (done len (onSlot s fun l => put l (leNat bs)))) :
    LoadsFrom s (localEa (xval s.slot a) imm) w res (loadOp len w put a imm s) := by
  refine ⟨fun off ok within => ?_, fun off ok across fresh => ?_, fun off bs bad at_off across half => ?_⟩
  · obtain rfl := localOff_eq ok.2.2.1
    rw [loadOp_first ready (secondPart_of_within within), withLocal_ready s _ w false _ _ ok, inParts_one s _ _ within]
    exact completes _
  · obtain rfl := localOff_eq ok.2.2.1
    have first : secondPart s (bits (localEa (xval s.slot a) imm).toNat 0 19) w = false := by rw [secondPart, fresh]; rfl
    rw [loadOp_first ready first, withLocal_ready s _ w false _ _ ok, inParts_two _ _ across, fresh]
    rfl
  · subst at_off
    have second : secondPart s (bits (localEa (xval s.slot a) imm).toNat 0 19) w = true := by
      rw [secondPart, half, decide_eq_true across]
      rfl
    rw [loadOp_second ready second, inParts_two _ _ across, half]
    exact completes _

theorem loadOp_rights {len : Word} {w : Nat} {put : Slot → Nat → Slot} {a : BitVec 5} {imm : BitVec 13} {s : State} (ready : XReady s a)
    (first : FirstLoad s (localEa (xval s.slot a) imm) w) (missing : localOff s (localEa (xval s.slot a) imm) w = none) :
    Traps s .rights (localEa (xval s.slot a) imm) (loadOp len w put a imm s) := by
  obtain ⟨free, room, whole⟩ := first
  rw [loadOp_first ready whole]
  exact withLocal_missing _ free (.inr room) missing

theorem loadOp_checks {len : Word} {w : Nat} {put : Slot → Nat → Slot} {a : BitVec 5} {imm : BitVec 13} {s : State} (ready : XReady s a)
    (whole : secondPart s (bits (localEa (xval s.slot a) imm).toNat 0 19) w = false) :
    (memBlocked s = true ∨ noEntries s 1 = true → Waits s (loadOp len w put a imm s)) ∧
      (∀ off, FirstLoad s (localEa (xval s.slot a) imm) w → localOff s (localEa (xval s.slot a) imm) w = some off →
        Checked s (localEa (xval s.slot a) imm) off w false (loadOp len w put a imm s)) := by
  rw [loadOp_first ready whole]
  refine ⟨fun held => withLocal_held _ _ _ (held.imp_right fun c => ⟨rfl, c⟩), fun off first found => ?_⟩
  obtain ⟨free, room, -⟩ := first
  rw [withLocal_found _ free (.inr room) found]
  exact withPool_checked ..

/-! ### What a store leaves in the store buffer -/

/-- The byte that `data` at `off` holds for the offset `o`. -/
def stored (off : Nat) (data : List Byte) (o : Nat) : Option Byte := if off ≤ o then data[o - off]? else none

theorem sfind_byteMap (k : Nat) (data : List Byte) (o : Nat) : sfind (byteMap k data) o = stored k data o := by
  induction data generalizing k with
  | nil => exact (ite_self _).symm
  | cons b t ih =>
    show (if o = k then some b else sfind (byteMap (k + 1) t) o) = _
    rw [ih]
    unfold stored
    rcases Nat.lt_trichotomy o k with h | rfl | h
    · rw [if_neg h.ne, if_neg (Nat.not_le.2 (Nat.lt_succ_of_lt h)), if_neg (Nat.not_le.2 h)]
    · rw [if_pos rfl, if_pos (Nat.le_refl _), Nat.sub_self]
      rfl
    · obtain ⟨j, rfl⟩ := Nat.exists_eq_add_of_lt h
      rw [if_neg h.ne', if_pos (Nat.succ_le_of_lt h), if_pos h.le, Nat.add_assoc k j 1, Nat.add_sub_cancel_left, ← Nat.sub_sub,
        Nat.add_sub_cancel_left]
      rfl

/-- The part in the upper block goes before that in the lower one. -/
theorem stored_split (off c : Nat) (data : List Byte) (o : Nat) :
    (stored (off + c) (data.drop c) o).or (stored off (data.take c) o) = stored off data o := by
  unfold stored
  by_cases upper : off + c ≤ o
  · obtain ⟨j, rfl⟩ := Nat.exists_eq_add_of_le upper
    have low : off ≤ off + c + j := Nat.le_trans (Nat.le_add_right ..) upper
    rw [if_pos upper, if_pos low, if_pos low, Nat.add_sub_cancel_left, Nat.add_assoc, Nat.add_sub_cancel_left, List.getElem?_drop,
      List.getElem?_take_eq_none (Nat.le_add_right ..), Option.or_none]
  · rw [if_neg upper, Option.none_or]
    by_cases low : off ≤ o
    · rw [if_pos low, if_pos low, List.getElem?_take_of_lt (Nat.sub_lt_left_of_lt_add low (Nat.not_le.1 upper))]
    · rw [if_neg low, if_neg low]

/-- The youngest byte after an entry more. -/
theorem youngest_or (m : SMap Byte) (o : Nat) (b : Option Byte) :
    (match sfind m o with | some v => some v | none => b) = (sfind m o).or b := by
  cases sfind m o <;> rfl

theorem bufByte_bufStore (now : Nat) (l : Slot) (off : Nat) (data : List Byte) (o : Nat) :
    bufByte (bufStore now l off data) o = (stored off data o).or (bufByte l o) := by
  show (l.storeBuf ++ oneStore (poolParts now off data)).foldl _ none = _
  rw [List.foldl_append]
  show (oneStore (poolParts now off data)).foldl _ (bufByte l o) = _
  unfold poolParts splitAt
  dsimp only
  split_ifs
  · show (match sfind (byteMap off data) o with | some v => some v | none => bufByte l o) = _
    rw [youngest_or, sfind_byteMap]
  · show (match sfind (byteMap (off + (64 - off % 64)) (data.drop (64 - off % 64))) o with
      | some v => some v
      | none => match sfind (byteMap off (data.take (64 - off % 64))) o with | some v => some v | none => bufByte l o) = _
    rw [youngest_or, youngest_or, sfind_byteMap, sfind_byteMap, ← Option.or_assoc, stored_split]

theorem length_leBytes (n v : Nat) : (leBytes n v).length = n := by
  induction n generalizing v with
  | zero => rfl
  | succ n ih => exact congrArg (· + 1) (ih _)

/-- Bytes that the store buffer holds are read. -/
theorem poolRead_buffered {t : State} {data : List Byte} {off : Nat} (h : ∀ j b, data[j]? = some b → bufByte t.slot (off + j) = some b) :
    poolRead t data.length off = data := by
  induction data generalizing off with
  | nil => rfl
  | cons b rest ih =>
    have head : bufByte t.slot off = some b := h 0 b rfl
    have tail := ih (off := off + 1) fun j c hj => by
      rw [Nat.add_assoc, Nat.add_comm 1 j]
      exact h (j + 1) c hj
    show (bufByte t.slot off).getD _ :: poolRead t rest.length (off + 1) = _
    rw [head, tail]
    rfl

/-- A store that enters the buffer is what its slot reads there, and nothing else changes. -/
theorem bufStore_read {s t : State} {off : Nat} {data : List Byte} (buffer : t.slot.storeBuf = (bufStore s.now s.slot off data).storeBuf)
    (cur : t.cur = s.cur) (mem : t.mem = s.mem) :
    poolRead t data.length off = data ∧ ∀ b, b < off ∨ off + data.length ≤ b → poolRead t 1 b = poolRead s 1 b := by
  have byte (o : Nat) : bufByte t.slot o = (stored off data o).or (bufByte s.slot o) := by
    rw [← bufByte_bufStore s.now s.slot off data o]
    unfold bufByte
    rw [buffer]
  refine ⟨poolRead_buffered fun j b hj => ?_, fun b outside => ?_⟩
  · rw [byte, stored, if_pos (Nat.le_add_right ..), Nat.add_sub_cancel_left, hj]
    rfl
  · have other : stored off data b = none := by
      unfold stored
      rcases outside with h | h
      · exact if_neg (Nat.not_le.2 h)
      · rw [List.getElem?_eq_none (Nat.le_sub_of_add_le' h)]
        exact ite_self _
    show [(bufByte t.slot b).getD (t.mem.raw (poolKey t.cur.core b))] = [(bufByte s.slot b).getD (s.mem.raw (poolKey s.cur.core b))]
    rw [byte, other, cur, mem]
    rfl

/-! ### Stores -/

theorem storeOp_eq {len : Word} {w v : Nat} {a : BitVec 5} {imm : BitVec 13} {s : State} (ready : XReady s a) : storeOp len w v a imm s =
    withLocal s (localEa (xval s.slot a) imm) w true fun off => done len (onSlot s fun l => bufStore s.now l off (leBytes w v)) := by
  unfold storeOp
  rw [withX_ready s a _ ready]

theorem storeOp_stores {len : Word} {w v off : Nat} {a : BitVec 5} {imm : BitVec 13} {s : State} (ready : XReady s a)
    (ok : LocalOk s (localEa (xval s.slot a) imm) w true off) : ∃ t, storeOp len w v a imm s = .next t ∧ Retires s t len ∧
      Control s { t with slot := { t.slot with storeBuf := s.slot.storeBuf } } ∧ poolRead t w off = leBytes w v ∧
      (∀ b, b < off ∨ off + w ≤ b → poolRead t 1 b = poolRead s 1 b) := by
  rw [storeOp_eq ready, withLocal_ready s _ w true _ _ ok]
  have read := bufStore_read (s := s) (t := retire len (onSlot s fun l => bufStore s.now l off (leBytes w v))) (off := off) (data := leBytes w v)
    rfl rfl rfl
  rw [length_leBytes] at read
  exact ⟨_, rfl, ⟨rfl, rfl⟩, rfl, read⟩

theorem storeOp_rights {len : Word} {w v : Nat} {a : BitVec 5} {imm : BitVec 13} {s : State} (ready : XReady s a) (free : memBlocked s = false)
    (missing : localOff s (localEa (xval s.slot a) imm) w = none) :
    Traps s .rights (localEa (xval s.slot a) imm) (storeOp len w v a imm s) := by
  rw [storeOp_eq ready]
  exact withLocal_missing _ free (.inl rfl) missing

theorem storeOp_checks {len : Word} {w v : Nat} {a : BitVec 5} {imm : BitVec 13} {s : State} (ready : XReady s a) :
    (memBlocked s = true → Waits s (storeOp len w v a imm s)) ∧
      (∀ off, memBlocked s = false → localOff s (localEa (xval s.slot a) imm) w = some off →
        Checked s (localEa (xval s.slot a) imm) off w true (storeOp len w v a imm s)) := by
  rw [storeOp_eq ready]
  refine ⟨fun held => withLocal_held _ _ _ (.inl held), fun off free found => ?_⟩
  rw [withLocal_found _ free (.inl rfl) found]
  exact withPool_checked ..

end Sys2Proof.LocalLaws
end

section
/-! PROOFS. The tables of rows: one case analysis on the instruction says that each runs as every table that lists it states. -/

namespace Sys2Proof.RowLaws

open Sys2Proof.Machine Sys2Proof.Safety Sys2Proof.Laws Sys2Proof.IntegerLaws Sys2Proof.ControlLaws Sys2Proof.FloatLaws Sys2Proof.SourceLaws
  Sys2Proof.LocalLaws

/-! ### Tables -/

/-- Where a table has a row, it holds; and so do the tables behind it. -/
def Listed {α : Type} (row : Option α) (holds : α → Prop) (rest : Prop) : Prop := row.elim rest fun r => holds r ∧ rest

theorem Listed.holds {α : Type} {row : Option α} {P : α → Prop} {rest : Prop} {r : α} (h : Listed row P rest) (found : row = some r) : P r := by
  subst found
  exact And.left h

theorem Listed.rest {α : Type} {row : Option α} {P : α → Prop} {rest : Prop} (h : Listed row P rest) : rest := by
  cases row with
  | none => exact h
  | some r => exact And.right h

/-- The registers that the instruction reads. -/
def SourceRows (s : State) (i : Instr) : Prop := (sources s i).elim True fun rs => Reads s rs (exec i s)

/-- Traps by nature. -/
def TrapRows (s : State) (i : Instr) : Prop := Listed (trapRow i) (fun r => Traps s r.1 r.2 (exec i s)) (SourceRows s i)

/-- Local loads into x registers. -/
def LoadRows (s : State) (i : Instr) : Prop :=
  Listed (xLoadRow i) (fun (len, d, a, imm, w) => ∃ m : BitVec 13, m.toInt = imm ∧
    exec i s = loadOp len w (fun l v => setX l d (signLoad w v)) a m s) (TrapRows s i)

/-- Floating instructions that do not round, and those that do. -/
def FloatRows (s : State) (i : Instr) : Prop := Listed (fxRow s i) (fun r => r.Ready s → r.Holds s (exec i s)) (LoadRows s i)

def RoundingRows (s : State) (i : Instr) : Prop := Listed (fpRow s i) (fun r => r.Ready s → r.Holds s (exec i s)) (FloatRows s i)

/-- Branches. -/
def BranchRows (s : State) (i : Instr) : Prop :=
  Listed (branchRow i) (fun (a, b, off, c) => ∃ cond : Word → Word → Bool, exec i s = branchOp cond a b off s ∧ ∀ x y, cond x y = true ↔ c x y)
    (RoundingRows s i)

/-- Integer instructions. -/
def UnaryRows (s : State) (i : Instr) : Prop := Listed (unaryRow i) (fun (len, d, a, f) => exec i s = unOp len f d a s) (BranchRows s i)

def DivRows (s : State) (i : Instr) : Prop := Listed (divRow i) (fun (d, a, b, f) => exec i s = aluOp 4 f d a b s) (UnaryRows s i)

def AluRows (s : State) (i : Instr) : Prop := Listed (aluRow i) (fun (len, d, a, b, f) => exec i s = aluOp len f d a b s) (DivRows s i)

/-! ### Each instruction -/

/-- The integer forms read their sources. -/
theorem aluOp_listed {i : Instr} {len : Word} {d a b : BitVec 5} {f : Word → Word → Word} {s : State} (h : exec i s = aluOp len f d a b s) :
    exec i s = aluOp len f d a b s ∧ Reads s [a, b] (exec i s) := by
  rw [h]
  exact ⟨rfl, reads_two s a b _⟩

theorem unOp_listed {i : Instr} {len : Word} {d a : BitVec 5} {f : Word → Word} {s : State} (h : exec i s = unOp len f d a s) :
    exec i s = unOp len f d a s ∧ Reads s [a] (exec i s) := by
  rw [h]
  exact ⟨rfl, reads_one s a _⟩

theorem loadOp_listed {i : Instr} {len : Word} {d a : BitVec 5} {m : BitVec 13} {w : Nat} {s : State}
    (h : exec i s = loadOp len w (fun l v => setX l d (signLoad w v)) a m s) :
    (∃ m' : BitVec 13, m'.toInt = m.toInt ∧ exec i s = loadOp len w (fun l v => setX l d (signLoad w v)) a m' s) ∧ Reads s [a] (exec i s) :=
  ⟨⟨m, rfl, h⟩, h ▸ reads_loadOp ..⟩

theorem execLd_eq (d a : BitVec 5) (imm : BitVec 13) (sz : Size) (s : State) : execLd d a imm sz s =
    loadOp 4 (match sz with | .b => 1 | .h => 2 | .w => 4 | .d => 8)
      (fun l v => setX l d (signLoad (match sz with | .b => 1 | .h => 2 | .w => 4 | .d => 8) v)) a imm s := by
  unfold execLd sizeBytes
  rfl

theorem exec_rows (s : State) (i : Instr) : AluRows s i := by
  induction i with
  | sub | subC => exact aluOp_listed (aluOp_congr sub_eq_ofInt ..)
  | sll => exact aluOp_listed (aluOp_congr (fun x y => shiftLeft_eq_ofNat x (shamt y)) ..)
  | srl => exact aluOp_listed (aluOp_congr (fun x y => ushiftRight_eq_ofNat x (shamt y)) ..)
  | sra => exact aluOp_listed (aluOp_congr (fun x y => sshiftRight_eq_ofInt x (shamt y)) ..)
  | slt => exact aluOp_listed (aluOp_congr oneIf_slt ..)
  | sltu => exact aluOp_listed (aluOp_congr oneIf_ult ..)
  | seq => exact aluOp_listed (aluOp_congr oneIf_beq ..)
  | min => exact aluOp_listed (aluOp_congr smin_eq_ofInt ..)
  | max => exact aluOp_listed (aluOp_congr smax_eq_ofInt ..)
  | minu => exact aluOp_listed (aluOp_congr umin_eq_ofNat ..)
  | maxu => exact aluOp_listed (aluOp_congr umax_eq_ofNat ..)
  | mul => exact aluOp_listed (aluOp_congr mul_eq_ofInt ..)
  | addsl d a b n => exact aluOp_listed (aluOp_congr (fun x y => add_shiftLeft_eq_ofNat x y n.toNat) ..)
  | add | addC | addCX0 | and | andC | or | orC | xor | xorC | andn | orn | xnor | rol | ror | mulh | mulhu => exact aluOp_listed rfl
  | div => exact aluOp_listed (aluOp_congr divS_eq ..)
  | rem => exact aluOp_listed (aluOp_congr remS_eq ..)
  | divu | remu => exact aluOp_listed rfl
  | clz => exact unOp_listed (unOp_congr clzW_eq ..)
  | popc => exact unOp_listed (unOp_congr popcW_eq ..)
  | zextW => exact unOp_listed (unOp_congr zextW_eq ..)
  | brev => exact unOp_listed (unOp_congr reverse_eq ..)
  | abs => exact unOp_listed (unOp_congr absW_eq ..)
  | addi d a imm => exact unOp_listed (unOp_congr (fun x => add_sext_eq_ofInt x imm) ..)
  | addiC d imm => exact unOp_listed (unOp_congr (fun x => add_sext_eq_ofInt x imm) ..)
  | addiCX0 d imm => exact unOp_listed ((exec_addiCX0 ..).trans (unOp_congr (fun x => add_sext_eq_ofInt x imm) ..))
  | slti d a imm => exact unOp_listed (unOp_congr (fun x => oneIf_slt_sext x imm) ..)
  | sltiu d a imm => exact unOp_listed (unOp_congr (fun x => oneIf_ult x (sext imm)) ..)
  | slli d a n => exact unOp_listed (unOp_congr (fun x => shiftLeft_eq_ofNat x n.toNat) ..)
  | slliC d n => exact unOp_listed (unOp_congr (fun x => shiftLeft_eq_ofNat x n.toNat) ..)
  | srli d a n => exact unOp_listed (unOp_congr (fun x => ushiftRight_eq_ofNat x n.toNat) ..)
  | srliC d n => exact unOp_listed (unOp_congr (fun x => ushiftRight_eq_ofNat x n.toNat) ..)
  | srai d a n => exact unOp_listed (unOp_congr (fun x => sshiftRight_eq_ofInt x n.toNat) ..)
  | sraiC d n => exact unOp_listed (unOp_congr (fun x => sshiftRight_eq_ofInt x n.toNat) ..)
  | ctz | sextB | sextH | sextW | andi | ori | xori | roli | rori => exact unOp_listed rfl
  | bEq => exact ⟨⟨condEq, rfl, fun x y => beq_iff_eq⟩, reads_if fun h => reads_leader_two h ..⟩
  | bNe => exact ⟨⟨condNe, rfl, fun x y => bne_iff_ne⟩, reads_if fun h => reads_leader_two h ..⟩
  | bLt => exact ⟨⟨condLt, rfl, fun x y => BitVec.slt_iff_toInt_lt⟩, reads_if fun h => reads_leader_two h ..⟩
  | bGe => exact ⟨⟨condGe, rfl, condGe_iff⟩, reads_if fun h => reads_leader_two h ..⟩
  | bLtu => exact ⟨⟨condLtu, rfl, fun x y => BitVec.ult_iff_toNat_lt⟩, reads_if fun h => reads_leader_two h ..⟩
  | bGeu => exact ⟨⟨condGeu, rfl, condGeu_iff⟩, reads_if fun h => reads_leader_two h ..⟩
  | fadd | fsub | fmul | fdiv | fsqrt | fmadd | fmsub | fnmadd | fnmsub | fcvt | faddSC | fmulSC => exact ⟨fun _ => putRounded_result .., trivial⟩
  | fcvtFromI d a => exact ⟨fun ready => fcvtFromI_result (ready a (List.mem_singleton.2 rfl)), reads_fcvtFromI ..⟩
  | fmin d a b ty => exact ⟨fun _ => fmin2_eq (ftypeFmt ty) _ _ ▸ putF_result .., trivial⟩
  | fmax d a b ty => exact ⟨fun _ => fmax2_eq (ftypeFmt ty) _ _ ▸ putF_result .., trivial⟩
  | fsgnj | fsgnjn | fsgnjx => exact ⟨fun _ => putF_result .., trivial⟩
  | feq d a b ty => exact ⟨fun _ => oneIf_feq2 (ftypeFmt ty) _ _ ▸ done_setX .., trivial⟩
  | flt d a b ty => exact ⟨fun _ => oneIf_flt2 (ftypeFmt ty) _ _ ▸ done_setX .., trivial⟩
  | fle | fmvX => exact ⟨fun _ => done_setX .., trivial⟩
  | fclass d a ty => exact ⟨fun _ => one_shiftLeft _ ▸ done_setX .., trivial⟩
  | fcvtI => exact ⟨fun _ => done_setX_draws .., trivial⟩
  | fmvF d a => exact ⟨fun ready => fmvF_result (ready a (List.mem_singleton.2 rfl)), reads_fmvF ..⟩
  | ld => exact loadOp_listed ((exec_ld ..).trans (execLd_eq ..))
  | ldDC => exact loadOp_listed (exec_ldDC ..)
  | ldWC => exact loadOp_listed (exec_ldWC ..)
  | trap | brk | illegalInstruction => exact ⟨congrArg (trap _ · s) (setWidth_eq_ofNat _), trivial⟩
  | fetchFault => exact ⟨rfl, trivial⟩
  | st | stDC | stWC | stG | stRel | rel | cp | cpMc | cpDec | chinit | subscr | xputx => exact reads_two ..
  | fld =>
    show Reads s _ (exec _ s)
    delta exec
    exact reads_loadOp ..
  | fst =>
    show Reads s _ (exec _ s)
    delta exec
    exact reads_storeOp ..
  | ldG | ldAcq =>
    show Reads s _ (exec _ s)
    delta exec
    exact reads_globalLoad ..
  | fgetx | fputx | xgetx =>
    show Reads s _ (exec _ s)
    delta exec
    exact reads_withIndex ..
  | vdup | mfromx | vld | vst | vgather | vscatter | probe | sev | send | mcfg | cpcfg | srel =>
    show Reads s _ (exec _ s)
    delta exec
    exact reads_one ..
  | csel => exact reads_csel ..
  | atomAdd | atomAnd | atomOr | atomXor | atomMin | atomMax | atomMinu | atomMaxu | atomSwap => exact reads_atomOp ..
  | atomFaddS _ a b | atomFminS _ a b | atomFmaxS _ a b => exact reads_atomOp _ _ _ a b _ .w _ _
  | atomCas => exact reads_cas ..
  | puts a => exact reads_unless fun h => reads_puts h a
  | vins => exact reads_if fun h => reads_leader_two h ..
  | jr | jrC => exact reads_if fun h => reads_jrOp h ..
  | callr | loop | vslup | vsldn | vext =>
    refine reads_if fun h => ?_
    delta exec
    exact reads_leader h ..
  | mmaLo | mmaHi => exact reads_withRoom (reads_two ..)
  | mld | mst => exact reads_withRoom (reads_one ..)
  | _ => exact True.intro

/-! ### Integer instructions (04 R71 to R78) -/

/-- Settles O1: each row is one shared form, whose sources are at hand. -/
theorem integerTwoSources : Obligations.IntegerTwoSources := by
  intro i len d a b f s row ha hb
  rw [(exec_rows s i).holds row]
  exact aluOp_result len f d ha hb

/-- Settles O2: division is one of the two-source forms, and the overflow is no case of its own. -/
theorem division : Obligations.Division := by
  intro i d a b f s row ha hb
  rw [(exec_rows s i).rest.holds row]
  exact aluOp_result 4 f d ha hb

/-- Settles O3: each row is the shared form of one source; csel reads three, and the constants none. -/
theorem integerOneSource : Obligations.IntegerOneSource := by
  refine ⟨fun i len d a f s row ha => ?_, fun d a b c s => csel_result d, lih_result, lia_result⟩
  rw [(exec_rows s i).rest.rest.holds row]
  exact unOp_result len f d ha

/-! ### Branches (04 R79) -/

theorem branchRows (s : State) (i : Instr) : BranchRows s i := (exec_rows s i).rest.rest.rest

/-- Settles O4: the six branches differ in their condition alone. -/
theorem branches : Obligations.Branches := by
  intro i a b off c s row ha hb
  obtain ⟨cond, runs, iff⟩ := (branchRows s i).holds row
  obtain ⟨t, next, control, taken, behind⟩ := branchOp_goes (cond := cond) (off := off) ha hb
  refine ⟨t, runs.trans next, control, fun holds => taken ((iff _ _).2 holds), fun fails => behind ?_⟩
  rwa [← Bool.not_eq_true, iff]

/-! ### Floating instructions (04 R95 to R103) -/

/-- Settles O11. -/
theorem floatRounding : Obligations.FloatRounding := fun i s _ row => (branchRows s i).rest.holds row

theorem fxRow_holds : floatWithoutRoundingClause := fun i s _ row => (branchRows s i).rest.rest.holds row

theorem loadRows (s : State) (i : Instr) : LoadRows s i := (branchRows s i).rest.rest.rest

/-! ### Traps (04 R107, R110; 10 R209) -/

theorem trapInstructions : trapInstructionsClause := by
  intro i c v s row
  have traps := (loadRows s i).rest.holds (r := (c, v)) row
  exact traps

theorem poisonTraps : poisonTrapsClause := by
  intro i s rs row
  have reads := (loadRows s i).rest.rest
  unfold SourceRows at reads
  rw [row] at reads
  obtain ⟨waits, marks⟩ := reads
  exact ⟨waits, marks⟩

/-- Settles O22: the traps by nature are their instructions' whole effect; each instruction reads its registers in the order stated. -/
theorem trapsTaken : Obligations.TrapsTaken := ⟨trapInstructions, poisonTraps⟩

/-! ### Local loads and stores (04 R90 to R94) -/

theorem exec_fld_width (d a : BitVec 5) (imm : BitVec 13) {sz : FSize} {w : Nat} (s : State) (width : w = match sz with | .h => 2 | .s => 4 | .d => 8) :
    exec (.fld d a imm sz) s = loadOp 4 w (fun l v => setF l d (BitVec.ofNat 64 v)) a imm s := by
  subst width
  rw [exec_fld]
  unfold execFld fsizeBytes
  rfl

/-- A store reads its base and its register before the access. -/
theorem storeOp_of_ready {len : Word} {w : Nat} {d a : BitVec 5} {imm : BitVec 13} {s : State} (hd : XReady s d) (ha : XReady s a) :
    withReady [d, a] s (withX d s fun v => storeOp len w v.toNat a imm s) = storeOp len w (xval s.slot d).toNat a imm s := by
  rw [withReady_ready s _ _ (by simp [hd, ha]), withX_ready s d _ hd]

theorem exec_storeForm {i : Instr} {s : State} {len : Word} {a : BitVec 5} {imm : Int} {w : Nat} {v : Word} (form : StoreForm i s len a imm w v)
    (ready : XReady s a) : ∃ m : BitVec 13, m.toInt = imm ∧ exec i s = storeOp len w v.toNat a m s := by
  rcases form with ⟨d, m, sz, form, length, offset, width, hd, value⟩ | ⟨d, m, sz, form, length, offset, width, value⟩ |
    ⟨d, form, length, offset, width, hd, value⟩ | ⟨d, form, length, offset, width, hd, value⟩
  · refine ⟨m, offset.symm, ?_⟩
    rw [form, length, width, value, exec_st]
    unfold execSt sizeBytes
    exact storeOp_of_ready hd ready
  · refine ⟨m, offset.symm, ?_⟩
    rw [form, length, width, value, exec_fst]
    unfold execFst fsizeBytes
    rfl
  · refine ⟨0, offset.symm, ?_⟩
    rw [form, length, width, value]
    exact storeOp_of_ready hd ready
  · refine ⟨0, offset.symm, ?_⟩
    rw [form, length, width, value]
    exact storeOp_of_ready hd ready

theorem localLoads : localLoadsClause := by
  refine ⟨fun i len d a imm w s row ready => ?_, fun d a imm sz w s width ready => ?_⟩
  · obtain ⟨m, rfl, runs⟩ := (loadRows s i).holds row
    rw [runs]
    exact loadOp_loads ready fun bs => done_setX s len d _
  · rw [exec_fld_width d a imm s width]
    exact loadOp_loads ready fun bs => done_setF s 4 d _ .rne 1

theorem localStores : localStoresClause := by
  intro i len a imm w off v s form ready ok
  obtain ⟨m, rfl, runs⟩ := exec_storeForm form ready
  rw [runs]
  exact storeOp_stores ready ok

theorem localRights : localRightsClause := by
  refine ⟨fun i len d a imm w s row ready first missing => ?_, fun d a imm sz w s width ready first missing => ?_,
    fun i len a imm w v s form ready free missing => ?_⟩
  · obtain ⟨m, rfl, runs⟩ := (loadRows s i).holds row
    rw [runs]
    exact loadOp_rights ready first missing
  · rw [exec_fld_width d a imm s width]
    exact loadOp_rights ready first missing
  · obtain ⟨m, rfl, runs⟩ := exec_storeForm form ready
    rw [runs]
    exact storeOp_rights ready free missing

theorem localChecks : localChecksClause := by
  refine ⟨fun i len d a imm w s row ready whole => ?_, fun d a imm sz w s width ready whole => ?_, fun i len a imm w v s form ready => ?_⟩
  · obtain ⟨m, rfl, runs⟩ := (loadRows s i).holds row
    rw [runs]
    exact loadOp_checks ready whole
  · rw [exec_fld_width d a imm s width]
    exact loadOp_checks ready whole
  · obtain ⟨m, rfl, runs⟩ := exec_storeForm form ready
    rw [runs]
    exact storeOp_checks ready

/-- Settles O10: a load and a store of each width are one form each. -/
theorem localMemory : Obligations.LocalMemory := ⟨localLoads, localStores, localRights, localChecks⟩

end Sys2Proof.RowLaws
end

section
/-! PROOFS. The window stack: calls and returns (01 R15, R16; 04 R83, R85; 20 R317). -/

namespace Sys2Proof.WindowLaws

open Sys2Proof.Machine Sys2Proof.Safety Sys2Proof.Laws

/-! ### A window that moves -/

/-- The slot with another window: x registers with their marks, data on its way and old values, and window base, call records and columns. -/
noncomputable def windowSet (l : Slot) (x : SMap Word) (marks : SMap Word) (coming : List Pending) (old : SMap (Word × Option Word)) (w : Nat)
    (calls : List CallRec) (spill : List (Nat × Nat)) : Slot :=
  { l with x := x, xPoison := marks, pending := coming, region := { l.region with saved := { l.region.saved with x := old } }
           wbase := w, calls := calls, spill := spill }

/-- The slots differ at most in the window and what it holds. -/
def WindowMoved (l l' : Slot) : Prop :=
  l' = windowSet l l'.x l'.xPoison l'.pending l'.region.saved.x l'.wbase l'.calls l'.spill

theorem WindowMoved.trans {l m n : Slot} (h : WindowMoved l m) (g : WindowMoved m n) : WindowMoved l n := by
  unfold WindowMoved at h g
  rw [g, h]
  rfl

/-- The loops, the pc and the retired count are as before, so that the retirement is that of the instruction. -/
theorem WindowMoved.goes {s : State} {l : Slot} (h : WindowMoved s.slot l) (n : Word) (jump : Bool) :
    GoesTo s (retireTo n jump (onSlot s fun _ => l)) n jump := by
  rw [h]
  exact ⟨rfl, rfl⟩

theorem WindowMoved.windowOnly {s : State} {l : Slot} (h : WindowMoved s.slot l) (n : Word) (jump : Bool) :
    WindowOnly s (retireTo n jump (onSlot s fun _ => l)) := by
  rw [h]
  rfl

/-! ### Locations that become 0 -/

theorem saveX_moved (l : Slot) (k : Nat) : WindowMoved l (saveX l k) := by
  unfold saveX
  split
  · split <;> exact rfl
  · exact rfl

theorem putX_moved (l : Slot) (k : Nat) (v : Word) (mark : Option Word) : WindowMoved l (putX l k v mark) := (saveX_moved l k).trans rfl

/-- The checkpoint takes an old value and leaves the registers and the frames. -/
theorem saveX_keeps (l : Slot) (k : Nat) : (saveX l k).x = l.x ∧ (saveX l k).xPoison = l.xPoison ∧ (saveX l k).wbase = l.wbase ∧
    (saveX l k).calls = l.calls := by
  rw [saveX_eq]
  exact ⟨rfl, rfl, rfl, rfl⟩

theorem zeroLocs_moved (l : Slot) (loc n : Nat) : WindowMoved l (zeroLocs l loc n) := by
  induction n generalizing l loc with
  | zero => rfl
  | succ n ih => exact (putX_moved ..).trans (ih ..)

theorem zeroLocs_frames (l : Slot) (loc n : Nat) : (zeroLocs l loc n).wbase = l.wbase ∧ (zeroLocs l loc n).calls = l.calls := by
  induction n generalizing l loc with
  | zero => exact ⟨rfl, rfl⟩
  | succ n ih =>
    obtain ⟨-, -, w, c⟩ := saveX_keeps l (loc + 8)
    obtain ⟨w', c'⟩ := ih (putX l (loc + 8) 0 none) (loc + 1)
    exact ⟨w'.trans w, c'.trans c⟩

/-- A location that is written with 0, and another one. -/
theorem putX_zero_same (l : Slot) (k : Nat) : sget 0 (putX l k 0 none).x k = 0 ∧ sfind (putX l k 0 none).xPoison k = none := by
  exact ⟨sget_sset_same 0 (saveX l k).x k 0, sfind_serase_same (saveX l k).xPoison k⟩

theorem putX_zero_other (l : Slot) {k j : Nat} (h : j ≠ k) :
    sget 0 (putX l k 0 none).x j = sget 0 l.x j ∧ sfind (putX l k 0 none).xPoison j = sfind l.xPoison j := by
  obtain ⟨x, marks, -, -⟩ := saveX_keeps l k
  exact ⟨(sget_sset_other 0 (saveX l k).x 0 h).trans (congrArg (sget 0 · j) x),
    (sfind_serase_other (saveX l k).xPoison h).trans (congrArg (sfind · j) marks)⟩

/-- Every other location keeps value and mark. -/
theorem zeroLocs_other (l : Slot) (loc n : Nat) {j : Nat} (h : j < loc + 8 ∨ loc + 8 + n ≤ j) :
    sget 0 (zeroLocs l loc n).x j = sget 0 l.x j ∧ sfind (zeroLocs l loc n).xPoison j = sfind l.xPoison j := by
  induction n generalizing l loc with
  | zero => exact ⟨rfl, rfl⟩
  | succ n ih =>
    obtain ⟨x, p⟩ := ih (putX l (loc + 8) 0 none) (loc + 1) (by omega)
    obtain ⟨x', p'⟩ := putX_zero_other l (k := loc + 8) (j := j) (by omega)
    exact ⟨x.trans x', p.trans p'⟩

theorem zeroLocs_zero (l : Slot) (loc n : Nat) {j : Nat} (h : loc + 8 ≤ j ∧ j < loc + 8 + n) :
    sget 0 (zeroLocs l loc n).x j = 0 ∧ sfind (zeroLocs l loc n).xPoison j = none := by
  induction n generalizing l loc with
  | zero => omega
  | succ n ih =>
    rcases Nat.eq_or_lt_of_le h.1 with first | later
    · obtain ⟨x, p⟩ := zeroLocs_other (putX l (loc + 8) 0 none) (loc + 1) n (j := j) (.inl (by omega))
      subst first
      obtain ⟨x', p'⟩ := putX_zero_same l (loc + 8)
      exact ⟨x.trans x', p.trans p'⟩
    · exact ih (putX l (loc + 8) 0 none) (loc + 1) (by omega)

/-! ### Calls (04 R83) -/

theorem callTo_refused {k : BitVec 5} {s : State}
    (h : 65511 < s.slot.wbase + k.toNat ∨ spillRoom s.slot (s.slot.wbase + k.toNat) (s.slot.calls.length + 1) = none) (target : Word) :
    callTo k target s = trap .window 0 s := by
  unfold callTo
  dsimp only
  split
  · rfl
  · next within => rw [h.resolve_left within]

/-- The slot of a callee: the window has slid by `k`, and the `k` registers that it uncovers are 0. -/
noncomputable def entered (k : Nat) (spill : List (Nat × Nat)) (l : Slot) : Slot :=
  zeroLocs { l with calls := ⟨l.pc + 4, k⟩ :: l.calls, wbase := l.wbase + k, spill := spill } (l.wbase + 24) k

theorem callTo_room {k : BitVec 5} {s : State} {spill : List (Nat × Nat)} (within : s.slot.wbase + k.toNat ≤ 65511)
    (room : spillRoom s.slot (s.slot.wbase + k.toNat) (s.slot.calls.length + 1) = some spill) (target : Word) :
    callTo k target s = .next (retireTo target false (onSlot s (entered k.toNat spill))) := by
  have first : s.slot.wbase + k.toNat + 24 - k.toNat = s.slot.wbase + 24 := by rw [Nat.add_right_comm, Nat.add_sub_cancel]
  unfold callTo
  dsimp only
  rw [if_neg (not_lt.2 within), room, first]
  rfl

theorem entered_moved (k : Nat) (spill : List (Nat × Nat)) (l : Slot) : WindowMoved l (entered k spill l) :=
  WindowMoved.trans (m := { l with calls := _, wbase := _, spill := _ }) rfl (zeroLocs_moved ..)

/-- Where the frame of the callee lies, and its call record. -/
theorem entered_frames (k : Nat) (spill : List (Nat × Nat)) (l : Slot) :
    (entered k spill l).wbase = l.wbase + k ∧ (entered k spill l).calls = ⟨l.pc + 4, k⟩ :: l.calls :=
  zeroLocs_frames ..

theorem entered_below {k : Nat} {spill : List (Nat × Nat)} {l : Slot} {j : Nat} (h : j < l.wbase + 32) :
    sget 0 (entered k spill l).x j = sget 0 l.x j ∧ sfind (entered k spill l).xPoison j = sfind l.xPoison j :=
  zeroLocs_other _ _ _ (.inl h)

theorem entered_above {k : Nat} {spill : List (Nat × Nat)} {l : Slot} {j : Nat} (h : l.wbase + 32 ≤ j ∧ j < l.wbase + 32 + k) :
    sget 0 (entered k spill l).x j = 0 ∧ sfind (entered k spill l).xPoison j = none :=
  zeroLocs_zero _ _ _ h

/-- Where a windowed register is kept. -/
theorem xKey_windowed (l : Slot) {n : BitVec 5} (h : 8 ≤ n.toNat) : xKey l n = n.toNat + l.wbase := if_neg (not_lt.2 h)

theorem xval_windowed (l : Slot) {n : BitVec 5} (h : 8 ≤ n.toNat) : xval l n = sget 0 l.x (n.toNat + l.wbase) := by
  have some : n ≠ 0 := by rintro rfl; exact absurd h (by decide)
  unfold xval; rw [if_neg some, xKey_windowed l h]

/-- Both calls are Call with their target. -/
theorem exec_of_isCall {i : Instr} {k : BitVec 5} {target : Word} {s : State} (h : IsCall i k target s) : exec i s = callTo k target s := by
  obtain ⟨off, rfl, rfl⟩ | ⟨a, rfl, ready, rfl⟩ := h
  · rw [← ControlLaws.two_mul_sext]
    rfl
  · rw [← ControlLaws.evenAddr_eq]
    exact withLeaderX_ready s a (fun x => callTo k (evenAddr x) s) ready

/-- The callee's registers are the caller's `k` higher ones. -/
theorem entered_xval {k : Nat} {spill : List (Nat × Nat)} {l : Slot} {n m : BitVec 5} (windowed : 8 ≤ n.toNat) (shift : n.toNat + k = m.toNat) :
    xval (entered k spill l) n = xval l m := by
  have within : n.toNat + (l.wbase + k) < l.wbase + 32 := by
    rw [Nat.add_left_comm, shift]
    exact Nat.add_lt_add_left m.isLt _
  rw [xval_windowed _ windowed, xval_windowed _ (shift ▸ Nat.le_add_right_of_le windowed), (entered_frames ..).1, (entered_below within).1,
    ← shift, Nat.add_assoc, Nat.add_comm k]

theorem entered_xval_uncovered {k : Nat} {spill : List (Nat × Nat)} {l : Slot} {n : BitVec 5} (windowed : 8 ≤ n.toNat)
    (uncovered : 32 ≤ n.toNat + k) :
    xval (entered k spill l) n = 0 ∧ sfind (entered k spill l).xPoison (xKey (entered k spill l) n) = none := by
  rw [xval_windowed _ windowed, xKey_windowed _ windowed, (entered_frames ..).1, Nat.add_left_comm]
  exact entered_above ⟨Nat.add_le_add_left uncovered _, by rw [Nat.add_assoc]; exact Nat.add_lt_add_left (Nat.add_lt_add_right n.isLt _) _⟩

/-- Settles O7: without room the call traps; with room the callee's slot is entered. -/
theorem calls : Obligations.Calls := by
  intro i k target s call _
  rw [exec_of_isCall call]
  refine ⟨fun refused => callTo_refused refused target, fun within room => ?_⟩
  obtain ⟨spill, room⟩ := Option.isSome_iff_exists.1 room
  have moved := entered_moved k.toNat spill s.slot
  obtain ⟨slides, records⟩ := entered_frames k.toNat spill s.slot
  exact ⟨_, callTo_room within room target, moved.goes .., moved.windowOnly .., slides, records, fun n m => entered_xval,
    fun n => entered_xval_uncovered, fun j => entered_below⟩

/-! ### Returns (04 R85; 20 R317) -/

/-- A map read with a default. -/
theorem sget_eq_getD_sfind {α : Type} (d : α) (m : SMap α) (k : Nat) : sget d m k = (sfind m k).getD d := by
  induction m with
  | nil => rfl
  | cons p m ih =>
    simp only [sget, sfind]
    split
    · rfl
    · exact ih

/-- Of a map without the keys from `top` on, the keys below it are read as before. -/
theorem sfind_filter_lt {α : Type} (m : SMap α) (top k : Nat) :
    sfind (m.filter fun p => p.1 < top) k = if k < top then sfind m k else none := by
  induction m with
  | nil => exact (ite_self none).symm
  | cons p m ih =>
    by_cases kept : p.1 < top
    · rw [List.filter_cons_of_pos (by simpa using kept)]
      simp only [sfind, ih]
      split
      · next same => rw [if_pos (same ▸ kept)]
      · rfl
    · rw [List.filter_cons_of_neg (by simpa using kept), ih]
      split
      · next below => exact (if_neg fun same : k = p.1 => kept (same ▸ below)).symm
      · rfl

theorem sget_filter_lt {α : Type} (d : α) (m : SMap α) (top k : Nat) :
    sget d (m.filter fun p => p.1 < top) k = if k < top then sget d m k else d := by
  rw [sget_eq_getD_sfind, sget_eq_getD_sfind, sfind_filter_lt]
  split <;> rfl

theorem popFrame_moved (c : CallRec) (rest : List CallRec) (l : Slot) : WindowMoved l (popFrame c rest l) := rfl

/-- The locations of the frame that control returns to stay. -/
theorem popFrame_below {c : CallRec} {rest : List CallRec} {l : Slot} {j : Nat} (h : j < l.wbase - c.k + 32) :
    sget 0 (popFrame c rest l).x j = sget 0 l.x j ∧ sfind (popFrame c rest l).xPoison j = sfind l.xPoison j :=
  ⟨(sget_filter_lt ..).trans (if_pos h), (sfind_filter_lt ..).trans (if_pos h)⟩

theorem popFrame_above {c : CallRec} {rest : List CallRec} {l : Slot} {j : Nat} (h : l.wbase - c.k + 32 ≤ j) :
    sget 0 (popFrame c rest l).x j = 0 ∧ sfind (popFrame c rest l).xPoison j = none :=
  ⟨(sget_filter_lt ..).trans (if_neg (not_lt.2 h)), (sfind_filter_lt ..).trans (if_neg (not_lt.2 h))⟩

/-- With a call active, a return that is older than the region closes it and opens another behind itself. -/
theorem retOp_call {s : State} {c : CallRec} {rest : List CallRec} (active : s.slot.calls = c :: rest) :
    retOp s = if s.slot.calls.length ≤ s.slot.region.calls then
      closeThen s fun s => .next (reopen (retireTo c.ret false (onSlot s (popFrame c rest))))
    else .next (retireTo c.ret false (onSlot s (popFrame c rest))) := by
  unfold retOp
  split
  · next none => rw [active] at none; cases none
  · next found => cases active.symm.trans found; rfl

/-! ### What the close of a region and the next one leave -/

/-- The slot with its region closed. -/
noncomputable def closedAs (l : Slot) (r : Region) (no : Nat) (sh : SMap Channel) (coming : List Pending) : Slot :=
  { l with region := r, regionNo := no, shadow := sh, pending := coming, closing := true }

theorem closeRegion_closedAs (l : Slot) : ∃ sh coming, closeRegion l = closedAs l (closeRegion l).region (closeRegion l).regionNo sh coming :=
  ⟨_, _, closeRegion_eq l⟩

theorem closeRegion_mask (l : Slot) : (closeRegion l).region.mask = l.region.mask := by
  unfold closeRegion; split <;> rfl

theorem le_closeRegion_regionNo (l : Slot) : l.regionNo ≤ (closeRegion l).regionNo := by
  unfold closeRegion
  split
  · exact Nat.le_refl _
  · exact Nat.le_succ _

/-- The state after a return that closes the region. -/
noncomputable def acrossTo (c : CallRec) (rest : List CallRec) (s : State) (l : Slot) : State :=
  reopen (retireTo c.ret false (onSlot s fun _ => popFrame c rest l))

theorem acrossTo_reopened {c : CallRec} {rest : List CallRec} {s : State} {l : Slot} (mask : l.region.mask = s.slot.region.mask)
    (no : s.slot.regionNo ≤ l.regionNo) : Reopened s (acrossTo c rest s l) := by
  refine ⟨?_, Nat.lt_succ_of_le no, rfl, fun p hp => ?_⟩
  · rw [← mask]
    rfl
  · obtain ⟨q, -, rfl⟩ := List.mem_map.1 hp
    exact ⟨rfl, rfl⟩

theorem retOp_across {s : State} {c : CallRec} {rest : List CallRec} (active : s.slot.calls = c :: rest)
    (old : s.slot.calls.length ≤ s.slot.region.calls) (closes : CanClose s) : ∃ sh coming,
    retOp s = .next (acrossTo c rest s (closedAs s.slot (closeRegion s.slot).region (closeRegion s.slot).regionNo sh coming)) := by
  obtain ⟨sh, coming, shut⟩ := closeRegion_closedAs s.slot
  have closed_eq : closed s = onSlot s fun _ => closedAs s.slot (closeRegion s.slot).region (closeRegion s.slot).regionNo sh coming :=
    congrArg (fun l => onSlot s fun _ => l) shut
  rw [retOp_call active, if_pos old, closeThen_ready s _ closes, closed_eq]
  exact ⟨sh, coming, rfl⟩

/-- Settles O8: within its region a return only moves the window; across its start the region closes too. -/
theorem returns : Obligations.Returns := by
  intro i s ret
  have runs : exec i s = retOp s := by rcases ret with rfl | rfl <;> rfl
  refine ⟨fun none => ?_, fun c rest active room => ?_⟩
  · have ends : retOp s = trap .window 1 s := by unfold retOp; rw [none]
    exact runs.trans ends
  by_cases young : s.slot.region.calls < s.slot.calls.length
  · have next := (retOp_call active).trans (if_neg (not_le.2 young))
    have moved := popFrame_moved c rest s.slot
    exact ⟨_, runs.trans next, moved.goes .., rfl, rfl, fun j => popFrame_below (rest := rest), fun j => popFrame_above (rest := rest),
      fun _ => moved.windowOnly .., fun old => absurd young (not_lt.2 old)⟩
  · obtain ⟨sh, coming, next⟩ := retOp_across active (not_lt.1 young) (room.resolve_left young)
    exact ⟨_, runs.trans next, ⟨rfl, rfl⟩, rfl, rfl, fun j => popFrame_below (l := s.slot) (rest := rest),
      fun j => popFrame_above (l := s.slot) (rest := rest), fun c => absurd c young,
      fun _ => ⟨acrossTo_reopened (closeRegion_mask s.slot) (le_closeRegion_regionNo s.slot), rfl⟩⟩

end Sys2Proof.WindowLaws
end

section
/-! PROOFS. Quotients and roots are rounded once (01 R29, R30, R32; 04 R95). -/

namespace Sys2Proof.FloatLaws

open Sys2Proof.Machine

/-! ### What is decoded -/

/-- A decoded infinity or finite number has the sign bit of its encoding; a finite one has at most mbits + 1 bits. -/
theorem inf_of_fdecode {f : FFmt} {a : Nat} {n : Bool} (h : fdecode f a = .inf n) : n = signBit f a := by
  unfold fdecode at h
  dsimp only at h
  split_ifs at h
  exact (FVal.inf.inj h).symm

theorem fin_of_fdecode {f : FFmt} {a m : Nat} {n : Bool} {e : Int} (h : fdecode f a = .fin n m e) :
    n = signBit f a ∧ m < 2 * 2 ^ f.mbits := by
  have part : a % 2 ^ f.mbits < 2 ^ f.mbits := Nat.mod_lt _ (by positivity)
  unfold fdecode at h
  dsimp only at h
  split_ifs at h
  · obtain ⟨sign, rfl, -⟩ := FVal.fin.inj h
    exact ⟨sign.symm, by omega⟩
  · obtain ⟨sign, rfl, -⟩ := FVal.fin.inj h
    exact ⟨sign.symm, by omega⟩

theorem ratOf_eq_valQ (f : FFmt) (w : Nat) : ratOf f w = valQ (fdecode f w) := by
  unfold ratOf valQ
  cases fdecode f w <;> rfl

/-- An encoding with a number stands for it, with its sign bit. -/
theorem fin_of_ratOf {f : FFmt} {a : Nat} {p : ℚ} (h : ratOf f a = some p) : ∃ m e, fdecode f a = .fin (signBit f a) m e ∧
    m < 2 * 2 ^ f.mbits ∧ p = (if signBit f a then -1 else 1) * (m * (2 : ℚ) ^ e) := by
  obtain ⟨n, m, e, decoded, value⟩ := fin_of_valQ ((ratOf_eq_valQ f a).symm.trans h)
  obtain ⟨rfl, bound⟩ := fin_of_fdecode decoded
  exact ⟨m, e, decoded, bound, by rw [value, mul_assoc]⟩

theorem sign_mul_eq_zero {n : Bool} {m : Nat} {e : Int} : (if n then -1 else 1) * (m * (2 : ℚ) ^ e) = 0 ↔ m = 0 := by
  have power : (2 : ℚ) ^ e ≠ 0 := by positivity
  cases n <;> simp [power]

theorem abs_sign_mul (n : Bool) (m : Nat) (e : Int) : |(if n then -1 else 1) * (m * (2 : ℚ) ^ e)| = m * 2 ^ e := by
  have nonneg : (0 : ℚ) ≤ m * 2 ^ e := by positivity
  cases n
  · simp [abs_of_nonneg nonneg]
  · simp [abs_of_nonneg nonneg]

/-- The fraction bits of every format leave room for the extra bits of a quotient and of a root. -/
theorem mbits_le (ty : FType) : (ftypeFmt ty).mbits ≤ 52 := by cases ty <;> decide

/-! ### Quotients -/

theorem fdiv2_fin {f : FFmt} {a b ma mb : Nat} {na nb : Bool} {ea eb : Int} (ha : fdecode f a = .fin na ma ea) (hb : fdecode f b = .fin nb mb eb)
    (mode : Rnd) (draw : Nat) : fdiv2 f mode draw a b = if mb = 0 then (if ma = 0 then fnan f else fround f mode draw (.inf (na != nb)))
      else roundFin f mode draw (na != nb) (ma * 2 ^ 192 / mb) (ea - 192 - eb) (ma * 2 ^ 192 % mb != 0) := by
  unfold fdiv2
  rw [ha, hb]

/-- The quotient of the integer parts with what the division leaves. -/
theorem quotient_parts (ma : Nat) (ea : Int) {mb : Nat} (eb : Int) (pos : 0 < mb) :
    (ma : ℝ) * 2 ^ ea / (mb * 2 ^ eb) = ((ma * 2 ^ 192 / mb : Nat) + ((ma * 2 ^ 192 % mb : Nat) : ℝ) / mb) * 2 ^ (ea - 192 - eb) := by
  have whole : (mb : ℝ) * (ma * 2 ^ 192 / mb : Nat) + (ma * 2 ^ 192 % mb : Nat) = ma * 2 ^ 192 := by
    exact_mod_cast Nat.div_add_mod (ma * 2 ^ 192) mb
  have mb0 : (mb : ℝ) ≠ 0 := by positivity
  have sum : ((ma * 2 ^ 192 / mb : Nat) : ℝ) + ((ma * 2 ^ 192 % mb : Nat) : ℝ) / mb = ma * 2 ^ 192 / mb := by
    rw [← whole, add_div, mul_div_cancel_left₀ _ mb0]
  have exponent : 192 + eb + (ea - 192 - eb) = ea := by rw [sub_sub, add_sub_cancel]
  have split : (2 : ℝ) ^ ea = 2 ^ 192 * 2 ^ eb * 2 ^ (ea - 192 - eb) := by
    rw [← zpow_ofNat, ← zpow_add₀ two_ne_zero, ← zpow_add₀ two_ne_zero, exponent]
  rw [sum, split, mul_right_comm, ← mul_assoc, mul_div_mul_right _ _ (zpow_ne_zero eb two_ne_zero), div_mul_eq_mul_div, mul_assoc]

/-- The integer part of a quotient has more bits than any mode looks at. -/
theorem quotient_deep {k ma mb : Nat} (hk : k ≤ 52) (ha : ma ≠ 0) (hb : mb < 2 * 2 ^ k) (pos : 0 < mb) : 2 ^ (k + 16) ≤ ma * 2 ^ 192 / mb := by
  rw [Nat.le_div_iff_mul_le pos]
  calc 2 ^ (k + 16) * mb ≤ 2 ^ (k + 16) * 2 ^ (k + 1) := Nat.mul_le_mul_left _ (by rw [pow_succ, mul_comm]; exact hb.le)
    _ = 2 ^ (k + 16 + (k + 1)) := (pow_add ..).symm
    _ ≤ 2 ^ 192 := Nat.pow_le_pow_right two_pos (by omega)
    _ ≤ ma * 2 ^ 192 := Nat.le_mul_of_pos_left _ (Nat.pos_of_ne_zero ha)

/-- Of finite operands the quotient is the exact one rounded. -/
theorem fdiv2_roundsTo {ty : FType} (mode : Rnd) {draw a b : Nat} {p q : ℚ} (hd : draw < 2 ^ 16) (ha : ratOf (ftypeFmt ty) a = some p)
    (hb : ratOf (ftypeFmt ty) b = some q) (hq : q ≠ 0) : RoundsTo (ftypeFmt ty) mode draw (quotientSign (ftypeFmt ty) a b)
      ((|p| / |q| : ℚ) : ℝ) (fdiv2 (ftypeFmt ty) mode draw a b) := by
  have hf := hasBits_ftypeFmt ty
  obtain ⟨ma, ea, da, -, rfl⟩ := fin_of_ratOf ha
  obtain ⟨mb, eb, db, bound, rfl⟩ := fin_of_ratOf hb
  have mb0 : mb ≠ 0 := fun c => hq (sign_mul_eq_zero.2 c)
  have pos : 0 < mb := Nat.pos_of_ne_zero mb0
  rw [fdiv2_fin da db, if_neg mb0, abs_sign_mul, abs_sign_mul]
  push_cast
  rw [quotient_parts ma ea eb pos]
  by_cases ma0 : ma = 0
  · subst ma0
    rw [Nat.zero_mul, Nat.zero_div, Nat.cast_zero, Nat.zero_mod, Nat.cast_zero, zero_div, add_zero, zero_mul]
    exact roundsTo_zero hf mode _ hd
  have deep := quotient_deep (mbits_le ty) ma0 bound pos
  have posR : (0 : ℝ) < mb := by exact_mod_cast pos
  refine roundFin_roundsTo hf mode _ _ hd ?_ (by positivity) ?_ ?_ fun _ => deep
  · exact (lt_of_lt_of_le (by positivity) deep).ne'
  · rw [div_lt_one posR]
    exact_mod_cast Nat.mod_lt _ pos
  · simp [mb0]

/-! ### Roots -/

/-- Bit by bit from bit `k`, a root that is known to lie within 2^k of `r` is found. -/
theorem isqrt_steps (n k r : Nat) (low : r * r ≤ n) (high : n < (r + 2 ^ k) * (r + 2 ^ k)) :
    let t := (List.range k).foldr (fun i r => if (r + 2 ^ i) * (r + 2 ^ i) ≤ n then r + 2 ^ i else r) r
    t * t ≤ n ∧ n < (t + 1) * (t + 1) := by
  induction k generalizing r with
  | zero => exact ⟨low, high⟩
  | succ k ih =>
    rw [List.range_succ, List.foldr_append]
    by_cases fits : (r + 2 ^ k) * (r + 2 ^ k) ≤ n
    · have next := ih (r + 2 ^ k) fits (by rw [add_assoc, ← two_mul, ← pow_succ']; exact high)
      simpa [fits] using next
    · have next := ih r low (not_le.1 fits)
      simpa [fits] using next

theorem isqrt_bounds {n : Nat} (h : n < 2 ^ 160 * 2 ^ 160) : isqrt n * isqrt n ≤ n ∧ n < (isqrt n + 1) * (isqrt n + 1) :=
  isqrt_steps n 160 0 (Nat.zero_le n) (by rw [zero_add]; exact h)

theorem fsqrt1_fin {f : FFmt} {a m : Nat} {e : Int} (h : fdecode f a = .fin false m e) (hm : m ≠ 0) (mode : Rnd) (draw : Nat) :
    fsqrt1 f mode draw a = roundFin f mode draw false (isqrt (m * 2 ^ (192 + (e % 2).toNat))) ((e - (e % 2).toNat) / 2 - 96)
      (isqrt (m * 2 ^ (192 + (e % 2).toNat)) * isqrt (m * 2 ^ (192 + (e % 2).toNat)) != m * 2 ^ (192 + (e % 2).toNat)) := by
  unfold fsqrt1
  rw [h]
  simp [hm]

/-- An exponent with 192 and its lowest bit apart. -/
theorem exponent_even (e : Int) : e = ((192 + (e % 2).toNat : Nat) : Int) + 2 * ((e - (e % 2).toNat) / 2 - 96) := by
  have bit : ((e % 2).toNat : Int) = e % 2 := Int.toNat_of_nonneg (Int.emod_nonneg e two_ne_zero)
  have whole : e - e % 2 = 2 * (e / 2) := sub_eq_of_eq_add' (Int.emod_add_mul_ediv e 2).symm
  rw [Nat.cast_add, bit, whole, Int.mul_ediv_cancel_left _ two_ne_zero, mul_sub, ← whole]
  exact (by ring : e = 192 + e % 2 + (e - e % 2 - 2 * 96))

/-- The root of m 2^e from that of an integer with an even exponent. -/
theorem sqrt_parts (m : Nat) (e : Int) :
    √((m : ℝ) * 2 ^ e) = √((m * 2 ^ (192 + (e % 2).toNat) : Nat) : ℝ) * 2 ^ ((e - (e % 2).toNat) / 2 - 96) := by
  have even := exponent_even e
  have pos : (0 : ℝ) ≤ 2 ^ ((e - (e % 2).toNat) / 2 - 96) := by positivity
  have square : (m : ℝ) * 2 ^ e = ((m * 2 ^ (192 + (e % 2).toNat) : Nat) : ℝ) * (2 ^ ((e - (e % 2).toNat) / 2 - 96)) ^ 2 := by
    conv_lhs => rw [even]
    rw [zpow_add₀ two_ne_zero, zpow_natCast, mul_comm (2 : Int), zpow_mul]
    push_cast
    rw [mul_assoc]
    norm_cast
  rw [square, Real.sqrt_mul (Nat.cast_nonneg _), Real.sqrt_sq pos]

/-- The root of an integer as its integer part and a part below one. -/
theorem sqrt_between {n r : Nat} (low : r * r ≤ n) (high : n < (r + 1) * (r + 1)) : (r : ℝ) ≤ √n ∧ √(n : ℝ) < r + 1 := by
  refine ⟨Real.le_sqrt_of_sq_le ?_, (Real.sqrt_lt' (by positivity)).2 ?_⟩
  · rw [sq]; exact_mod_cast low
  · rw [sq]; exact_mod_cast high

/-- The root of a number that is not negative is the exact root rounded. -/
theorem fsqrt1_roundsTo {ty : FType} (mode : Rnd) {draw a : Nat} {p : ℚ} (hd : draw < 2 ^ 16) (ha : ratOf (ftypeFmt ty) a = some p)
    (sign : signBit (ftypeFmt ty) a = false) : RoundsTo (ftypeFmt ty) mode draw false (√(p : ℝ)) (fsqrt1 (ftypeFmt ty) mode draw a) := by
  have hf := hasBits_ftypeFmt ty
  obtain ⟨m, e, decoded, bound, rfl⟩ := fin_of_ratOf ha
  rw [sign] at decoded
  simp only [sign, if_neg Bool.false_ne_true, one_mul]
  by_cases m0 : m = 0
  · subst m0
    have zero : fsqrt1 (ftypeFmt ty) mode draw a = 0 := by unfold fsqrt1; rw [decoded]; rfl
    rw [zero]
    simpa using roundsTo_zero hf mode false hd
  push_cast
  rw [fsqrt1_fin decoded m0, sqrt_parts]
  have odd : (e % 2).toNat ≤ 1 := by omega
  have width := mbits_le ty
  generalize hn : m * 2 ^ (192 + (e % 2).toNat) = n
  generalize (e - ((e % 2).toNat : Int)) / 2 - 96 = k
  have least : 2 ^ 192 ≤ n := by
    rw [← hn]
    exact le_trans (Nat.pow_le_pow_right two_pos (Nat.le_add_right ..)) (Nat.le_mul_of_pos_left _ (Nat.pos_of_ne_zero m0))
  have most : n < 2 ^ 160 * 2 ^ 160 := by
    rw [← hn]
    calc m * 2 ^ (192 + (e % 2).toNat) < 2 * 2 ^ (ftypeFmt ty).mbits * 2 ^ (192 + (e % 2).toNat) := Nat.mul_lt_mul_of_pos_right bound (by positivity)
      _ = 2 ^ ((ftypeFmt ty).mbits + 1 + (192 + (e % 2).toNat)) := by rw [← pow_succ', ← pow_add]
      _ ≤ 2 ^ 160 * 2 ^ 160 := by rw [← pow_add]; exact Nat.pow_le_pow_right two_pos (by omega)
  obtain ⟨low, high⟩ := isqrt_bounds most
  generalize isqrt n = r at low high ⊢
  obtain ⟨below, above⟩ := sqrt_between low high
  have deep : 2 ^ 96 ≤ r := by
    by_contra c
    have : (r + 1) * (r + 1) ≤ 2 ^ 96 * 2 ^ 96 := Nat.mul_le_mul (by omega) (by omega)
    rw [← pow_add] at this
    omega
  have value : √(n : ℝ) = r + (√(n : ℝ) - r) := by ring
  rw [value]
  refine roundFin_roundsTo hf mode false k hd ?_ (by linarith) (by linarith) ?_ fun _ => ?_
  · exact (lt_of_lt_of_le (by positivity) deep).ne'
  · rw [bne_iff_ne, ne_eq, ne_eq, sub_eq_zero, not_iff_not, Real.sqrt_eq_iff_mul_self_eq (Nat.cast_nonneg _) (Nat.cast_nonneg _)]
    norm_cast
    exact eq_comm
  · exact le_trans (Nat.pow_le_pow_right two_pos (by omega)) deep

/-! ### The special values -/

theorem isNaN_iff {f : FFmt} {a : Nat} : isNaN f a = true ↔ fdecode f a = .nan := beq_iff_eq

theorem fdiv2_nan {f : FFmt} {a b : Nat} (h : isNaN f a = true ∨ isNaN f b = true) (mode : Rnd) (draw : Nat) :
    fdiv2 f mode draw a b = fnan f := by
  unfold fdiv2
  rcases h with h | h
  · rw [isNaN_iff.1 h]
  · rw [isNaN_iff.1 h]
    cases fdecode f a <;> rfl

theorem fdiv2_inf_inf {f : FFmt} {a b : Nat} {n m : Bool} (ha : fdecode f a = .inf n) (hb : fdecode f b = .inf m) (mode : Rnd) (draw : Nat) :
    fdiv2 f mode draw a b = fnan f := by
  unfold fdiv2
  rw [ha, hb]

theorem fdiv2_inf_fin {f : FFmt} {a b : Nat} {n : Bool} {q : ℚ} (ha : fdecode f a = .inf n) (hb : ratOf f b = some q) (mode : Rnd) (draw : Nat) :
    fdiv2 f mode draw a b = (if quotientSign f a b then fsign f else 0) + finf f := by
  obtain ⟨m, e, decoded, -, -⟩ := fin_of_ratOf hb
  unfold fdiv2
  rw [ha, decoded, inf_of_fdecode ha]
  rfl

theorem fdiv2_fin_inf {f : FFmt} {a b : Nat} {m : Bool} {p : ℚ} (ha : ratOf f a = some p) (hb : fdecode f b = .inf m) (mode : Rnd) (draw : Nat) :
    fdiv2 f mode draw a b = if quotientSign f a b then fsign f else 0 := by
  obtain ⟨k, e, decoded, -, -⟩ := fin_of_ratOf ha
  unfold fdiv2
  rw [decoded, hb, inf_of_fdecode hb]
  rfl

theorem fdiv2_zero {f : FFmt} {a b : Nat} {p : ℚ} (ha : ratOf f a = some p) (hb : ratOf f b = some 0) (mode : Rnd) (draw : Nat) :
    fdiv2 f mode draw a b = if p = 0 then fnan f else (if quotientSign f a b then fsign f else 0) + finf f := by
  obtain ⟨ma, ea, da, -, rfl⟩ := fin_of_ratOf ha
  obtain ⟨mb, eb, db, -, zero⟩ := fin_of_ratOf hb
  rw [fdiv2_fin da db, if_pos (sign_mul_eq_zero.1 zero.symm), if_congr sign_mul_eq_zero.symm rfl rfl]
  rfl

theorem fsqrt1_neg {f : FFmt} {a : Nat} {p : ℚ} (ha : ratOf f a = some p) (neg : p < 0) (mode : Rnd) (draw : Nat) :
    fsqrt1 f mode draw a = fnan f := by
  obtain ⟨m, e, decoded, -, value⟩ := fin_of_ratOf ha
  have m0 : m ≠ 0 := fun c => neg.ne (value.trans (sign_mul_eq_zero.2 c))
  have sign : signBit f a = true := by
    by_contra c
    rw [if_neg c, one_mul] at value
    exact absurd neg (not_lt.2 (value ▸ by positivity))
  unfold fsqrt1
  rw [decoded, sign]
  exact if_neg m0

theorem fsqrt1_neg_zero {f : FFmt} {a : Nat} (ha : ratOf f a = some 0) (sign : signBit f a = true) (mode : Rnd) (draw : Nat) :
    fsqrt1 f mode draw a = fsign f := by
  obtain ⟨m, e, decoded, -, value⟩ := fin_of_ratOf ha
  unfold fsqrt1
  rw [decoded, sign]
  exact if_pos (sign_mul_eq_zero.1 value.symm)

/-- Settles O13: the finite cases round the exact quotient and root, with the remainder as what lies below; each special case is one arm. -/
theorem quotientAndRoot : Obligations.QuotientAndRoot := by
  intro ty mode draw a b hd f
  refine ⟨fun p q ha hb hq => fdiv2_roundsTo mode hd ha hb hq, fun h => fdiv2_nan h mode draw, fun n m ha hb => fdiv2_inf_inf ha hb mode draw,
    fun q ha hb zero => ?_, fun p ha nonzero hb => ?_, fun n q ha hb => fdiv2_inf_fin ha hb mode draw, fun p m ha hb => fdiv2_fin_inf ha hb mode draw,
    fun p ha sign => fsqrt1_roundsTo mode hd ha sign, fun p ha neg => fsqrt1_neg ha neg mode draw, fun ha sign => fsqrt1_neg_zero ha sign mode draw,
    fun h => ?_, fun n h => ?_⟩
  · rw [fdiv2_zero ha (zero ▸ hb), if_pos rfl]
  · rw [fdiv2_zero ha hb, if_neg nonzero]
  · unfold fsqrt1
    rw [isNaN_iff.1 h]
  · unfold fsqrt1
    rw [h]

end Sys2Proof.FloatLaws
end

section
/-! PROOFS. What compares, classes, signs and integers of floating numbers are (04 R96 to R100). -/

namespace Sys2Proof.FloatLaws

open Sys2Proof.Machine

/-! ### Compares -/

/-- Finite numbers compare as the rational numbers that they stand for. -/
theorem fle2_iff {f : FFmt} {a b : Nat} {p q : ℚ} (ha : ratOf f a = some p) (hb : ratOf f b = some q) : fle2 f a b = true ↔ p ≤ q := by
  obtain ⟨na, ma, ea, da, rfl⟩ := fin_of_valQ ((ratOf_eq_valQ f a).symm.trans ha)
  obtain ⟨nb, mb, eb, db, rfl⟩ := fin_of_valQ ((ratOf_eq_valQ f b).symm.trans hb)
  have unit : (0 : ℚ) < 2 ^ min ea eb := by positivity
  unfold fle2
  rw [da, db, ← shifted_value na ma (min_le_left ea eb), ← shifted_value nb mb (min_le_right ea eb), mul_le_mul_iff_left₀ unit, Int.cast_le]
  exact decide_eq_true_iff

theorem fle2_nan {f : FFmt} {a b : Nat} (h : isNaN f a = true ∨ isNaN f b = true) : fle2 f a b = false := by
  unfold fle2
  rcases h with h | h
  · rw [isNaN_iff.1 h]
    rfl
  · rw [isNaN_iff.1 h]
    cases fdecode f a <;> rfl

theorem comparesAreNumeric : comparesAreNumericClause := by
  refine ⟨fun ty a b p q ha hb => ⟨fle2_iff ha hb, ?_, ?_⟩, fun ty a b h => ?_⟩
  · rw [flt2, Bool.and_eq_true, Bool.not_eq_true', ← Bool.not_eq_true, fle2_iff ha hb, fle2_iff hb ha]
    exact lt_iff_le_not_ge.symm
  · rw [feq2, Bool.and_eq_true, fle2_iff ha hb, fle2_iff hb ha]
    exact le_antisymm_iff.symm
  · rw [flt2, feq2, fle2_nan h]
    exact ⟨rfl, rfl, rfl⟩

/-! ### Classes -/

theorem fclassBit_inf {f : FFmt} {a : Nat} {n : Bool} (h : fdecode f a = .inf n) : fclassBit f a = if n then 0 else 7 := by
  have sign := inf_of_fdecode h
  unfold fdecode at h
  dsimp only at h
  unfold fclassBit
  split_ifs at h with top zero
  rw [if_pos top, if_pos zero, sign]

/-- The highest fraction bit of a NaN tells a quiet one. -/
theorem fclassBit_nan {f : FFmt} {a : Nat} (hf : HasBits f) (h : fdecode f a = .nan) :
    fclassBit f a = if a.testBit (f.mbits - 1) then 9 else 8 := by
  have quiet : a % 2 ^ f.mbits / 2 ^ (f.mbits - 1) = 1 ↔ a.testBit (f.mbits - 1) = true := by
    have split : 2 ^ f.mbits = 2 ^ (f.mbits - 1) * 2 := by rw [← pow_succ, Nat.sub_add_cancel hf.fraction]
    rw [split, Nat.mod_mul_right_div_self, Nat.testBit_eq_decide_div_mod_eq, decide_eq_true_iff]
  unfold fdecode at h
  dsimp only at h
  unfold fclassBit
  split_ifs at h with top zero
  rw [if_pos top, if_neg zero, if_congr quiet rfl rfl]

theorem fclassBit_fin {f : FFmt} {a m : Nat} {n : Bool} {e : Int} (h : fdecode f a = .fin n m e) : fclassBit f a =
    if m = 0 then (if n then 3 else 4) else if m < 2 ^ f.mbits then (if n then 2 else 5) else if n then 1 else 6 := by
  obtain ⟨sign, -⟩ := fin_of_fdecode h
  have part : a % 2 ^ f.mbits < 2 ^ f.mbits := Nat.mod_lt _ (Nat.two_pow_pos _)
  unfold fdecode at h
  dsimp only at h
  unfold fclassBit
  split_ifs at h with top _ zero
  · obtain ⟨-, rfl, -⟩ := FVal.fin.inj h
    rw [if_neg top, if_pos zero, if_pos part, sign]
  · obtain ⟨-, rfl, -⟩ := FVal.fin.inj h
    rw [if_neg top, if_neg zero, if_neg (Nat.add_pos_left (Nat.two_pow_pos _) _).ne', if_neg (Nat.not_lt.2 (Nat.le_add_right _ _)), sign]

/-! ### Signs -/

/-- A sign injection into a number keeps the magnitude and sets the sign. -/
theorem withSign_number {f : FFmt} {a : Nat} (n : Bool) (h : fdecode f a ≠ .nan) :
    withSign f a n % fsign f = a % fsign f ∧ signBit f (withSign f a n) = n ∧ withSign f a n < 2 ^ fwidth f := by
  have pos : 0 < fsign f := Nat.two_pow_pos _
  have low : a % fsign f < fsign f := Nat.mod_lt _ pos
  have whole : 2 ^ fwidth f = fsign f + fsign f := by rw [fwidth, fsign, add_assoc, pow_add, pow_one, two_mul]
  rw [withSign, if_neg (mt isNaN_iff.1 h), whole]
  unfold signBit
  generalize a % fsign f = r at low
  cases n
  · exact ⟨Nat.mod_eq_of_lt low, by rw [if_neg Bool.false_ne_true, add_zero, Nat.div_eq_of_lt low]; rfl, Nat.lt_add_right _ low⟩
  · refine ⟨by rw [if_pos rfl, Nat.add_mod_right, Nat.mod_eq_of_lt low], ?_, Nat.add_lt_add_right low _⟩
    rw [if_pos rfl, Nat.add_div_right _ pos, Nat.div_eq_of_lt low]
    rfl

/-! ### Integers -/

/-- The whole part and the rest of a magnitude say how it is rounded to an integer. -/
theorem roundsToNat_of_unit {mode : Rnd} {draw t r : Nat} {x : ℚ} {d : ℝ} (nonneg : 0 ≤ d) (below : d < 1) (place : (x : ℝ) = t + d)
    (h : RoundsUnit mode draw t d r) : RoundsToNat mode draw x r := by
  obtain ⟨δ, rfl⟩ : ∃ δ : ℚ, d = δ := ⟨x - t, by push_cast; rw [place, add_sub_cancel_left]⟩
  have value : x = t + δ := by exact_mod_cast place
  have whole : ⌊x⌋₊ = t := by
    rw [value, add_comm, Nat.floor_add_natCast (by exact_mod_cast nonneg), Nat.floor_eq_zero.2 (by exact_mod_cast below), zero_add]
  have rest : x - ⌊x⌋₊ = δ := by rw [whole, value, add_sub_cancel_left]
  unfold RoundsToNat
  rw [rest, whole]
  cases mode with
  | rtz => exact h
  | rto =>
    obtain ⟨same, odd⟩ := h
    change r = if x = t then t else t ||| 1
    rw [value, if_congr add_eq_left rfl rfl]
    split_ifs with zero
    · exact same (by exact_mod_cast zero)
    · exact odd (by exact_mod_cast zero)
  | rne =>
    obtain ⟨lower, upper, tie⟩ := h
    exact ⟨fun c => lower (by exact_mod_cast c), fun c => upper (by exact_mod_cast c), fun c => tie (by exact_mod_cast c)⟩
  | rsr =>
    obtain ⟨lower, upper⟩ := h
    have part : ⌊(δ : ℝ) * 2 ^ 16⌋₊ = ⌊2 ^ 16 * δ⌋₊ := by
      rw [mul_comm, ← Int.floor_toNat, ← Int.floor_toNat, ← Rat.floor_cast (α := ℝ)]
      push_cast
      rfl
    rw [part] at lower upper
    dsimp only
    split_ifs with up
    · exact upper up
    · exact lower (not_le.1 up)

theorem roundAt_whole (mode : Rnd) {draw : Nat} (m : Nat) (e : Int) (hd : draw < 2 ^ 16) :
    RoundsToNat mode draw (m * (2 : ℚ) ^ e) (roundAt mode draw m e 0 false) := by
  obtain ⟨sig, d, nonneg, below, place, rounded⟩ := roundAt_unit (q := 0) (sticky := false) mode m (e := e) hd le_rfl zero_lt_one
    ⟨fun c => absurd c Bool.false_ne_true, fun c => absurd rfl c⟩ (fun c => absurd rfl c)
  refine roundsToNat_of_unit nonneg below ?_ rounded
  rw [zpow_zero, mul_one, add_zero] at place
  rw [← place]
  push_cast
  rfl

theorem toInteger_fin {f : FFmt} {a m : Nat} {n : Bool} {e : Int} (h : fdecode f a = .fin n m e) (w : Nat) (mode : Rnd) {draw : Nat}
    (hd : draw < 2 ^ 16) : ∃ r, RoundsToNat mode draw (m * (2 : ℚ) ^ e) r ∧
      toInteger f w mode draw a = Max.max (-2 ^ (w - 1)) (Min.min (2 ^ (w - 1) - 1) (if n then -(r : Int) else r)) := by
  refine ⟨_, roundAt_whole mode m e hd, ?_⟩
  unfold toInteger
  rw [h]

theorem classSignInteger : classSignIntegerClause := by
  intro ty a f
  refine ⟨fun n h => fclassBit_inf h, fclassBit_nan (hasBits_ftypeFmt ty), fun n m e h => fclassBit_fin h,
    fun n => ⟨fun h => if_pos (isNaN_iff.2 h), withSign_number n⟩,
    fun w mode draw _ hd => ⟨fun h => ?_, fun n h => ?_, fun n m e h => toInteger_fin h w mode hd⟩⟩
  · unfold toInteger
    rw [h]
  · unfold toInteger
    rw [h]

/-- Settles O14: what is written, what a compare is on the rational numbers, and what the named results are. -/
theorem floatWithoutRounding : Obligations.FloatWithoutRounding := ⟨RowLaws.fxRow_holds, comparesAreNumeric, classSignInteger⟩

end Sys2Proof.FloatLaws
end

section
/-! PROOFS. Indexed register forms (04 R104). -/

namespace Sys2Proof.IndexLaws

open Sys2Proof.Machine Sys2Proof.Safety Sys2Proof.Laws

/-- An index within the register file names its register. -/
theorem withIndex_of_le (a b e : BitVec 5) (s : State) (k : BitVec 5 → Out) (h : IndexIs s a b e) : withIndex a b s k = k e := by
  obtain ⟨ready, index⟩ := h
  unfold withIndex
  rw [withX_ready s a _ ready]
  dsimp only
  rw [if_pos (index ▸ Nat.le_of_lt_succ e.isLt)]
  exact congrArg k (BitVec.eq_of_toNat_eq (by rw [BitVec.toNat_setWidth, index, Nat.mod_eq_of_lt e.isLt]))

/-- An index outside it traps. -/
theorem withIndex_of_gt (a b : BitVec 5) (s : State) (k : BitVec 5 → Out) (ready : XReady s a)
    (h : 31 < (BitVec.ofNat 64 b.toNat + xval s.slot a).toNat) :
    withIndex a b s k = .next (takeTrap .regidx (BitVec.ofNat 64 b.toNat + xval s.slot a) s) := by
  unfold withIndex
  rw [withX_ready s a _ ready]
  exact if_neg (Nat.not_le.2 h)

/-- xputx reads its source before its index. -/
theorem execXputx_of_ready (d a b : BitVec 5) (s : State) (hd : XReady s d) (ha : XReady s a) :
    execXputx d a b s = withIndex a b s fun e => done 4 (onSlot s fun l => setX l e (xval s.slot d)) := by
  unfold execXputx
  rw [withReady_ready s _ _ (by simp [hd, ha]), withX_ready s d _ hd]

/-- Settles O15: each form runs its body at the register that the index names. -/
theorem indexedRegisters : Obligations.IndexedRegisters := by
  refine ⟨fun d a b e s index => ⟨?_, ?_, fun he => ?_, fun hd => ?_⟩, fun i d a b s form ready outside => ?_⟩
  · rw [exec_fgetx, execFgetx, withIndex_of_le a b e s _ index]
    exact done_setF s 4 d _ .rne 1
  · rw [exec_fputx, execFputx, withIndex_of_le a b e s _ index]
    exact done_setF s 4 e _ .rne 1
  · rw [exec_xgetx, execXgetx, withIndex_of_le a b e s _ index, withX_ready s e _ he]
    exact done_setX s 4 d _
  · rw [exec_xputx, execXputx_of_ready d a b s hd index.1, withIndex_of_le a b e s _ index]
    exact done_setX s 4 e _
  · rcases form with rfl | rfl | rfl | ⟨rfl, hd⟩
    · exact (exec_fgetx d a b s).trans (withIndex_of_gt a b s _ ready outside)
    · exact (exec_fputx d a b s).trans (withIndex_of_gt a b s _ ready outside)
    · exact (exec_xgetx d a b s).trans (withIndex_of_gt a b s _ ready outside)
    · exact (execXputx_of_ready d a b s hd ready).trans (withIndex_of_gt a b s _ ready outside)

end Sys2Proof.IndexLaws
end

section
/-! PROOFS. The end of a tile task (04 R109; 01 R20; 06 R128, R130). -/

namespace Sys2Proof.ExitLaws

open Sys2Proof.Machine Sys2Proof.Safety Sys2Proof.Laws Sys2Proof.WindowLaws

/-! ### Nobody waits -/

theorem failWaiters_of_alone {s : State} (h : gangWaiters s = []) : failWaiters s = s := by
  have here : focus s s.cur = s := if_pos rfl
  unfold failWaiters failFrom
  rw [here, h]
  exact here

/-- Who waits for the slot in hand depends on the other slots and on its capsule alone. -/
theorem gangWaiters_onSlot {s : State} {f : Slot → Slot} (h : (f s.slot).capsule = s.slot.capsule) : gangWaiters (onSlot s f) = gangWaiters s := by
  unfold gangWaiters
  refine List.filterMap_congr fun i _ => ?_
  dsimp only
  by_cases me : (⟨BitVec.ofNat 11 (s.cur.core.toNat / 16 * 16 + i), s.cur.slot⟩ : SlotId) = s.cur
  · exact (if_pos me).trans (if_pos me).symm
  · have other : getSlot (onSlot s f) ⟨BitVec.ofNat 11 (s.cur.core.toNat / 16 * 16 + i), s.cur.slot⟩ =
        getSlot s ⟨BitVec.ofNat 11 (s.cur.core.toNat / 16 * 16 + i), s.cur.slot⟩ := (if_neg me).trans (if_neg me).symm
    rw [onSlot_cur, onSlot_slot, h, other]

theorem closeRegion_capsule (l : Slot) : (closeRegion l).capsule = l.capsule := by
  obtain ⟨sh, coming, shut⟩ := closeRegion_closedAs l
  rw [shut]
  rfl

theorem closeRegion_task (l : Slot) : (closeRegion l).task = l.task := by
  obtain ⟨sh, coming, shut⟩ := closeRegion_closedAs l
  rw [shut]
  rfl

/-- What an activation leaves behind does not depend on its region. -/
theorem leftOver_closeRegion (l : Slot) : leftOver (closeRegion l) = leftOver l := by
  unfold closeRegion
  split
  · rfl
  · exact congrArg (fun p => { leftOver l with pending := p }) List.map_map

/-! ### A normal end -/

/-- The slot with another charge. -/
noncomputable def chargedTo (n : Nat) (l : Slot) : Slot := { l with charged := n }

theorem chargeSlot_slot (s : State) : ∃ n, (chargeSlot s s.cur).slot = chargedTo n s.slot := by
  unfold chargeSlot
  dsimp only
  split
  · exact ⟨s.slot.charged, rfl⟩
  · have own (f : Slot → Slot) : (modSlot s s.cur f).slot = f s.slot := by rw [modSlot, getSlot_cur, setSlot, if_pos rfl]
    exact ⟨_, own _⟩

/-- The record of a slot whose task has ended normally. -/
noncomputable def exitedSlot (now : Nat) (l : Slot) : Slot :=
  { closeSubs (leaveGroups now l) with run := .exited, gangPos := 0, gangSize := 1, closing := false }

/-- A task for which nobody waits ends with its staged messages dropped and its charge taken. -/
theorem exitTask_eq {s : State} (h : gangWaiters s = []) : exitTask s =
    onSlot (settleDeficits (chargeSlot (dropStaged s s.cur.core (s.cur.slot, s.slot.task)) s.cur))
      (exitedSlot (chargeSlot (dropStaged s s.cur.core (s.cur.slot, s.slot.task)) s.cur).now) := by
  unfold exitTask
  rw [failWaiters_of_alone h]
  rfl

theorem exitTask_slot {s : State} (h : gangWaiters s = []) : ∃ n, (exitTask s).slot = exitedSlot s.now (chargedTo n s.slot) := by
  obtain ⟨n, charged⟩ := chargeSlot_slot (dropStaged s s.cur.core (s.cur.slot, s.slot.task))
  refine ⟨n, ?_⟩
  rw [exitTask_eq h, onSlot_slot, settleDeficits_slot, chargeSlot_now]
  exact congrArg (exitedSlot s.now) charged

theorem exitTask_mem {s : State} (h : gangWaiters s = []) : (exitTask s).mem = s.mem := by
  rw [exitTask_eq h, onSlot_mem, settleDeficits_mem, chargeSlot_mem, TrapLaws.dropStaged_mem]

/-- No message stays staged for it. -/
theorem exitTask_staged {s : State} (h : gangWaiters s = []) :
    ∀ m ∈ (coreOf (exitTask s) s.cur.core).staged, ¬ (m.slot = s.cur.slot ∧ m.task = s.slot.task) := by
  have cores : (exitTask s).cores = (dropStaged s s.cur.core (s.cur.slot, s.slot.task)).cores := by
    rw [exitTask_eq h, onSlot_cores, settleDeficits_cores, chargeSlot_cores]
  intro m staged mine
  refine TrapLaws.dropStaged_none_left s s.cur.core (s.cur.slot, s.slot.task) m ?_ (Prod.ext mine.1 mine.2)
  unfold coreOf at staged ⊢
  rwa [cores] at staged

/-! ### texit -/

theorem texitOp_zero {s : State} (h : CanClose s) : texitOp 0 s = .next (if s.cur.slot = 4 then endActivation (closed s) else exitTask (closed s)) := by
  unfold texitOp
  rw [if_pos rfl, closeThen_ready s _ h]
  rfl

theorem exec_texit_zero {i : Instr} (h : i = .texit 0 ∨ i = .texitC) (s : State) : exec i s = texitOp 0 s := by
  rcases h with rfl | rfl <;> rfl

/-- Of a slot whose region has closed. -/
theorem closed_gangWaiters {s : State} (h : gangWaiters s = []) : gangWaiters (closed s) = [] :=
  (gangWaiters_onSlot (closeRegion_capsule _)).trans h

theorem endActivation_closed (s : State) : endActivation (closed s) = onSlot s leftOver :=
  congrArg (fun l => onSlot s fun _ => l) (leftOver_closeRegion s.slot)

theorem exec_texit_fault {n : BitVec 15} {s : State} (nonzero : n ≠ 0) (alone : gangWaiters s = []) : exec (.texit n) s =
    .next (if s.cur.slot = 4 then failActivation s (BitVec.ofNat 16 n.toNat) else endFault s (BitVec.ofNat 16 n.toNat)) := by
  have code : n.toNat ≠ 0 := fun c => nonzero (BitVec.eq_of_toNat_eq c)
  rw [exec_texit, execTexit, texitOp, if_neg code, failWaiters_of_alone alone]
  split <;> rfl

/-- What the end of a task whose hold area is empty leaves of its slot, and what else holds then. -/
def Exited (l e : Slot) (beside : Prop) : Prop :=
  e.run = .exited ∧ e.gangSize = 1 ∧ e.hold = [] ∧ e.group = none ∧ e.x = l.x ∧ e.f = l.f ∧ e.v = l.v ∧ e.m = l.m ∧
    e.mxQueue = l.mxQueue ∧ e.cpQueue = l.cpQueue ∧ e.storeBuf = l.storeBuf ∧ beside

theorem exitedSlot_exited (now n : Nat) {l : Slot} (r : Region) (no : Nat) (sh : SMap Channel) (coming : List Pending) {beside : Prop}
    (empty : l.hold = []) (h : beside) : Exited l (exitedSlot now (chargedTo n (closedAs l r no sh coming))) beside := by
  dsimp only [Exited, exitedSlot, closeSubs, leaveGroups, chargedTo, closedAs]
  exact ⟨rfl, rfl, empty, rfl, rfl, rfl, rfl, rfl, rfl, rfl, rfl, h⟩

/-- The task of a slot whose region has closed ends with its registers and queues as they are. -/
theorem exitTask_exited {s : State} (alone : gangWaiters s = []) (empty : s.slot.hold = []) :
    Exited s.slot (exitTask (closed s)).slot
      (∀ m ∈ (coreOf (exitTask (closed s)) s.cur.core).staged, ¬ (m.slot = s.cur.slot ∧ m.task = s.slot.task)) := by
  have free := closed_gangWaiters alone
  obtain ⟨n, ended⟩ := exitTask_slot free
  obtain ⟨sh, coming, shut⟩ := closeRegion_closedAs s.slot
  have left := exitTask_staged free
  rw [show (closed s).slot.task = s.slot.task from closeRegion_task s.slot] at left
  rw [ended, show (closed s).slot = _ from shut]
  exact exitedSlot_exited _ _ _ _ _ _ empty left

/-- Settles O26: a normal end closes the region and leaves the task's registers; any other end is that of the fault. -/
theorem taskExit : Obligations.TaskExit := by
  intro s alone
  constructor
  · intro i form closes
    have run := (exec_texit_zero form s).trans (texitOp_zero closes)
    have free := closed_gangWaiters alone
    by_cases service : s.cur.slot = 4
    · rw [if_pos service, endActivation_closed] at run
      exact ⟨_, run, rfl, fun c => absurd service c, fun _ => rfl⟩
    · rw [if_neg service] at run
      exact ⟨_, run, exitTask_mem free, fun _ => exitTask_exited alone closes.2, fun c => absurd c service⟩
  · intro n k cap nonzero bound found
    have run := exec_texit_fault nonzero alone
    by_cases service : s.cur.slot = 4
    · rw [if_pos service] at run
      obtain ⟨slot, mem, -, noted⟩ := TrapLaws.failActivation_ends (BitVec.ofNat 16 n.toNat) bound found
      exact ⟨_, _, run, mem, congrArg Slot.hold slot, noted, rfl, fun c => absurd service c, fun _ => ⟨slot, rfl⟩⟩
    · rw [if_neg service] at run
      obtain ⟨mem, ended, hold, -, noted⟩ := TrapLaws.endFault_ends (BitVec.ofNat 16 n.toNat) bound found
      exact ⟨_, _, run, mem, hold, noted, rfl, fun _ => ⟨ended, rfl⟩, fun c => absurd c service⟩

end Sys2Proof.ExitLaws
end

section
/-! PROOFS. What leaves a slot's buffers (10 R212; 11 R225; 20 R319): the statement fails in a state whose slot in hand has a number that no core
has, for the records of slots are listed by 5 core + slot. -/

namespace Sys2Proof.BufferLaws

open Sys2Proof.Machine Sys2Proof.Safety Sys2Proof.Laws

/-! ### A state in which slot 7 of core 0 is in hand, whose number is that of slot 2 of core 1 -/

/-- A capsule that runs. -/
noncomputable def runningCapsule : Capsule :=
  { info := { magic := 0, version := 1, flags := 0, owner := 0, keyHandle := 0, seqWord := 0, seqExp := 0, code := 0, entry := 0
              trapEntry := 0xFFFFFFFF, overflow := 0xFFFFFFFF, nExt := 0, nSucc := 0, digest := 0, tiles := (2, 1, 1), tileDims := (1, 1, 1)
              tensor := (2, 1, 1), threads := 1, gang := 1, priority := 0, policy := 0, part := 0x100, args := [], succs := [], park := 0
              faultq := 0, measure := 0, chain := 0, nonce := [], tag := [], extents := [], sealed := [], bytes := [] }
    payload := ⟨0, 0, 0, 0, 0, []⟩, source := 0, cookie := 0, handle := 0, recDigest := 0, world := 0, pos := 1, status := .running }

/-- Byte 0 of the pool of core 1, by the device's own number 1. -/
noncomputable def ownByteOfCore1 : Word := BitVec.ofNat 64 (2 ^ 63 + 2 ^ 46 + 2 ^ 35)

/-- A store to it that the slot holds. -/
noncomputable def heldByte : Held := .store (.peer ownByteOfCore1) ownByteOfCore1 [1] none none

/-- The slot whose hold area drains: slot 0 of core 0, whose region closes. -/
noncomputable def issuer : Slot := { run := .running, capsule := some 0, closing := true, hold := [heldByte] }

/-- Slot 2 of core 1: it has the first 4096 bytes of its core's pool as its scratchpad. -/
noncomputable def holder : Slot := { run := .running, capsule := some 0, part := 0x100 }

noncomputable def strayInHand : State :=
  { cur := ⟨0, 7⟩, others := [(0, issuer), (7, holder)]
    hub := { State.reset.hub with roster := [⟨1, true, ownDigest⟩], capsules := [(0, runningCapsule)] } }

theorem own_of_strayInHand : ownDevice strayInHand = some 1 := by
  unfold ownDevice strayInHand
  simp

/-- The place that the device's own number names in a state with that roster and capsule. -/
theorem ownPlace_of_own {s : State} (own : ownDevice s = some 1) (n : Nat) (k : Kind) : ownPlace s (some 0) ownByteOfCore1 n k =
    match (capAt s 0).map fun c => peerLanding s c.world ownByteOfCore1 n k false with
      | some (.at0 p) => some p
      | _ => none := by
  unfold ownPlace
  rw [own, if_neg (by decide)]
  rfl

theorem strayInHand_onDie : OnDie strayInHand ⟨0, 0⟩ (.peer ownByteOfCore1) 1 .store :=
  .inr ⟨_, .pool 1 0, rfl, (ownPlace_of_own own_of_strayInHand 1 .store).trans (by decide), by decide⟩

/-- The state once the head of the hold area has been taken. -/
noncomputable def headTaken : State :=
  let s := focus strayInHand ⟨0, 0⟩
  focus (onSlot s fun l => { l with hold := [], groups := (List.range 16).foldl (fun m g =>
    sset {} m g (groupAfter s (copyKey s) g (groupAt l g) heldByte)) l.groups }) ⟨0, 7⟩

/-- The slot in hand comes back under its number, and the record of slot 2 of core 1 is gone. -/
theorem headTaken_not_onDie : onDie headTaken ⟨0, 0⟩ (.peer ownByteOfCore1) 1 .store = false := by
  have own : ownDevice headTaken = some 1 := own_of_strayInHand
  have elsewhere : ownPlace headTaken (some 0) ownByteOfCore1 1 .store = none := (ownPlace_of_own own 1 .store).trans (by decide)
  have capsule : (getSlot headTaken ⟨0, 0⟩).capsule = some 0 := by decide
  unfold onDie nearPeer
  dsimp only
  rw [capsule, elsewhere]
  rfl

theorem strayInHand_departs : exec .heldWriteDepart strayInHand = .next (releaseStore headTaken ⟨0, 0⟩ (.peer ownByteOfCore1) [1] none) := rfl

/-- Packets that leave change no slot. -/
theorem getSlot_launches {α : Type} (ps : List α) (f : α → Packet) (s : State) (i : SlotId) :
    getSlot (ps.foldl (fun t p => launch t (f p)) s) i = getSlot s i := by
  induction ps generalizing s with
  | nil => rfl
  | cons p rest ih => exact ih (launch s (f p))

/-- Beyond the slot's die a held store leaves the store buffer as it is. -/
theorem releaseStore_away {s : State} {i : SlotId} {pl : Place} {data : List Byte} (away : onDie s i pl data.length .store = false) (g : Option Nat) :
    getSlot (releaseStore s i pl data g) i = getSlot s i := by
  unfold releaseStore
  dsimp only
  rw [if_neg (Bool.eq_false_iff.1 away)]
  exact getSlot_launches ..

/-- Refutes O53: a state whose slot in hand has number 7, that of slot 2 of core 1, drains the hold area of another slot; the record of slot 2 of core
1, in whose scratchpad the store is performed, is lost as the slot comes back in hand, and so the store leaves as a packet. The premise
s.cur.slot < 5, which every state of a run meets, is missing. -/
theorem not_slotBuffersDrain : ¬ Obligations.SlotBuffersDrain := by
  intro ⟨leaves, _⟩
  obtain ⟨near, -⟩ := leaves strayInHand (.peer ownByteOfCore1) ownByteOfCore1 [1] none [] rfl rfl
  obtain ⟨t, es, runs, -, -, buffer, parts, -⟩ := near strayInHand_onDie
  cases strayInHand_departs.symm.trans runs
  have kept : (getSlot (releaseStore headTaken ⟨0, 0⟩ (.peer ownByteOfCore1) [1] none) ⟨0, 0⟩).storeBuf = [] :=
    congrArg Slot.storeBuf (releaseStore_away headTaken_not_onDie none)
  have empty : es = [] := (List.append_eq_nil_iff.1 (buffer.symm.trans kept)).2
  rw [empty] at parts
  exact absurd parts.symm (by decide)

end Sys2Proof.BufferLaws
end

section
/-! PROOFS. wfe and popev (06 R132, R133; 07 Table 7-12). -/

namespace Sys2Proof.EventLaws

open Sys2Proof.Machine Sys2Proof.Safety Sys2Proof.Laws Sys2Proof.WindowLaws

/-! ### What the close of the open region leaves -/

theorem closeRegion_latchBit (l : Slot) : (closeRegion l).latchBit = l.latchBit := by rw [closeRegion_eq]

theorem closeRegion_run (l : Slot) : (closeRegion l).run = l.run := by rw [closeRegion_eq]

theorem closeRegion_evq (l : Slot) : (closeRegion l).evq = l.evq := by rw [closeRegion_eq]

theorem closeRegion_evLost (l : Slot) : (closeRegion l).evLost = l.evLost := by rw [closeRegion_eq]

theorem latchesSet_closed (s : State) : latchesSet (closed s) = latchesSet s :=
  congrArg (fun b => b && s.latch.all fun m => m.2.latchBit) (closeRegion_latchBit s.slot)

/-- Data on its way that is bound for no saved register. -/
def unsaved (ps : List Pending) : List Pending := ps.map fun p => { p with old := none, old2 := none }

theorem unsaved_closeRegion_pending (l : Slot) : unsaved (closeRegion l).pending = unsaved l.pending := by
  unfold closeRegion
  split
  · rfl
  · exact List.map_map

/-! ### wfe -/

/-- Behind an instruction that has closed the region of slot `l` and leaves it with that latch and that run state. -/
noncomputable def latchedBehind (len : Word) (latch : Bool) (run : Run) (s : State) (l : Slot) : State :=
  reopen (retire len (onSlot s fun _ => { l with latchBit := latch, run := run }))

/-- wfe goes on with its latch clear where the latches are set, and sleeps behind itself where one is not. -/
theorem wfeOp_closes (len : Word) {s : State} (closes : CanClose s) : wfeOp len s = .next (if latchesSet s then
    latchedBehind len false s.slot.run s (closeRegion s.slot) else latchedBehind len s.slot.latchBit .asleep s (closeRegion s.slot)) := by
  unfold wfeOp
  rw [closeThen_ready s _ closes, latchesSet_closed, ← closeRegion_run, ← closeRegion_latchBit]
  split
  · rfl
  · rfl

/-- Whatever becomes of latch and run state, the instruction is a boundary, and no more. -/
theorem latchedBehind_boundary (len : Word) (latch : Bool) (run : Run) (s : State) :
    let t := latchedBehind len latch run s (closeRegion s.slot)
    Boundary s t len ∧ BoundaryOnly s { t with slot := { t.slot with latchBit := s.slot.latchBit, run := s.slot.run } } := by
  have mask := closeRegion_mask s.slot
  have no := le_closeRegion_regionNo s.slot
  have pending := unsaved_closeRegion_pending s.slot
  obtain ⟨sh, coming, shut⟩ := closeRegion_closedAs s.slot
  rw [shut] at pending ⊢
  dsimp only [latchedBehind, closedAs, reopen, retire, retireTo, onSlot, openRegion]
  refine ⟨⟨⟨rfl, rfl⟩, ?_, Nat.lt_succ_of_le no, rfl, fun p hp => ?_⟩, rfl, pending⟩
  · rw [← mask]
    rfl
  · obtain ⟨q, -, rfl⟩ := List.mem_map.1 hp
    exact ⟨rfl, rfl⟩

theorem exec_wfe {i : Instr} {len : Word} (form : (i = .wfe ∧ len = 4) ∨ (i = .wfeC ∧ len = 2)) (s : State) : exec i s = wfeOp len s := by
  rcases form with ⟨rfl, rfl⟩ | ⟨rfl, rfl⟩ <;> rfl

/-! ### popev -/

/-- Slot `l` without its oldest event, and with no loss noted. -/
noncomputable def eventTaken (l : Slot) : Slot := { l with evq := l.evq.drop 1, evLost := false }

/-- What popev reads (07 Table 7-12). -/
def eventWord (lost : Nat) (q : List EvEntry) : Nat :=
  match q with
  | [] => lost
  | e :: _ => 2 ^ 63 + lost + e.kind * 2 ^ 40 + e.bytes % 2 ^ 32 * 2 ^ 8 + e.ch

theorem exec_popev (d : BitVec 5) (s : State) : exec (.popev d) s = closeThen s fun s => .next (reopen (retire 4 (onSlot (onSlot s eventTaken)
    fun l => setX l d (BitVec.ofNat 64 (eventWord (if s.slot.evLost then 2 ^ 62 else 0) s.slot.evq))))) := rfl

/-- With the region closed, popev takes the slot's own event. -/
theorem exec_popev_closes (d : BitVec 5) {s : State} (closes : CanClose s) : exec (.popev d) s = .next (reopen (retire 4
    (onSlot (onSlot (closed s) eventTaken) fun l => setX l d (BitVec.ofNat 64 (eventWord (if s.slot.evLost then 2 ^ 62 else 0) s.slot.evq))))) := by
  have evq : (closed s).slot.evq = s.slot.evq := closeRegion_evq s.slot
  have lost : (closed s).slot.evLost = s.slot.evLost := closeRegion_evLost s.slot
  rw [exec_popev, closeThen_ready s _ closes, evq, lost]

theorem eventTaken_closed {s : State} {rest : List EvEntry} (h : s.slot.evq.drop 1 = rest) :
    onSlot (closed s) eventTaken = onSlot (closed s) fun l => { l with evq := rest, evLost := false } := by
  have left : (closed s).slot.evq.drop 1 = rest := by rw [← h, ← closeRegion_evq s.slot]; rfl
  rw [← left]
  rfl

/-- Where no event waits, none is taken. -/
theorem eventTaken_closed_nil {s : State} (h : s.slot.evq = []) :
    onSlot (closed s) eventTaken = onSlot (closed s) fun l => { l with evLost := false } := by
  have none : (closeRegion s.slot).evq = [] := (closeRegion_evq s.slot).trans h
  rw [eventTaken_closed (rest := (closeRegion s.slot).evq) (by rw [h, none]; rfl)]
  rfl

/-- Settles O29: each form of wfe is a boundary with another latch or run state, and popev one with a register written. -/
theorem events : Obligations.Events := by
  constructor
  · intro i len s form closes
    have runs := (exec_wfe form s).trans (wfeOp_closes len closes)
    by_cases set : latchesSet s = true
    · rw [if_pos set] at runs
      obtain ⟨boundary, only⟩ := latchedBehind_boundary len false s.slot.run s
      exact ⟨_, runs, boundary, fun _ => ⟨rfl, only⟩, fun c => absurd set (by simp [c])⟩
    · rw [if_neg set] at runs
      obtain ⟨boundary, only⟩ := latchedBehind_boundary len s.slot.latchBit .asleep s
      exact ⟨_, runs, boundary, fun c => absurd c set, fun _ => ⟨rfl, only⟩⟩
  · intro d s closes
    refine ⟨_, exec_popev_closes d closes, fun empty => ?_, fun e rest waiting => ?_⟩
    · rw [eventTaken_closed_nil empty, empty]
      exact done_setX ..
    · rw [eventTaken_closed (rest := rest) (by rw [waiting]; rfl), waiting]
      exact done_setX ..

end Sys2Proof.EventLaws
end

section
/-! PROOFS. gang (06 R123; 07 R153): the statement fails where the slot in hand is itself recorded as waiting at a gang, for a slot that traps takes
along those that wait for it. -/

namespace Sys2Proof.GangLaws

open Sys2Proof.Machine Sys2Proof.Safety Sys2Proof.Laws

/-! ### gang n, once it has been looked at -/

/-- The slots that wait for the slot in hand at a gang of another size have trapped (06 R123; 07 Table 7-10). -/
noncomputable def othersFailed (n : Nat) (s : State) : State :=
  focus (((gangWaiters s).filter fun i => (getSlot s i).run != .atGang n).foldl
    (fun t i => if atAnyGang (getSlot t i) then failFrom 8 i (takeTrapHere .gang 4 (focus t i)) else t) s) s.cur

/-- Where a member of the block does not wait at this gang then, the slot in hand waits there. -/
theorem exec_gang_waits {n : BitVec 15} {s u : State} (allowed : gangRefusal s n.toNat = none) (closes : CanClose s)
    (failed : othersFailed n.toNat (closed s) = u) (still : gangRefusal u n.toNat = none)
    (away : ∃ i ∈ gangBlock u n.toNat, i ≠ u.cur ∧ (getSlot u i).run ≠ .atGang n.toNat) :
    exec (.gang n) s = .next (onSlot u fun l => { l with run := .atGang n.toNat }) := by
  obtain ⟨i, member, other, elsewhere⟩ := away
  have unformed : ¬ ((gangBlock u n.toNat).all fun i =>
      (getSlot (onSlot u fun l => { l with run := .atGang n.toNat }) i).run == .atGang n.toNat) = true := by
    intro all
    have here := List.all_eq_true.1 all i member
    have same : getSlot (onSlot u fun l => { l with run := .atGang n.toNat }) i = getSlot u i := (if_neg other).trans (if_neg other).symm
    rw [same] at here
    exact elsewhere (beq_iff_eq.1 here)
  unfold othersFailed at failed
  rw [exec_gang, execGang, allowed]
  dsimp only
  rw [closeThen_ready s _ closes, failed, still]
  exact if_neg unformed

/-! ### A state in which the slot in hand is recorded as waiting -/

/-- A capsule that allows gangs of four, with a trap entry. -/
noncomputable def gangCapsule : Capsule :=
  { BufferLaws.runningCapsule with info := { BufferLaws.runningCapsule.info with gang := 4, trapEntry := 0 } }

/-- A slot of that capsule that waits at `gang n`. -/
noncomputable def atGang (n : Nat) : Slot := { run := .atGang n, capsule := some 0 }

/-- Slot 0 of core 0 is in hand and recorded as waiting at `gang 4`, as that of core 2 is, while that of core 1 waits at `gang 2`. -/
noncomputable def waitsItself : State :=
  { slot := atGang 4, others := [(5, atGang 2), (10, atGang 4)], hub := { State.reset.hub with capsules := [(0, gangCapsule)] } }

theorem waitsItself_mayForm : MayForm waitsItself 2 := ⟨⟨gangCapsule, rfl, by decide⟩, rfl, rfl, by decide, by decide⟩

theorem waitsItself_canClose : CanClose waitsItself := by decide

/-- The others of the pair wait at the same gang with the same window base. -/
theorem waitsItself_pair : ∀ i ∈ gangBlock waitsItself 2, i ≠ waitsItself.cur →
    (getSlot waitsItself i).run = .atGang 2 ∧ (getSlot waitsItself i).wbase = waitsItself.slot.wbase := by decide

/-- The slot of core 2 traps, and with it those that wait for it: the slot in hand, and then that of core 1. So no pair is left. -/
theorem waitsItself_waits : exec (.gang 2) waitsItself = .next (onSlot (othersFailed 2 (closed waitsItself)) fun l => { l with run := .atGang 2 }) :=
  exec_gang_waits (by decide) waitsItself_canClose rfl (by decide) ⟨⟨1, 0⟩, by decide, by decide, by decide⟩

/-- Refutes O28: as the last of the pair arrives, a slot that waits for it at another gang traps with value 4, and takes along the slot in hand, which is
recorded as waiting for that slot, and its partner; no gang forms, and the slot in hand waits. The premise that the slot in hand runs,
s.slot.run = .running, which every state of a run meets at issue, is missing from the second part of `gangFormsClause`. -/
theorem not_gangs : ¬ Obligations.Gangs := by
  intro ⟨_, _, forms, _⟩
  obtain ⟨-, formed⟩ := forms 2 waitsItself (.inl rfl)
  obtain ⟨t, runs, -, members⟩ := formed waitsItself_mayForm waitsItself_canClose waitsItself_pair
  cases waitsItself_waits.symm.trans runs
  obtain ⟨run, -⟩ := members 0 ⟨0, 0⟩ ⟨0, 0⟩ (by decide) (by decide)
  exact absurd run (by decide)

end Sys2Proof.GangLaws
end

section
/-! PROOFS. Lanes of a vector register, and instructions that compute one lane at a time (07 R135, R136). -/

namespace Sys2Proof.LaneLaws

open Sys2Proof.Machine Sys2Proof.Safety Sys2Proof.Laws

/-! ### Registers from lanes -/

theorem lane_lt (w : Nat) (v : Vec) (i : Nat) : lane w v i < 2 ^ w := Nat.mod_lt _ (Nat.two_pow_pos w)

/-- A number packed from lanes holds them in their order. -/
theorem packLanes_lane (w : Nat) (xs : List Nat) : ∀ i, packLanes w xs / 2 ^ (w * i) % 2 ^ w = xs[i]?.getD 0 % 2 ^ w := by
  induction xs with
  | nil => exact fun i => congrArg (· % 2 ^ w) (Nat.zero_div _)
  | cons x t ih =>
    refine Nat.rec ?_ fun i _ => ?_
    · exact (congrArg (· % 2 ^ w) (Nat.div_one _)).trans ((Nat.add_mul_mod_self_left ..).trans (Nat.mod_mod ..))
    · refine (congrArg (· % 2 ^ w) ?_).trans (ih i)
      calc (x % 2 ^ w + 2 ^ w * packLanes w t) / 2 ^ (w * i + w)
        _ = (x % 2 ^ w + 2 ^ w * packLanes w t) / 2 ^ w / 2 ^ (w * i) :=
          (congrArg (_ / ·) (Nat.pow_add' ..)).trans (Nat.div_div_eq_div_mul ..).symm
        _ = packLanes w t / 2 ^ (w * i) := congrArg (· / 2 ^ (w * i)) <|
          (Nat.add_mul_div_left _ _ (Nat.two_pow_pos w)).trans <|
            (congrArg (· + _) (Nat.div_eq_of_lt (Nat.mod_lt x (Nat.two_pow_pos w)))).trans (Nat.zero_add _)

/-- A digit that lies below the place where the number is cut. -/
theorem cut_digit {n k w : Nat} (x : Nat) (room : k + w ≤ n) : x % 2 ^ n / 2 ^ k % 2 ^ w = x / 2 ^ k % 2 ^ w :=
  have split : 2 ^ n = 2 ^ k * 2 ^ (n - k) := (Nat.pow_sub_mul_pow 2 (Nat.le_of_add_right_le room)).symm.trans (Nat.mul_comm ..)
  (congrArg (· % 2 ^ w) ((congrArg (x % · / _) split).trans (Nat.mod_mul_right_div_self ..))).trans
    (Nat.mod_mod_of_dvd _ (Nat.pow_dvd_pow 2 (Nat.le_sub_of_add_le' room)))

/-- The register packed from lanes has them. -/
theorem lane_ofLanes {w i : Nat} (f : Nat → Nat) (h : i < 512 / w) : lane w (ofLanes w f) i = f i % 2 ^ w :=
  have room : w * i + w ≤ 512 := (Nat.mul_le_mul_left w h).trans (Nat.mul_div_le 512 w)
  have here : ((List.range (512 / w)).map f)[i]? = some (f i) := (List.getElem?_map ..).trans (congrArg _ (List.getElem?_range h))
  (cut_digit (packLanes w ((List.range (512 / w)).map f)) room).trans ((packLanes_lane ..).trans (congrArg (·.getD 0 % 2 ^ w) here))

/-- Active lanes take the result and the others stay (R136). -/
theorem lane_merge {w i : Nat} (mk : Word) (old : Vec) (f : Nat → Nat) (h : i < 512 / w) :
    lane w (merge w mk old f) i = if mk.getLsbD i then f i % 2 ^ w else lane w old i :=
  (lane_ofLanes _ h).trans ((apply_ite (· % 2 ^ w) ..).trans (congrArg (ite _ _) (Nat.mod_eq_of_lt (lane_lt w old i))))

/-- An instruction that computes lane by lane completes with results that agree with `r` in the active lanes. -/
theorem laneOp_holds {w : Nat} {d : BitVec 5} {mask : BitVec 3} {s : State} {f r : Nat → Nat} (need : List (BitVec 5))
    (h : ∀ i, i < 512 / w → (mval s.slot mask).getLsbD i = true → f i % 2 ^ w = r i) :
    LanesHold s { need := need, d := d, w := w, mask := mask, res := r } (laneOp w d mask s f) :=
  ⟨_, done_setV s 4 d (merge w (mval s.slot mask) (vval s.slot d) f) .rne 1, fun i hi =>
    (lane_merge _ _ _ hi).trans (ite_congr rfl (h i hi) fun _ => rfl)⟩

theorem lanesHold_of_eq {s : State} {r : Lanes} {o o' : Out} (runs : o = o') (holds : LanesHold s r o') : LanesHold s r o := runs ▸ holds

/-- The same where every result fits its lane. -/
theorem laneOp_holds_of_lt {w : Nat} {d : BitVec 5} {mask : BitVec 3} {s : State} {f : Nat → Nat} (need : List (BitVec 5))
    (h : ∀ i, f i < 2 ^ w) : LanesHold s { need := need, d := d, w := w, mask := mask, res := f } (laneOp w d mask s f) :=
  laneOp_holds need fun i _ _ => Nat.mod_eq_of_lt (h i)

end Sys2Proof.LaneLaws
end

section
/-! PROOFS. Integer lanes: what each operation of 07 Table 7-4 gives as a number (07 R140). -/

namespace Sys2Proof.LaneLaws

open Sys2Proof.Machine Sys2Proof.Safety Sys2Proof.Laws Sys2Proof.RowLaws

/-! ### Lanes as numbers -/

theorem natCast_two_pow (w : Nat) : ((2 ^ w : Nat) : Int) = 2 ^ w := Nat.cast_pow 2 w

theorem toNat_ofInt (w : Nat) (v : Int) : (BitVec.ofInt w v).toNat = (v % 2 ^ w).toNat :=
  (BitVec.toNat_ofInt ..).trans (congrArg (fun p => (v % p).toNat) (natCast_two_pow w))

theorem sgn_toNat {w : Nat} (x : BitVec w) : sgn w x.toNat = x.toInt := by
  refine Eq.trans ?_ (BitVec.toInt_eq_msb_cond x).symm
  by_cases low : x.toNat < 2 ^ (w - 1)
  · have clear : x.msb = false := x.msb_eq_decide.trans (decide_eq_false (Nat.not_le_of_gt low))
    exact (if_pos low).trans (if_neg (Bool.eq_false_iff.1 clear)).symm
  · have set : x.msb = true := x.msb_eq_decide.trans (decide_eq_true (Nat.not_lt.1 low))
    exact (if_neg low).trans ((congrArg _ (natCast_two_pow w).symm).trans (if_pos set).symm)

theorem toNat_ofNat_lane (w : Nat) (v : Vec) (i : Nat) : (BitVec.ofNat w (lane w v i)).toNat = lane w v i := Nat.mod_mod ..

theorem toInt_ofNat {w n : Nat} (h : n < 2 ^ w) : (BitVec.ofNat w n).toInt = sgn w n :=
  (sgn_toNat _).symm.trans (congrArg (sgn w) (Nat.mod_eq_of_lt h))

/-! ### The shared form -/

/-- Two integer operands, lane by lane: the operation is the exact function, reduced to the lane's width. -/
theorem vintOp_row {s : State} {f : (w : Nat) → BitVec w → BitVec w → BitVec w} (g : Nat → Nat → Nat → Int)
    (h : ∀ w (x y : BitVec w), f w x y = BitVec.ofInt w (g w x.toNat y.toNat)) ⦃d a b : BitVec 5⦄ ⦃ty : IType⦄ ⦃m : BitVec 3⦄ :
    ((∀ n ∈ [], XReady s n) → LanesHold s { d := d, w := ibits ty, mask := m, res := fun i =>
      (g (ibits ty) (ln s (ibits ty) a i) (ln s (ibits ty) b i) % 2 ^ ibits ty).toNat } (vintOp f d a b ty m s)) ∧ True :=
  ⟨fun _ => laneOp_holds [] fun _ _ _ => (Nat.mod_eq_of_lt (BitVec.isLt _)).trans <| (congrArg BitVec.toNat (h ..)).trans <| (toNat_ofInt ..).trans <|
    congrArg₂ (fun m n => (g (ibits ty) m n % 2 ^ ibits ty).toNat) (toNat_ofNat_lane ..) (toNat_ofNat_lane ..), trivial⟩

/-! ### Each operation as a number -/

section
variable {w : Nat}

/-- A function of signed numbers is one of lanes. -/
theorem of_signed (F : Int → Int → BitVec w) (x y : BitVec w) : F x.toInt y.toInt = F (sgn w x.toNat) (sgn w y.toNat) :=
  congrArg₂ F (sgn_toNat x).symm (sgn_toNat y).symm

theorem eq_ofInt_of_toNat {x : BitVec w} {n : Nat} (h : x.toNat = n) : x = BitVec.ofInt w n :=
  (BitVec.eq_of_toNat_eq (h ▸ (Nat.mod_eq_of_lt x.isLt).symm)).trans (BitVec.ofInt_natCast w n).symm

variable (x y : BitVec w)

theorem neg_eq_ofInt : -x = BitVec.ofInt w (-(x.toNat : Int)) := (congrArg (- ·) (eq_ofInt_of_toNat rfl)).trans BitVec.ofInt_neg.symm

theorem sub_eq_ofInt : x - y = BitVec.ofInt w (x.toNat - y.toNat) :=
  (BitVec.sub_eq_add_neg ..).trans ((congrArg₂ (· + ·) (eq_ofInt_of_toNat rfl) (neg_eq_ofInt y)).trans (BitVec.ofInt_add ..).symm)

theorem mulhu_eq_ofInt : BitVec.ofNat w (x.toNat * y.toNat / 2 ^ w) = BitVec.ofInt w ((x.toNat : Int) * y.toNat / 2 ^ w) :=
  (BitVec.ofInt_natCast ..).symm.trans (congrArg (fun p => BitVec.ofInt w (x.toNat * y.toNat / p)) (natCast_two_pow w))

/-- One of two, by a test. -/
theorem pick_eq_ofInt {c : Bool} {p : Prop} [Decidable p] {m n : Int} (h : c = true ↔ p) (hx : x = BitVec.ofInt w m) (hy : y = BitVec.ofInt w n) :
    (if c then x else y) = BitVec.ofInt w (if p then m else n) :=
  (ite_congr (propext h) (fun _ => hx) fun _ => hy).trans (apply_ite (BitVec.ofInt w) ..).symm

theorem smin_eq_ofInt : (if x.sle y then x else y) = BitVec.ofInt w (Min.min (sgn w x.toNat) (sgn w y.toNat)) :=
  (pick_eq_ofInt x y BitVec.sle_iff_toInt_le BitVec.ofInt_toInt.symm BitVec.ofInt_toInt.symm).trans
    (of_signed (fun m n => BitVec.ofInt w (Min.min m n)) x y)

theorem smax_eq_ofInt : (if x.sle y then y else x) = BitVec.ofInt w (Max.max (sgn w x.toNat) (sgn w y.toNat)) :=
  (pick_eq_ofInt y x BitVec.sle_iff_toInt_le BitVec.ofInt_toInt.symm BitVec.ofInt_toInt.symm).trans
    (of_signed (fun m n => BitVec.ofInt w (Max.max m n)) x y)

theorem umin_eq_ofInt : (if x.ule y then x else y) = BitVec.ofInt w (Min.min x.toNat y.toNat : Nat) :=
  eq_ofInt_of_toNat ((apply_ite BitVec.toNat ..).trans (if_congr BitVec.ule_iff_toNat_le rfl rfl))

theorem umax_eq_ofInt : (if x.ule y then y else x) = BitVec.ofInt w (Max.max x.toNat y.toNat : Nat) :=
  eq_ofInt_of_toNat ((apply_ite BitVec.toNat ..).trans (if_congr BitVec.ule_iff_toNat_le rfl rfl))

theorem shiftLeft_eq_ofInt (n : Nat) : x <<< n = BitVec.ofInt w (x.toNat * 2 ^ n) :=
  (congrArg (BitVec.ofNat w) (Nat.shiftLeft_eq ..)).trans <| (BitVec.ofInt_natCast ..).symm.trans <|
    congrArg (fun p => BitVec.ofInt w (x.toNat * p)) (natCast_two_pow n)

theorem ushiftRight_eq_ofInt (n : Nat) : x >>> n = BitVec.ofInt w ((x.toNat : Int) / 2 ^ n) :=
  (eq_ofInt_of_toNat ((BitVec.toNat_ushiftRight ..).trans (Nat.shiftRight_eq_div_pow ..))).trans
    (congrArg (fun p => BitVec.ofInt w (x.toNat / p)) (natCast_two_pow n))

theorem sshiftRight_eq_ofInt (n : Nat) : x.sshiftRight n = BitVec.ofInt w (sgn w x.toNat / 2 ^ n) :=
  congrArg (BitVec.ofInt w) ((Int.shiftRight_eq_div_pow ..).trans (congrArg₂ (· / ·) (sgn_toNat x).symm (natCast_two_pow n)))

theorem abs_eq_ofInt : (if x.msb then -x else x) = BitVec.ofInt w |sgn w x.toNat| := by
  refine Eq.trans ?_ (congrArg (fun n => BitVec.ofInt w |n|) (sgn_toNat x).symm)
  by_cases neg : x.toInt < 0
  · refine (if_pos (x.msb_eq_toInt.trans (decide_eq_true neg))).trans (Eq.trans ?_ (congrArg _ (abs_of_neg neg).symm))
    exact (congrArg (- ·) BitVec.ofInt_toInt.symm).trans BitVec.ofInt_neg.symm
  · have clear : x.msb = false := x.msb_eq_toInt.trans (decide_eq_false neg)
    exact (if_neg (Bool.eq_false_iff.1 clear)).trans (BitVec.ofInt_toInt.symm.trans (congrArg _ (abs_of_nonneg (not_lt.1 neg)).symm))

end

end Sys2Proof.LaneLaws
end

section
/-! PROOFS. Floating lanes: every result is an encoding of its format, and the shared forms (07 R137, R141, R142). -/

namespace Sys2Proof.LaneLaws

open Sys2Proof.Machine Sys2Proof.Safety Sys2Proof.Laws Sys2Proof.FloatLaws Sys2Proof.RowLaws

/-! ### Results fit their format -/

theorem two_pow_fwidth (f : FFmt) : 2 ^ fwidth f = fsign f + fsign f :=
  (congrArg (2 ^ ·) ((Nat.add_assoc 1 ..).trans (Nat.add_comm ..))).trans (Nat.two_pow_succ _)

theorem fsign_pos (f : FFmt) : 0 < fsign f := Nat.two_pow_pos _

theorem lt_two_pow_fwidth {f : FFmt} {a b : Nat} (ha : a ≤ fsign f) (hb : b < fsign f) : a + b < 2 ^ fwidth f :=
  Nat.lt_of_lt_of_eq (Nat.add_lt_add_of_le_of_lt ha hb) (two_pow_fwidth f).symm

/-- A sign before the encoding of a magnitude. -/
theorem signed_lt {f : FFmt} {r : Nat} (neg : Bool) (h : r < fsign f) : (if neg then fsign f else 0) + r < 2 ^ fwidth f := by
  induction neg
  · exact lt_two_pow_fwidth (Nat.zero_le _) h
  · exact lt_two_pow_fwidth (Nat.le_refl _) h

theorem fnan_lt (f : FFmt) : fnan f < 2 ^ fwidth f :=
  have quiet : 2 ^ (f.mbits - 1) ≤ fsign f := Nat.pow_le_pow_right Nat.two_pos (Nat.le_trans (Nat.sub_le ..) (Nat.le_add_left ..))
  lt_of_eq_of_lt (Nat.add_comm ..) (lt_two_pow_fwidth quiet (finf_lt_fsign f))

theorem ite_lt {p : Prop} [Decidable p] {a b n : Nat} (ha : a < n) (hb : b < n) : (if p then a else b) < n := by split <;> assumption

section
variable {f : FFmt} (hf : HasBits f) (mode : Rnd) (draw : Nat)
include hf

theorem roundFin_lt (neg : Bool) (m : Nat) (e : Int) (sticky : Bool) : roundFin f mode draw neg m e sticky < 2 ^ fwidth f := by
  induction m with
  | zero => exact signed_lt neg (fsign_pos f)
  | succ m =>
    refine lt_of_eq_of_lt (roundFin_eq hf mode draw neg e sticky (Nat.succ_ne_zero m)) (signed_lt neg ?_)
    by_cases below : roundedEncoding f mode draw (m + 1) e sticky < finf f
    · exact lt_of_eq_of_lt (if_pos below) (below.trans (finf_lt_fsign f))
    · refine lt_of_eq_of_lt (if_neg below) (Nat.lt_of_le_of_lt (m := finf f) ?_ (finf_lt_fsign f))
      induction mode with
      | rne | rsr => exact Nat.le_of_eq (Nat.sub_add_cancel (finf_pos hf))
      | rtz | rto => exact Nat.sub_le ..

theorem fround_lt (v : FVal) : fround f mode draw v < 2 ^ fwidth f := by
  induction v with
  | nan => exact fnan_lt f
  | inf neg => exact signed_lt neg (finf_lt_fsign f)
  | fin neg m e => exact roundFin_lt hf mode draw neg m e false

theorem fdiv2_lt (a b : Nat) : fdiv2 f mode draw a b < 2 ^ fwidth f := by
  delta fdiv2
  generalize fdecode f a = x, fdecode f b = y
  induction x with
  | nan => exact fnan_lt f
  | inf n =>
    induction y with
    | nan | inf => exact fnan_lt f
    | fin => exact fround_lt hf ..
  | fin na ma ea =>
    induction y with
    | nan => exact fnan_lt f
    | inf => exact fround_lt hf ..
    | fin => exact ite_lt (ite_lt (fnan_lt f) (fround_lt hf ..)) (roundFin_lt hf ..)

theorem fsqrt1_lt (a : Nat) : fsqrt1 f mode draw a < 2 ^ fwidth f := by
  delta fsqrt1
  generalize fdecode f a = v
  induction v with
  | nan => exact fnan_lt f
  | inf neg => exact ite_lt (fnan_lt f) (signed_lt false (finf_lt_fsign f) |> lt_of_eq_of_lt (Nat.zero_add _).symm)
  | fin neg m e => exact ite_lt (signed_lt neg (fsign_pos f)) (ite_lt (fnan_lt f) (roundFin_lt hf ..))

end

/-- One of two encodings, or a NaN. -/
theorem pick_lt (f : FFmt) (nan low : Bool) (a b : Nat) :
    (if nan then fnan f else if low then a % 2 ^ fwidth f else b % 2 ^ fwidth f) < 2 ^ fwidth f :=
  ite_lt (fnan_lt f) (ite_lt (Nat.mod_lt _ (Nat.two_pow_pos _)) (Nat.mod_lt _ (Nat.two_pow_pos _)))

/-! ### Signs of lanes -/

theorem withSign_lt (f : FFmt) (a : Nat) (neg : Bool) : withSign f a neg < 2 ^ fwidth f :=
  ite_lt (fnan_lt f) (lt_of_eq_of_lt (Nat.add_comm ..) (signed_lt neg (Nat.mod_lt _ (fsign_pos f))))

/-- The sign of an encoding turns. -/
theorem withSign_not {f : FFmt} {a : Nat} (h : a < 2 ^ fwidth f) : withSign f a (!signBit f a) =
    if fdecode f a = .nan then fnan f else if a < fsign f then a + fsign f else a - fsign f := by
  refine if_congr isNaN_iff rfl ?_
  by_cases low : a < fsign f
  · have clear : signBit f a = false := congrArg (· % 2 == 1) (Nat.div_eq_of_lt low)
    exact (congrArg₂ (fun r b => r + if !b then fsign f else 0) (Nat.mod_eq_of_lt low) clear).trans (if_pos low).symm
  · have high : fsign f ≤ a := Nat.not_lt.1 low
    have rest : a - fsign f < fsign f := Nat.sub_lt_left_of_lt_add high (Nat.lt_of_lt_of_eq h (two_pow_fwidth f))
    have set : signBit f a = true := congrArg (· % 2 == 1) (Nat.div_eq_sub_div (fsign_pos f) high |>.trans (congrArg (· + 1) (Nat.div_eq_of_lt rest)))
    exact (congrArg₂ (fun r b => r + if !b then fsign f else 0) ((Nat.mod_eq_sub_mod high).trans (Nat.mod_eq_of_lt rest)) set).trans (if_neg low).symm

/-! ### The shared forms -/

/-- Two operands, lane by lane, with a result that fits its lane. -/
theorem vfpOp_row {s : State} (f g : FFmt → Nat → Nat → Nat) (fits : ∀ ty x y, f (ftypeFmt ty) x y < 2 ^ fwidth (ftypeFmt ty))
    (h : ∀ t x y, x < 2 ^ fwidth t → f t x y = g t x y) ⦃d a b : BitVec 5⦄ ⦃ty : FType⦄ ⦃m : BitVec 3⦄ :
    LanesHold s { d := d, w := fwidth (ftypeFmt ty), mask := m
                  res := fun i => g (ftypeFmt ty) (ln s (fwidth (ftypeFmt ty)) a i) (ln s (fwidth (ftypeFmt ty)) b i) } (vfpOp f d a b ty m s) ∧ True :=
  ⟨laneOp_holds [] fun _ _ _ => (Nat.mod_eq_of_lt (fits ..)).trans (h _ _ _ (lane_lt ..)), trivial⟩

/-- A value for each lane, rounded once. -/
theorem rounded_row {s : State} (v : FVal → FVal → FVal → FVal) ⦃d a b : BitVec 5⦄ ⦃ty : FType⦄ ⦃m : BitVec 3⦄ :
    LanesHold s { d := d, w := fwidth (ftypeFmt ty), mask := m
                  res := fun i => fround (ftypeFmt ty) .rne 0 (v (fln s ty d i) (fln s ty a i) (fln s ty b i)) }
      (laneOp (fwidth (ftypeFmt ty)) d m s fun i => fround (ftypeFmt ty) .rne 0 (v (fln s ty d i) (fln s ty a i) (fln s ty b i))) ∧ True :=
  ⟨laneOp_holds_of_lt [] fun _ => fround_lt (hasBits_ftypeFmt ty) .., trivial⟩

end Sys2Proof.LaneLaws
end

section
/-! PROOFS. Vector compares, mask registers, and forms that move lanes across a gang (07 R138, R143 to R145). -/

namespace Sys2Proof.LaneLaws

open Sys2Proof.Machine Sys2Proof.Safety Sys2Proof.Laws Sys2Proof.FloatLaws Sys2Proof.RowLaws

/-! ### Masks from conditions (07 R143) -/

/-- The number whose bits below `n` are those of `p`. -/
noncomputable def bitSum (p : Nat → Bool) (n : Nat) : Nat := (List.range n).foldl (fun a i => if p i then a + 2 ^ i else a) 0

theorem bitSum_succ (p : Nat → Bool) (n : Nat) : bitSum p (n + 1) = if p n then bitSum p n + 2 ^ n else bitSum p n :=
  (congrArg (List.foldl _ 0) List.range_succ).trans List.foldl_append

theorem testBit_bitSum (p : Nat → Bool) (n i : Nat) : (bitSum p n).testBit i = true ↔ i < n ∧ p i = true := by
  induction n generalizing i with
  | zero => exact iff_of_false (Bool.eq_false_iff.1 (Nat.zero_testBit i)) fun c => Nat.not_lt_zero i c.1
  | succ n ih =>
    by_cases h : p n = true
    · have small : bitSum p n < 2 ^ n := Nat.lt_pow_two_of_testBit _ fun j hj => Bool.eq_false_iff.2 fun c => Nat.not_lt_of_ge hj ((ih j).1 c).1
      have more : bitSum p (n + 1) = 2 ^ n ||| bitSum p n := (bitSum_succ p n).trans <| (if_pos h).trans <| (Nat.add_comm ..).trans <|
        Nat.mul_one (2 ^ n) ▸ Nat.two_pow_add_eq_or_of_lt small 1
      have bit : (bitSum p (n + 1)).testBit i = (decide (n = i) || (bitSum p n).testBit i) :=
        (congrArg (Nat.testBit · i) more).trans ((Nat.testBit_or ..).trans (congrArg (· || _) Nat.testBit_two_pow))
      refine ⟨fun c => (Bool.or_eq_true_iff.1 (bit.symm.trans c)).elim (fun top => ?_) fun c => ((ih i).1 c).imp_left Nat.lt_succ_of_lt, fun c => ?_⟩
      · exact of_decide_eq_true top ▸ ⟨Nat.lt_succ_self n, h⟩
      · exact bit.trans (Bool.or_eq_true_iff.2 ((Nat.lt_succ_iff_lt_or_eq.1 c.1).symm.imp (decide_eq_true ·.symm) fun low => (ih i).2 ⟨low, c.2⟩))
    · have same : bitSum p (n + 1) = bitSum p n := (bitSum_succ p n).trans (if_neg h)
      refine same ▸ (ih i).trans ⟨And.imp_left Nat.lt_succ_of_lt, fun c => ⟨Nat.lt_of_le_of_ne (Nat.le_of_lt_succ c.1) fun top => ?_, c.2⟩⟩
      exact h (top ▸ c.2)

theorem getLsbD_maskOf {n : Nat} (mk : Word) (f : Nat → Bool) (i : Nat) (h : n ≤ 64) :
    (maskOf n mk f).getLsbD i = true ↔ i < n ∧ mk.getLsbD i = true ∧ f i = true :=
  have bit : (maskOf n mk f).getLsbD i = (decide (i < 64) && (bitSum (fun i => mk.getLsbD i && f i) n).testBit i) := BitVec.getLsbD_ofNat ..
  (Bool.eq_iff_iff.1 bit).trans <| Bool.and_eq_true_iff.trans
    ⟨fun c => ((testBit_bitSum ..).1 c.2).imp_right Bool.and_eq_true_iff.1,
      fun c => ⟨decide_eq_true (Nat.lt_of_lt_of_le c.1 h), (testBit_bitSum ..).2 (c.imp_right Bool.and_eq_true_iff.2)⟩⟩

/-- A mask register, or an x register, takes a value that is computed from the slot. -/
theorem done_setM_of (s : State) (d : BitVec 3) (F : Slot → Word) : MResult s 4 d (F s.slot) 0 (done 4 (onSlot s fun l => setM l d (F l))) :=
  done_setM s 4 d (F s.slot)

theorem done_setX_of (s : State) (d : BitVec 5) (F : Slot → Word) : XResult s 4 d (F s.slot) 0 (done 4 (onSlot s fun l => setX l d (F l))) :=
  done_setX s 4 d (F s.slot)

/-- A condition of each lane goes into a mask register. -/
theorem setMask_row {n : Nat} {d mask : BitVec 3} {s : State} {c : Nat → Prop} (f : Slot → Nat → Bool) (small : n ≤ 64)
    (h : ∀ i, f s.slot i = true ↔ c i) :
    MaskHolds s d mask n c (done 4 (onSlot s fun l => setM l d (maskOf n (mval l mask) (f l)))) ∧ True :=
  ⟨⟨_, done_setM_of s d fun l => maskOf n (mval l mask) (f l),
      fun i => (getLsbD_maskOf _ _ _ small).trans (and_congr_right' (and_congr_right' (h i)))⟩,
    trivial⟩

theorem lanes_le (ty : IType) : 512 / ibits ty ≤ 64 := by induction ty <;> decide

theorem flanes_le (ty : FType) : 512 / fwidth (ftypeFmt ty) ≤ 64 := by induction ty <;> decide

theorem vcmpOp_row {s : State} {f : (w : Nat) → BitVec w → BitVec w → Bool} (c : Nat → Nat → Nat → Prop)
    (h : ∀ w (x y : BitVec w), f w x y = true ↔ c w x.toNat y.toNat) ⦃d : BitVec 3⦄ ⦃a b : BitVec 5⦄ ⦃ty : IType⦄ ⦃m : BitVec 3⦄ :
    MaskHolds s d m (512 / ibits ty) (fun i => c (ibits ty) (ln s (ibits ty) a i) (ln s (ibits ty) b i)) (vcmpOp f d a b ty m s) ∧ True :=
  setMask_row (fun l i => f (ibits ty) (BitVec.ofNat _ (lane (ibits ty) (vval l a) i)) (BitVec.ofNat _ (lane (ibits ty) (vval l b) i))) (lanes_le ty)
    fun _ => (h ..).trans (iff_of_eq (congrArg₂ (c (ibits ty)) (toNat_ofNat_lane ..) (toNat_ofNat_lane ..)))

theorem vfcmpOp_row {s : State} {f : FFmt → Nat → Nat → Bool} (c : FFmt → Nat → Nat → Prop) (h : ∀ t x y, f t x y = true ↔ c t x y)
    ⦃d : BitVec 3⦄ ⦃a b : BitVec 5⦄ ⦃ty : FType⦄ ⦃m : BitVec 3⦄ : MaskHolds s d m (512 / fwidth (ftypeFmt ty))
      (fun i => c (ftypeFmt ty) (ln s (fwidth (ftypeFmt ty)) a i) (ln s (fwidth (ftypeFmt ty)) b i)) (vfcmpOp f d a b ty m s) ∧ True :=
  setMask_row (fun l i => f (ftypeFmt ty) (lane (fwidth (ftypeFmt ty)) (vval l a) i) (lane (fwidth (ftypeFmt ty)) (vval l b) i))
    (flanes_le ty) fun _ => h ..

theorem slt_iff_sgn {w : Nat} (x y : BitVec w) : x.slt y = true ↔ sgn w x.toNat < sgn w y.toNat :=
  BitVec.slt_iff_toInt_lt.trans (iff_of_eq (congrArg₂ (· < ·) (sgn_toNat x).symm (sgn_toNat y).symm))

theorem sle_iff_sgn {w : Nat} (x y : BitVec w) : x.sle y = true ↔ sgn w x.toNat ≤ sgn w y.toNat :=
  BitVec.sle_iff_toInt_le.trans (iff_of_eq (congrArg₂ (· ≤ ·) (sgn_toNat x).symm (sgn_toNat y).symm))

theorem flt2_iff (t : FFmt) (x y : Nat) : flt2 t x y = true ↔
    fleVal (fdecode t x) (fdecode t y) = true ∧ fleVal (fdecode t y) (fdecode t x) = false :=
  Bool.and_eq_true_iff.trans (and_congr_right' (iff_of_eq (Bool.not_eq_true' _)))

/-! ### Lanes across a gang (07 R138, R145) -/

theorem gangLane_lt (w : Nat) (s : State) (a : BitVec 5) (j : Nat) : gangLane w s a j < 2 ^ w := by
  delta gangLane
  dsimp only
  generalize (members s)[j / (512 / w)]? = x
  induction x
  · exact Nat.two_pow_pos w
  · exact lane_lt ..

theorem sext_ofNat {w n : Nat} (h : n < 2 ^ w) : sext (BitVec.ofNat w n) = BitVec.ofInt 64 (sgn w n) := congrArg (BitVec.ofInt 64) (toInt_ofNat h)

/-- The register whose lanes are given, each within its width. -/
theorem ofLanes_holds {w : Nat} {d : BitVec 5} {s : State} {f r : Nat → Nat} {o : Out} (runs : o = done 4 (onSlot s fun l => setV l d (ofLanes w f)))
    (h : ∀ i, f i % 2 ^ w = r i) : ∃ v, VResult s 4 d v 0 o ∧ ∀ i, i < 512 / w → lane w v i = r i :=
  ⟨_, runs ▸ done_setV s 4 d (ofLanes w f) .rne 1, fun i hi => (lane_ofLanes f hi).trans (h i)⟩

theorem slide_lt {w : Nat} {s : State} {a : BitVec 5} {p : Nat → Prop} [DecidablePred p] {j : Nat → Nat} (i : Nat) :
    (if p i then gangLane w s a (j i) else 0) < 2 ^ w := ite_lt (gangLane_lt ..) (Nat.two_pow_pos _)

/-- One lane is written in the member that holds it, and nothing in the others. -/
theorem insert_holds {p : Prop} [Decidable p] {w : Nat} {d : BitVec 5} {s : State} {f r : Nat → Nat} {o : Out}
    (runs : o = if p then done 4 (onSlot s fun l => setV l d (ofLanes w f)) else done 4 s) (h : ∀ i, f i % 2 ^ w = r i) :
    (p → ∃ v, VResult s 4 d v 0 o ∧ ∀ i, i < 512 / w → lane w v i = r i) ∧ (¬p → ∃ t, o = .next t ∧ Retires s t 4 ∧ Control s t) :=
  ⟨fun here => ofLanes_holds (runs.trans (if_pos here)) h, fun other => (runs.trans (if_neg other)) ▸ done_control 4 s⟩

/-- Two of the leader's registers are read. -/
theorem leaders_ready {s : State} {a b : BitVec 5} (ha : LeadReady s a) (hb : LeadReady s b) (k : Word → Word → Out) :
    (withLeaderReady [a, b] s <| withLeaderX a s fun v => withLeaderX b s (k v)) = k (leadX s a) (leadX s b) :=
  (withLeaderReady_ready s _ _ (List.forall_mem_cons.2 ⟨ha, List.forall_mem_singleton.2 hb⟩)).trans
    ((withLeaderX_ready s a _ ha).trans (withLeaderX_ready s b _ hb))

theorem permutes : permutesClause := fun s ty d a b m => by
  refine ⟨?_, laneOp_holds_of_lt [] fun _ => gangLane_lt .., fun ready => ?_, fun ready => ?_, fun ready => ?_, fun ha hb => ?_⟩
  · exact ofLanes_holds rfl fun i => (Nat.mod_eq_of_lt (lane_lt ..)).trans (apply_ite (fun n => ln s (ibits ty) n i) ..)
  · exact lanesHold_of_eq ((exec_vslup ..).trans (withLeaderX_ready s b _ ready)) (laneOp_holds_of_lt [] slide_lt)
  · exact lanesHold_of_eq ((exec_vsldn ..).trans (withLeaderX_ready s b _ ready)) (laneOp_holds_of_lt [] slide_lt)
  · have value := sext_ofNat (gangLane_lt (ibits ty) s a ((leadX s b).toNat % gangLanes (ibits ty) s))
    exact value ▸ ((exec_vext ..).trans (withLeaderX_ready s b _ ready)) ▸ done_setX ..
  · exact insert_holds ((exec_vins ..).trans (leaders_ready ha hb _)) fun i =>
      (apply_ite (· % 2 ^ ibits ty) ..).trans (congrArg (ite _ _) (Nat.mod_eq_of_lt (lane_lt ..)))

end Sys2Proof.LaneLaws
end

section
/-! PROOFS. The tables of vector instructions: one case analysis on the instruction says that each runs as every table that lists it states. -/

namespace Sys2Proof.LaneLaws

open Sys2Proof.Machine Sys2Proof.Safety Sys2Proof.Laws Sys2Proof.FloatLaws Sys2Proof.RowLaws

/-! ### Tables -/

/-- Mask instructions and compares. -/
def MaskRows (s : State) (i : Instr) : Prop := Listed (vmaskRow s i) (fun r => r.Ready s → r.Holds s (exec i s)) True

def CompareRows (s : State) (i : Instr) : Prop :=
  Listed (vcmpRow s i) (fun (d, m, n, c) => MaskHolds s d m n c (exec i s)) (MaskRows s i)

/-- Lane by lane. -/
def FloatLaneRows (s : State) (i : Instr) : Prop := Listed (vfpRow s i) (fun r => LanesHold s r (exec i s)) (CompareRows s i)

def LaneRows (s : State) (i : Instr) : Prop :=
  Listed (vintRow s i) (fun r => (∀ n ∈ r.need, XReady s n) → LanesHold s r (exec i s)) (FloatLaneRows s i)

/-! ### Each instruction -/

set_option tactic.hygienic false in -- the fields of the other instructions keep their names, so that their cases are one term
/-- Every instruction runs as the tables that list it state. -/
theorem vector_rows (s : State) (i : Instr) : LaneRows s i := by
  apply Instr.rec (motive := LaneRows s)
  case vadd => exact vintOp_row (f := fun _ x y => x + y) (fun _ x y => x + y) fun _ _ _ => (BitVec.ofInt_natCast ..).symm
  case vsub => exact vintOp_row (f := fun _ x y => x - y) (fun _ x y => (x : Int) - y) @sub_eq_ofInt
  case vmul => exact vintOp_row (f := fun _ x y => x * y) (fun _ x y => x * y) fun _ _ _ => (BitVec.ofInt_natCast ..).symm
  case vmulh =>
    exact vintOp_row (f := fun w x y => BitVec.ofInt w (x.toInt * y.toInt / 2 ^ w))
      (fun w x y => sgn w x * sgn w y / 2 ^ w) fun w => of_signed fun x y => BitVec.ofInt w (x * y / 2 ^ w)
  case vmulhu =>
    exact vintOp_row (f := fun w x y => BitVec.ofNat w (x.toNat * y.toNat / 2 ^ w))
      (fun w x y => (x : Int) * y / 2 ^ w) @mulhu_eq_ofInt
  case vmin => exact vintOp_row (f := fun _ x y => if x.sle y then x else y) (fun w x y => Min.min (sgn w x) (sgn w y)) @smin_eq_ofInt
  case vmax => exact vintOp_row (f := fun _ x y => if x.sle y then y else x) (fun w x y => Max.max (sgn w x) (sgn w y)) @smax_eq_ofInt
  case vminu => exact vintOp_row (f := fun _ x y => if x.ule y then x else y) (fun _ x y => (Min.min x y : Nat)) @umin_eq_ofInt
  case vmaxu => exact vintOp_row (f := fun _ x y => if x.ule y then y else x) (fun _ x y => (Max.max x y : Nat)) @umax_eq_ofInt
  case vand =>
    exact vintOp_row (f := fun _ x y => x &&& y)
      (fun _ x y => (x &&& y : Nat)) fun _ x y => eq_ofInt_of_toNat (BitVec.toNat_and x y)
  case vor =>
    exact vintOp_row (f := fun _ x y => x ||| y)
      (fun _ x y => (x ||| y : Nat)) fun _ x y => eq_ofInt_of_toNat (BitVec.toNat_or x y)
  case vxor =>
    exact vintOp_row (f := fun _ x y => x ^^^ y)
      (fun _ x y => (x ^^^ y : Nat)) fun _ x y => eq_ofInt_of_toNat (BitVec.toNat_xor x y)
  case vsll =>
    exact vintOp_row (f := fun w x y => x <<< (y.toNat % w))
      (fun w x y => (x : Int) * 2 ^ (y % w)) fun w x y => shiftLeft_eq_ofInt x (y.toNat % w)
  case vsrl =>
    exact vintOp_row (f := fun w x y => x >>> (y.toNat % w))
      (fun w x y => (x : Int) / 2 ^ (y % w)) fun w x y => ushiftRight_eq_ofInt x (y.toNat % w)
  case vsra =>
    exact vintOp_row (f := fun w x y => x.sshiftRight (y.toNat % w))
      (fun w x y => sgn w x / 2 ^ (y % w)) fun w x y => sshiftRight_eq_ofInt x (y.toNat % w)
  case vadds =>
    exact vintOp_row (f := fun w x y => satS w (x.toInt + y.toInt))
      (fun w x y => clampS w (sgn w x + sgn w y)) fun w => of_signed fun x y => satS w (x + y)
  case vsubs =>
    exact vintOp_row (f := fun w x y => satS w (x.toInt - y.toInt))
      (fun w x y => clampS w (sgn w x - sgn w y)) fun w => of_signed fun x y => satS w (x - y)
  case vabs =>
    exact fun d a => vintOp_row (f := fun _ x _ => if x.msb then -x else x) (fun w x _ => |sgn w x|) (fun _ x _ => abs_eq_ofInt x)
      (d := d) (a := a) (b := a)
  case vneg =>
    exact fun d a => vintOp_row (f := fun _ x _ => -x) (fun _ x _ => -(x : Int)) (fun _ x _ => neg_eq_ofInt x) (d := d) (a := a) (b := a)
  case vdup =>
    exact fun _ a _ _ => ⟨fun ready => lanesHold_of_eq
      ((exec_vdup ..).trans (withX_ready s a _ (ready a (List.mem_singleton.2 rfl)))) (laneOp_holds _ fun _ _ _ => rfl), trivial⟩
  case vfadd => exact rounded_row fun _ x y => fplus x y
  case vfsub => exact rounded_row fun _ x y => fplus x (fneg y)
  case vfmul => exact rounded_row fun _ x y => ftimes x y
  case vfmadd => exact rounded_row fun d x y => fplus (ftimes x y) d
  case vfmsub => exact rounded_row fun d x y => fplus (ftimes x y) (fneg d)
  case vfnmadd => exact rounded_row fun d x y => fplus (fneg (ftimes x y)) (fneg d)
  case vfnmsub => exact rounded_row fun d x y => fplus (fneg (ftimes x y)) d
  case vfdiv =>
    exact vfpOp_row (fun t => fdiv2 t .rne 0) (fun t => fdiv2 t .rne 0) (fun ty => fdiv2_lt (hasBits_ftypeFmt ty) .rne 0) fun _ _ _ _ => rfl
  case vfsqrt =>
    exact fun d a => vfpOp_row (fun t x _ => fsqrt1 t .rne 0 x) (fun t x _ => fsqrt1 t .rne 0 x)
      (fun ty x _ => fsqrt1_lt (hasBits_ftypeFmt ty) .rne 0 x) (fun _ _ _ _ => rfl) (d := d) (a := a) (b := a)
  case vfmin => exact vfpOp_row fmin2 fmin2 (fun _ _ _ => pick_lt ..) fun _ _ _ _ => rfl
  case vfmax => exact vfpOp_row fmax2 fmax2 (fun _ _ _ => pick_lt ..) fun _ _ _ _ => rfl
  case vfabs =>
    exact fun d a => vfpOp_row (fun t x _ => withSign t x false) (fun t x _ => if fdecode t x = .nan then fnan t else x % fsign t)
      (fun _ _ _ => withSign_lt ..) (fun _ _ _ _ => if_congr isNaN_iff rfl rfl) (d := d) (a := a) (b := a)
  case vfneg =>
    exact fun d a => vfpOp_row (fun t x _ => withSign t x !signBit t x)
      (fun t x _ => if fdecode t x = .nan then fnan t else if x < fsign t then x + fsign t else x - fsign t)
      (fun _ _ _ => withSign_lt ..) (fun _ _ _ h => withSign_not h) (d := d) (a := a) (b := a)
  case vfdup => exact fun _ _ _ _ => ⟨laneOp_holds [] fun _ _ _ => rfl, trivial⟩
  case vceq => exact vcmpOp_row (f := fun _ x y => x == y) (fun _ x y => x = y) fun _ _ _ => beq_iff_eq.trans BitVec.toNat_inj.symm
  case vcne => exact vcmpOp_row (f := fun _ x y => x != y) (fun _ x y => x ≠ y) fun _ _ _ => bne_iff_ne.trans BitVec.toNat_ne
  case vclt => exact vcmpOp_row (f := fun _ x y => x.slt y) (fun w x y => sgn w x < sgn w y) @slt_iff_sgn
  case vcle => exact vcmpOp_row (f := fun _ x y => x.sle y) (fun w x y => sgn w x ≤ sgn w y) @sle_iff_sgn
  case vcltu => exact vcmpOp_row (f := fun _ x y => x.ult y) (fun _ x y => x < y) fun _ _ _ => BitVec.ult_iff_toNat_lt
  case vcleu => exact vcmpOp_row (f := fun _ x y => x.ule y) (fun _ x y => x ≤ y) fun _ _ _ => BitVec.ule_iff_toNat_le
  case vfceq =>
    exact vfcmpOp_row (f := feq2) (fun t x y => fleVal (fdecode t x) (fdecode t y) = true ∧ fleVal (fdecode t y) (fdecode t x) = true)
      fun _ _ _ => Bool.and_eq_true_iff
  case vfclt =>
    exact vfcmpOp_row (f := flt2) (fun t x y => fleVal (fdecode t x) (fdecode t y) = true ∧ fleVal (fdecode t y) (fdecode t x) = false)
      flt2_iff
  case vfcle => exact vfcmpOp_row (f := fle2) (fun t x y => fleVal (fdecode t x) (fdecode t y) = true) fun _ _ _ => Iff.rfl
  case mand | mor | mxor | mandn => exact fun _ _ _ => ⟨fun _ => done_setM .., trivial⟩
  case mnot => exact fun _ _ => ⟨fun _ => done_setM .., trivial⟩
  case mtox => exact fun _ _ => ⟨fun _ => done_setX .., trivial⟩
  case mfirst => exact fun d a => ⟨fun _ => done_setX_of s d fun l => ctzW (mval l a), trivial⟩
  case mpopc =>
    exact fun d a => ⟨fun _ => IntegerLaws.popcW_eq (mval s.slot a) ▸ done_setX_of s d fun l => popcW (mval l a), trivial⟩
  case mfromx =>
    exact fun _ a => ⟨fun ready => (exec_mfromx ..).trans (withX_ready s a _ (ready a (List.mem_singleton.2 rfl))) ▸ done_setM .., trivial⟩
  all_goals
    intros
    exact True.intro

/-- Settles O16: integer lanes are exact functions reduced to their width, floating lanes are encodings of their format. -/
theorem vectorLanes : Obligations.VectorLanes :=
  ⟨fun i s _ row => (vector_rows s i).holds row, fun i s _ row => (vector_rows s i).rest.holds row⟩

theorem compareRows (s : State) (i : Instr) : CompareRows s i := (vector_rows s i).rest.rest

/-- Settles O17: a mask is the sum of its bits; a form that moves lanes takes each from the gang vector. -/
theorem masksAndPermutes : Obligations.MasksAndPermutes :=
  ⟨⟨fun i s _ _ _ _ row => (compareRows s i).holds row, fun i s _ row => (compareRows s i).rest.holds row⟩, permutes⟩

end Sys2Proof.LaneLaws
end

section
/-! PROOFS. send, sev and recv (07 R154, R155, R158; 20 R317, R319, R320). -/

namespace Sys2Proof.MessageLaws

open Sys2Proof.Machine Sys2Proof.Safety Sys2Proof.Laws Sys2Proof.WindowLaws

/-! ### Held writes -/

theorem holdWrite_enters {s : State} {h : Held} (value : Word) (room : holdUsed s.slot + heldCost h ≤ 4096 * partHold s.slot) :
    ∃ t, holdWrite 4 h value s = .next t ∧ Retires s t 4 ∧ t.slot.hold = s.slot.hold ++ [h] ∧
      Control s { t with slot := { t.slot with hold := s.slot.hold } } :=
  ⟨_, if_pos (decide_eq_true room), ⟨rfl, rfl⟩, rfl, rfl⟩

theorem holdWrite_full {s : State} {h : Held} (value : Word) (full : 4096 * partHold s.slot < holdUsed s.slot + heldCost h) :
    Traps s .holdfull value (holdWrite 4 h value s) :=
  if_neg (mt of_decide_eq_true (Nat.not_le_of_gt full))

/-- The instruction reads xa, and goes on where the code verdict is in. -/
theorem withX_verdict {a : BitVec 5} {s : State} (ready : XReady s a) (verdict : verdictPending s = false) (k : Word → Out) :
    (withX a s fun x => if verdictPending s then stall s else k x) = k (xval s.slot a) :=
  (withX_ready s a _ ready).trans (if_neg (Bool.eq_false_iff.1 verdict))

/-- Each is a held write of its cost. -/
theorem exec_held {i : Instr} {h : Held} {cost : Nat} {a : BitVec 5} {s : State} (ready : XReady s a) (verdict : verdictPending s = false)
    (form : (∃ b, i = .send a b ∧ h = .send (xval s.slot a) (vval s.slot b) ∧ cost = 80) ∨
      (i = .sev a ∧ h = .sev (xval s.slot a) ∧ cost = 16)) : exec i s = holdWrite 4 h (xval s.slot a) s ∧ cost = heldCost h :=
  form.elim
    (fun send => send.elim fun b is => ⟨(congrArg (exec · s) is.1).trans ((withX_verdict ready verdict fun x =>
      holdWrite 4 (.send x (vval s.slot b)) x s).trans (congrArg (holdWrite 4 · _ s) is.2.1.symm)), is.2.2.trans (congrArg heldCost is.2.1.symm)⟩)
    fun is => ⟨(congrArg (exec · s) is.1).trans ((withX_verdict ready verdict fun x =>
      holdWrite 4 (.sev x) x s).trans (congrArg (holdWrite 4 · _ s) is.2.1.symm)), is.2.2.trans (congrArg heldCost is.2.1.symm)⟩

theorem heldMessages : heldMessagesClause := fun _ _ _ _ _ form ready verdict =>
  have held := exec_held ready verdict form
  ⟨fun room => held.1 ▸ holdWrite_enters _ (held.2 ▸ room), fun full => held.1 ▸ holdWrite_full _ (held.2 ▸ full)⟩

/-! ### The slot that has taken a message -/

/-- vd holds the message, and x7 says so. -/
noncomputable def messageTaken (d : BitVec 5) (m : Vec) (l : Slot) : Slot := setX (setV l d m) 7 1

/-- The vector register is written, with another checkpoint. -/
noncomputable def vectorSet (l : Slot) (d : BitVec 5) (m : Vec) (old : Saved) : Slot :=
  { l with v := sset 0 l.v d.toNat m, region := { l.region with saved := old } }

/-- Slot `l` with its region closed and the message taken, where `r` says what registers and region then are. -/
noncomputable def takenAs (d : BitVec 5) (m : Vec) (l r : Slot) : Slot :=
  windowSet (vectorSet (closedAs l r.region r.regionNo r.shadow r.pending) d m r.region.saved) r.x r.xPoison r.pending r.region.saved.x r.wbase
    r.calls r.spill

theorem takenAs_of_moved {d : BitVec 5} {m : Vec} {l w r : Slot} {g : Region} {no : Nat} {sh : SMap Channel} {coming : List Pending} {old : Saved}
    (moved : WindowMoved w r) (wrote : vectorSet (closedAs l g no sh coming) d m old = w) : r = takenAs d m l r := by
  induction wrote
  exact Eq.trans moved (congrArg (takenAs d m l) moved).symm

theorem setV_vectorSet (l : Slot) (d : BitVec 5) (m : Vec) : setV l d m = vectorSet l d m (saveV l d.toNat).region.saved := setV_eq l d m

theorem messageTaken_eq (d : BitVec 5) (m : Vec) (l : Slot) : messageTaken d m (closeRegion l) = takenAs d m l (messageTaken d m (closeRegion l)) :=
  (closeRegion_closedAs l).elim fun _ h => h.elim fun _ shut =>
    takenAs_of_moved (putX_moved (setV (closeRegion l) d m) 7 1 none) ((setV_vectorSet (closeRegion l) d m).trans
      (congrArg (vectorSet · d m _) shut)).symm

theorem xval_closeRegion (l : Slot) (n : BitVec 5) : xval (closeRegion l) n = xval l n :=
  (closeRegion_closedAs l).elim fun _ h => h.elim fun _ shut => (congrArg (xval · n) shut :)

theorem xval_messageTaken (d : BitVec 5) (m : Vec) (l : Slot) {n : BitVec 5} (other : n ≠ 7) :
    xval (messageTaken d m (closeRegion l)) n = xval l n :=
  (xval_setX (setV (closeRegion l) d m) 7 n 1).trans ((congrArg (fun v => if n = 0 then 0 else v) (if_neg other)).trans
    ((ite_eq_right_iff.2 fun zero => zero ▸ rfl).trans ((congrArg (xval · n) (setV_vectorSet (closeRegion l) d m) :).trans
      (xval_closeRegion l n))))

/-! ### The boundary behind it -/

/-- The slot with those messages in its inbox. -/
noncomputable def inboxSet (l : Slot) (inbox : List Vec) : Slot := { l with inbox := inbox }

theorem boundary_of_taken {d : BitVec 5} {m : Vec} {s t : State} {inbox : List Vec} {r : Slot}
    (taken : t.slot = inboxSet (takenAs d m s.slot r) inbox) (mask : r.region.mask = s.slot.region.mask) (no : s.slot.regionNo ≤ r.regionNo) : Boundary s (reopen (retire 4 t)) 4 :=
  ⟨⟨congrArg (·.retired + 1) taken, (congrArg (fun l => loopNext l (l.pc + 4) false) taken :)⟩,
    congrArg (fun g => (openRegion g false (retire 4 t).slot).region) ((congrArg (·.region.mask) taken).trans mask),
    Nat.lt_succ_of_le (no.trans_eq (congrArg Slot.regionNo taken).symm), rfl, List.forall_mem_map.2 fun _ _ => ⟨rfl, rfl⟩⟩

/-! ### recv -/

/-- What recv does with the message that it finds. -/
noncomputable def recvThen (d : BitVec 5) (s : State) (next : Option Vec) : Out :=
  match next with
  | none => doneBoundary 4 (onSlot s fun l => setX l 7 0)
  | some m => doneBoundary 4 (freeMessage (onSlot s (messageTaken d m)))

theorem exec_recv_ready {d : BitVec 5} {s : State} {next : Option Vec} (closes : CanClose s) (found : nextMessage s = next) :
    exec (.recv d) s = recvThen d (closed s) next :=
  have same : nextMessage (closed s) = nextMessage s := (closeRegion_closedAs s.slot).elim fun _ h => h.elim fun _ shut =>
    (congrArg (fun l => nextMessage (onSlot s fun _ => l)) shut :)
  (closeThen_ready s (fun s => recvThen d s (nextMessage s)) closes).trans (congrArg (recvThen d (closed s)) (same.trans found))

/-- Who serves the slot in hand does not depend on what it holds beside its task. -/
theorem unserved_onSlot {s : State} {f : Slot → Slot} (task : s.cur.slot ≠ 4) (kept : (f s.slot).task = s.slot.task)
    (unserved : (getSlot s ⟨s.cur.core, 4⟩).serves ≠ some (s.cur.slot, s.slot.task)) :
    (getSlot (onSlot s f) ⟨s.cur.core, 4⟩).serves ≠ some (s.cur.slot, (f s.slot).task) :=
  have other : (⟨s.cur.core, 4⟩ : SlotId) ≠ s.cur := fun c => task (congrArg SlotId.slot c).symm
  have same : getSlot s ⟨s.cur.core, 4⟩ = getSlot (onSlot s f) ⟨s.cur.core, 4⟩ := (if_neg other).trans (if_neg other).symm
  fun c => unserved ((congrArg Slot.serves same).trans (c.trans (congrArg (fun k => some (s.cur.slot, k)) kept)))

theorem length_dropFirst {α : Type} {p : α → Bool} {xs : List α} {x : α} (found : xs.find? p = some x) :
    (dropFirst p xs).length + 1 = xs.length := by
  induction xs with
  | nil => exact (Option.some_ne_none x found.symm).elim
  | cons y t ih =>
    by_cases h : p y
    · exact congrArg (fun l : List α => l.length + 1) (if_pos h)
    · exact (congrArg (fun l : List α => l.length + 1) (if_neg h)).trans (congrArg (· + 1) (ih ((List.find?_cons_of_neg h).symm.trans found)))

/-- The slot in hand has closed its region and taken the message, and `rest` is left in its inbox. -/
noncomputable def takenIn (d : BitVec 5) (m : Vec) (rest : List Vec) (s : State) : State :=
  onSlot s fun l => inboxSet (takenAs d m l (messageTaken d m (closeRegion l))) rest

/-- The message has left the inbox. -/
noncomputable def dropped (l : Slot) : Slot := inboxSet l (l.inbox.drop 1)

/-- In a task slot that no activation serves, the message leaves the inbox, and no latch is set. -/
theorem freeMessage_task {d : BitVec 5} {m : Vec} {rest : List Vec} {s : State} (task : s.cur.slot ≠ 4)
    (unserved : (getSlot s ⟨s.cur.core, 4⟩).serves ≠ some (s.cur.slot, s.slot.task)) (waiting : s.slot.inbox = m :: rest) :
    freeMessage (onSlot (closed s) (messageTaken d m)) = takenIn d m rest s :=
  (if_neg task).trans ((if_neg (unserved_onSlot (f := fun l => dropped (messageTaken d m (closeRegion l))) task
      (congrArg (fun l => (dropped l).task) (messageTaken_eq d m s.slot) :) unserved)).trans
    ((congrArg (fun l => onSlot s fun _ => dropped l) (messageTaken_eq d m s.slot) :).trans
      (congrArg (fun q : List Vec => takenIn d m (q.drop 1) s) waiting :)))

theorem exec_recv_task {d : BitVec 5} {m : Vec} {rest : List Vec} {s : State} (closes : CanClose s) (task : s.cur.slot ≠ 4)
    (unserved : (getSlot s ⟨s.cur.core, 4⟩).serves ≠ some (s.cur.slot, s.slot.task)) (waiting : s.slot.inbox = m :: rest) :
    exec (.recv d) s = doneBoundary 4 (takenIn d m rest s) :=
  (exec_recv_ready closes ((if_neg task).trans (congrArg List.head? waiting))).trans
    (congrArg (doneBoundary 4) (freeMessage_task task unserved waiting))

theorem messageTaken_region (d : BitVec 5) (m : Vec) (l : Slot) :
    (messageTaken d m l).region.mask = l.region.mask ∧ (messageTaken d m l).regionNo = l.regionNo :=
  have moved := putX_moved (setV l d m) 7 1 none
  ⟨(congrArg (·.region.mask) moved :).trans (congrArg (·.region.mask) (setV_vectorSet l d m)),
    (congrArg Slot.regionNo moved :).trans (congrArg Slot.regionNo (setV_vectorSet l d m) :)⟩

theorem taken_boundary {d : BitVec 5} {m : Vec} {inbox : List Vec} {s t : State} (taken : t.slot = (takenIn d m inbox s).slot) :
    Boundary s (reopen (retire 4 t)) 4 :=
  boundary_of_taken taken ((messageTaken_region d m _).1.trans (closeRegion_mask s.slot))
    ((le_closeRegion_regionNo s.slot).trans_eq (messageTaken_region d m _).2.symm)

/-- The core of the service slot frees the first staged message for the activation's target. -/
noncomputable def stagedFreed (serves : Option (Nat × Nat)) (k : Core) : Core :=
  { k with staged := dropFirst (fun m => some (m.slot, m.task) == serves) k.staged }

/-- The service slot has taken the message. -/
noncomputable def takenStaged (d : BitVec 5) (m : Vec) (s : State) : State :=
  modCore (onSlot (closed s) (messageTaken d m)) s.cur.core (stagedFreed (messageTaken d m (closeRegion s.slot)).serves)

theorem exec_recv_service {d : BitVec 5} {m : Vec} {s : State} (closes : CanClose s) (service : s.cur.slot = 4) (found : nextMessage s = some m) :
    exec (.recv d) s = doneBoundary 4 (takenStaged d m s) :=
  (exec_recv_ready closes found).trans (congrArg (doneBoundary 4) (if_pos service))

theorem takenStaged_staged {d : BitVec 5} {m : Vec} {s t : State} (service : s.cur.slot = 4) (found : nextMessage s = some m)
    (cores : t.cores = (takenStaged d m s).cores) : (coreOf t s.cur.core).staged.length + 1 = (coreOf s s.cur.core).staged.length :=
  have serves : (messageTaken d m (closeRegion s.slot)).serves = s.slot.serves := (congrArg Slot.serves (messageTaken_eq d m s.slot) :)
  have core : coreOf t s.cur.core = stagedFreed s.slot.serves (coreOf s s.cur.core) :=
    (congrArg (fun k => sget ({} : Core) k s.cur.core.toNat) cores).trans
      ((coreOf_modCore_same (onSlot (closed s) (messageTaken d m)) s.cur.core _).trans (congrArg (stagedFreed · (coreOf s s.cur.core)) serves))
  (congrArg (fun k : Core => k.staged.length + 1) core).trans
    ((Option.map_eq_some_iff.1 ((if_pos service).symm.trans found)).elim fun _ p => length_dropFirst p.1)

theorem receives : receivesClause := fun d s closes =>
  ⟨fun none => ⟨retire 4 (onSlot (closed s) fun l => setX l 7 0), exec_recv_ready closes none, done_setX (closed s) 4 7 0⟩,
    fun task unserved m rest waiting => ⟨reopen (retire 4 (takenIn d m rest s)), exec_recv_task closes task unserved waiting, taken_boundary rfl,
      sget_sset_same .., xval_setX (setV (closeRegion s.slot) d m) 7 7 1, rfl, rfl,
      fun _ other => sget_sset_other 0 s.slot.v m fun c => other (BitVec.eq_of_toNat_eq c),
      fun _ other => xval_messageTaken d m s.slot other, rfl, rfl⟩,
    fun service m found => ⟨reopen (retire 4 (takenStaged d m s)), exec_recv_service closes service found,
      taken_boundary (inbox := s.slot.inbox) (messageTaken_eq d m s.slot),
      (congrArg (vval · d) (messageTaken_eq d m s.slot) :).trans (sget_sset_same ..), xval_setX (setV (closeRegion s.slot) d m) 7 7 1, rfl,
      takenStaged_staged service found rfl⟩⟩

/-- Settles O30: send and sev are held writes; recv closes its region, writes two registers and frees the message. -/
theorem messages : Obligations.Messages := ⟨heldMessages, receives⟩

end Sys2Proof.MessageLaws
end
